-- ==== Sys2Proof/Word.lean ====
section
/-! DEFINITION. The bit vectors of the part and their plainest arithmetic. -/

namespace Sys2Proof

/-- One byte of a frame (R153, R154). -/
abbrev Byte := BitVec 8

/-- A 32-bit count that wraps: the cadence count (R82), a stamp (R126), a hold deadline (R13). -/
abbrev Count32 := BitVec 32

/-- A two-byte number, most significant byte first (section 10.7). -/
def be16 (hi lo : Byte) : Nat := hi.toNat * 256 + lo.toNat

end Sys2Proof
end

