-- ==== Sys2Proof/Types.lean ====
section
/-! DEFINITION. The names and records of the spec that commands, state and responses share.
Constructors carry the spec's names; a record's fields are the rows of the table that the cited rule holds. -/

namespace Sys2Proof

/-- The three SPI links (R152). -/
inductive Link
  | a | b | c
deriving DecidableEq, Repr

/-- One value per link. -/
structure PerLink (α : Type) where
  a : α
  b : α
  c : α
deriving DecidableEq, Repr

/-- The two gates (R39). -/
inductive Gate
  | gt | gb
deriving DecidableEq, Repr

/-- One value per gate. -/
structure PerGate (α : Type) where
  gt : α
  gb : α
deriving DecidableEq, Repr

/-- The three drive channels (R57). -/
inductive Drive
  | dl | dr | db
deriving DecidableEq, Repr

/-- One value per drive channel. -/
structure PerDrive (α : Type) where
  dl : α
  dr : α
  db : α
deriving DecidableEq, Repr

/-- A slot of the Claim Table, 0 to 47 (R1). -/
abbrev SlotIx := Fin 48

/-- An analog channel A0 to A11. -/
abbrev AnalogCh := Fin 12

/-- An edge input E0 to E7. -/
abbrev EdgeIn := Fin 8

/-- The 25 resources (R165). -/
inductive Resource
  | gate (g : Gate)
  | drive (d : Drive)
  | analog (c : AnalogCh)
  | edge (e : EdgeIn)
deriving DecidableEq, Repr

/-- The sense resources, which are the sources of trips (R51). -/
inductive Source
  | analog (c : AnalogCh)
  | edge (e : EdgeIn)
deriving DecidableEq, Repr

/-- Claim kinds (R1). -/
inductive Kind
  | drive | gate | asense | esense
deriving DecidableEq, Repr

/-- Claim states (section 1.5). -/
inductive ClaimState
  | standby | inForce | suspended | retiring | complete | active | spent
deriving DecidableEq, Repr

/-- End cause of a claim (R1). -/
inductive EndCause
  | retire | lapse
deriving DecidableEq, Repr

/-- A logic level at a pin (R125). -/
inductive Level
  | low | high
deriving DecidableEq, Repr

/-- Pin patterns, which are also the directions of drive claims (R58, R59). -/
inductive Pattern
  | forward | reverse | brake | coast
deriving DecidableEq, Repr

/-- Close patterns and trip patterns (R40, R51). -/
inductive StopPattern
  | coast | brake
deriving DecidableEq, Repr

/-- A gate claim's vote (R40). -/
inductive Vote
  | votesClosed | votesOpen
deriving DecidableEq, Repr

/-- Trip targets (R108, R129). -/
inductive Target
  | noGate | gt | gb | both
deriving DecidableEq, Repr

/-- ESENSE modes (R129). -/
inductive Mode
  | period | count | level
deriving DecidableEq, Repr

/-- The edge field of an ESENSE claim (R129), and a sensitivity other than none (R125). -/
inductive EdgeSel
  | rising | falling | both
deriving DecidableEq, Repr

/-- Band states of an ASENSE claim (R109). -/
inductive Band
  | inBand | high | low
deriving DecidableEq, Repr

/-- Drive channel phases (R57). -/
inductive Phase
  | halted | idle | switching | dwell | running | windingDown
deriving DecidableEq, Repr

/-- Part state (R166). -/
inductive PartState
  | config | run
deriving DecidableEq, Repr

/-- Drive pin polarity (R61). -/
inductive Polarity
  | activeHigh | activeLow
deriving DecidableEq, Repr

/-- Cause of a trip or a hold (R51). -/
inductive TripCause
  | high | low | stall | level | test
deriving DecidableEq, Repr

/-- The sixteen notice kinds (section 10.7). -/
inductive NoticeKind
  | taken | outranked | suspended | resumed | complete | retired | lapsed | gateOpen
  | gateClosed | sample | band | motion | trip | late | overwrite | handover
deriving DecidableEq, Repr

/-- Result codes (R158). -/
inductive Result
  | ok | none | badFrame | badCheck | badRequest | badValue | notReady | locked | notAuthority
  | outOfReach | noRoom | quota | tagTaken | noSuch | stale | notOwner | pinned | ended
  | wrongKind | stillActive | notHeld | barred
deriving DecidableEq, Repr

/-- A claim handle, slot.generation (R2). -/
structure Handle where
  slot : SlotIx
  gen : Fin 16
deriving DecidableEq, Repr

/-- A link's reach map (R168): one mask bit per resource, class, quota. -/
structure Reach where
  drive : BitVec 3
  gate : BitVec 2
  analog : BitVec 12
  edge : BitVec 8
  cls : Fin 4
  quota : Nat
deriving DecidableEq, Repr

/-- Polarity of a channel's two pins (R61). -/
structure PinPolarity where
  ha : Polarity
  hb : Polarity
deriving DecidableEq, Repr

/-- DRIVE body as a request carries it (R58); burst remaining stands with the claim. -/
structure DriveBody where
  target : Nat
  direction : Pattern
  ramp : Nat
  burst : Nat
deriving DecidableEq, Repr

/-- GATE body (R40). -/
structure GateBody where
  vote : Vote
  period : Nat
  close : StopPattern
deriving DecidableEq, Repr

/-- ASENSE body (R108). -/
structure AnalogBody where
  interval : Nat
  urgency : Nat
  smoothing : Nat
  highLimit : Nat
  lowLimit : Nat
  hysteresis : Nat
  debounce : Nat
  tripHigh : Target
  tripLow : Target
  pattern : StopPattern
deriving DecidableEq, Repr

/-- ASENSE runtime (R109). -/
structure AnalogRun where
  raw : Option Nat
  smoothed : Option Nat
  band : Band
  above : Nat
  below : Nat
  fresh : Bool
  missed : Nat
deriving DecidableEq, Repr

/-- ESENSE body (R129). -/
structure EdgeBody where
  mode : Mode
  edge : EdgeSel
  interval : Nat
  stallLimit : Nat
  debounce : Nat
  active : Level
  target : Target
  pattern : StopPattern
deriving DecidableEq, Repr

/-- ESENSE runtime (R130). -/
structure EdgeRun where
  lastStamp : Option Count32
  edgeSeen : Bool
  lastPeriod : Option Nat
  running : Nat
  window : Option Nat
  stallCount : Nat
  stalled : Bool
  stable : Level
  candidate : Nat
  fresh : Bool
  overwrite : Bool
deriving DecidableEq, Repr

/-- A body of one kind, as OPEN and AMEND carry it (R165). -/
inductive Body
  | drive (b : DriveBody)
  | gate (b : GateBody)
  | asense (b : AnalogBody)
  | esense (b : EdgeBody)
deriving DecidableEq, Repr

/-- A claim's body with the runtime that the owning block keeps for it (R1): burst remaining for a
DRIVE claim (R57), nothing for a GATE claim (R40). -/
inductive Payload
  | drive (b : DriveBody) (burstLeft : Nat)
  | gate (b : GateBody)
  | asense (b : AnalogBody) (r : AnalogRun)
  | esense (b : EdgeBody) (r : EdgeRun)
deriving DecidableEq, Repr

/-- A claim record (R1). The handle is the slot's number and generation; the kind is the payload's. -/
structure Claim where
  owner : Link
  resource : Resource
  tag : BitVec 16
  cls : Fin 4
  state : ClaimState
  hold : Nat
  deadline : Option Count32
  pinned : Bool
  wantsSample : Bool
  endCause : Option EndCause
  payload : Payload
deriving DecidableEq, Repr

/-- A slot: its generation, and its claim when it is occupied (R1). -/
structure Slot where
  gen : Fin 16
  claim : Option Claim
deriving DecidableEq, Repr

/-- An entry of a notice set: a slot and its pending kinds, one bit each as R165 lays them out
(byte 2 above byte 3). -/
structure NoticeEntry where
  slot : SlotIx
  kinds : BitVec 16
deriving DecidableEq, Repr

/-- A trip hold (R51). -/
structure TripHold where
  source : Source
  cause : TripCause
  pattern : StopPattern
  owner : Link
deriving DecidableEq, Repr

/-- A trip raised by an evaluator and not yet taken by the gate (R142). -/
structure Trip where
  source : Source
  cause : TripCause
  pattern : StopPattern
  owner : Link
  raiser : Handle
deriving DecidableEq, Repr

/-- A gate unit's own state (R39). Votes and period supplier are views of the gate's list. `waited` is the model's
own: the gate clocks for which the counter has stood at its last count because its period end has not been taken yet
(log entry 22); counter and `waited` together are the clocks since the running period began. -/
structure GateUnit where
  isOpen : Bool
  counter : Nat
  waited : Nat
  applied : Option Nat
  staged : Option Nat
  close : StopPattern
  holds : List TripHold
deriving DecidableEq, Repr

/-- A drive channel's own state (R57). The head is a view of the channel's list. -/
structure DriveChannel where
  phase : Phase
  duty : Nat
  pattern : Pattern
  compare : Nat
deriving DecidableEq, Repr

/-- A conversion request that waits (R86, R98): its moment and its due list in ascending slot order. -/
structure ConvRequest where
  moment : Count32
  due : List SlotIx
deriving DecidableEq, Repr

/-- The conversion in flight (R94), with the stamp at which it will complete. -/
structure Conversion where
  channel : AnalogCh
  moment : Count32
  due : List SlotIx
  completesAt : Count32
deriving DecidableEq, Repr

/-- The arbiter and the converter (R94, R98, R102); `inFlight` absent means the converter is free. -/
structure Arbiter where
  waiting : Vector (Option ConvRequest) 12
  marks : Vector Bool 12
  markC2 : Bool
  markC3 : Bool
  inFlight : Option Conversion
deriving DecidableEq, Repr

/-- A pending change in a glitch filter (R125): the stamp at which the pin moved, and the filter time
it is judged under (R169). -/
structure PendingChange where
  stamp : Count32
  filter : Nat
deriving DecidableEq, Repr

/-- An edge input (R125). Sensitivity is a view of the input's claims. -/
structure EdgeInput where
  level : Level
  pending : Option PendingChange
  filter : Nat
deriving DecidableEq, Repr

/-- The clocks: the cadence count (R82), the gate clocks since its last advance (R93), 2000 of them at the instant of
the next one (log entry 22), and the stamp counter (R126). `momentsWait` is the model's own: the Claim Table has taken
the count's reaching its present value ahead of the sample scheduler and the edge unit, whose moments at that value
wait (R82, log entry 5). -/
structure Clock where
  divider : Nat
  cadence : Count32
  stamp : Count32
  momentsWait : Bool
deriving DecidableEq, Repr

/-- The setup store (R166 to R169), less the glitch filters, which stand with their inputs. -/
structure Setup where
  part : PartState
  authority : Link
  reach : PerLink Reach
  windows : Vector Nat 12
  polarity : PerDrive PinPolarity
deriving DecidableEq, Repr

/-- Where a claim stands in its resource's list or set (R37). -/
structure Place where
  position : Option Nat
  entries : Nat
  isSupplier : Option Bool
deriving DecidableEq, Repr

/-- READ part 0 (R22). -/
structure CommonReport where
  handle : Handle
  owner : Link
  kind : Kind
  resource : Resource
  tag : BitVec 16
  cls : Fin 4
  state : ClaimState
  hold : Nat
  timeLeft : Option Count32
  pinned : Bool
  wantsSample : Bool
  endCause : Option EndCause
  place : Place
deriving DecidableEq, Repr

/-- READ part 1 (R22): the body, with burst remaining for a DRIVE claim. -/
inductive BodyReport
  | drive (b : DriveBody) (burstLeft : Nat)
  | gate (b : GateBody)
  | asense (b : AnalogBody)
  | esense (b : EdgeBody)
deriving DecidableEq, Repr

/-- The channel runtime that a READ of a head reports (R80). -/
structure ChannelReport where
  phase : Phase
  duty : Nat
  pattern : Pattern
deriving DecidableEq, Repr

/-- READ part 2 (R22): R80 for DRIVE, R54 for GATE, R117 for ASENSE, R138 for ESENSE. -/
inductive RunReport
  | drive (channel : Option ChannelReport)
  | gate (isOpen : Bool)
  | asense (r : AnalogRun) (dueInterval : Option Nat) (inDueList : Bool) (level : Option Nat)
  | esense (r : EdgeRun) (filtered : Level) (sensitivity : Option EdgeSel) (claims : Nat)
deriving DecidableEq, Repr

/-- An entry of LIST (R38). -/
structure ListEntry where
  index : Nat
  handle : Handle
  owner : Link
  cls : Fin 4
  state : ClaimState
  vote : Option Vote
deriving DecidableEq, Repr

/-- What STATUS of the part gives for one link (R163). -/
structure LinkReport where
  barred : Bool
  notices : Nat
  unpinned : Nat
deriving DecidableEq, Repr

/-- The items of STATUS by subject (R163): R54, R80, R91 with R106, R128, and the part as a whole. The
field `setup` is the value that the setup store holds for the subject (R163's last sentence, log entry 15). -/
inductive StatusItems
  | gate (isOpen : Bool) (applied staged : Option Nat) (close : StopPattern)
      (supplier : Option Handle) (openVotes closedVotes holds : Nat)
  | drive (phase : Phase) (duty : Nat) (pattern : Pattern) (compare : Nat) (head : Option Handle)
      (entries : Nat) (setup : PinPolarity)
  | analog (dueInterval : Option Nat) (members : Nat) (waiting : Option (Count32 × Nat))
      (inFlight : Bool) (level : Option Nat) (mark : Bool) (setup : Nat)
  | edge (level : Level) (pending : Bool) (sensitivity : Option EdgeSel) (claims : Nat)
      (setup : Nat)
  | part (part : PartState) (authority : Link) (converting : Option (AnalogCh × Count32))
      (markC2 markC3 : Bool) (freeSlots : Nat) (links : PerLink LinkReport)
deriving DecidableEq, Repr

/-- The body of a response, item by item (R159 and the rules it names). -/
inductive ReplyBody
  | empty
  | claim (h : Handle) (st : ClaimState)
  | state (st : ClaimState)
  | count (n : Nat)
  | holder (owner : Link)
  | gate (isOpen : Bool) (holds : Nat)
  | poll (part : PartState) (notices : Nat) (barred : Bool) (freeSlots : Nat)
  | notices (left : Nat) (entries : List (Handle × BitVec 16))
  | evicted (ended pinned holds : Nat)
  | list (claims : Nat) (entries : List ListEntry)
  | trips (holds : Nat) (entries : List TripHold)
  | common (r : CommonReport)
  | body (r : BodyReport)
  | run (r : RunReport)
  | status (cadence : Count32) (items : StatusItems)
deriving DecidableEq, Repr

/-- A response frame (R157): code echoed, result, body. Its length and check follow from them. -/
structure Response where
  code : Byte
  result : Result
  body : ReplyBody
deriving DecidableEq, Repr

/-- A port's window (R152): between windows; in a window, with the bits received so far, first one first; or CS was low
at the release of reset and has not risen yet. -/
inductive Window
  | between
  | inWindow (received : List Bool)
  | awaitRise
deriving DecidableEq, Repr

/-- A link port (R152). ALERT is a view of the link's notice set (R161). -/
structure Port where
  window : Window
  outgoing : Option Response
  held : Option Response
  barred : Bool
deriving DecidableEq, Repr

end Sys2Proof
end

