-- ==== Sys2Proof/Config.lean ====
section
/-! DEFINITION. What the spec leaves open and every part fixes in its own way: free values, each an opaque
constant with no body, so that no proof can see what it is. -/

namespace Sys2Proof

/-- The order in which the edge unit works the claims due at one advance, which R137 leaves open: the rank of the trip
raised at a place in slot order, fresh at every draw (log entry 11). DESIGN CHOICE (a free value); safe. -/
opaque Config.momentRank : Nat → Nat → Nat

/-- Whether DROP_ALL and EVICT change a gate's list before the list of a channel under it, which R31 and
R172 leave open; fresh at every draw (log entry 12). DESIGN CHOICE (a free value); safe. -/
opaque Config.gateListFirst : Nat → Drive → Bool

/-- The number of bytes of a response body whose layout the spec does not give (log entry 9); R157
bounds it by 27. DESIGN CHOICE (a free value); safe. -/
opaque Config.bodyLength : ReplyBody → Fin 28

/-- The bytes of a response body whose layout the spec does not give (log entry 9).
DESIGN CHOICE (a free value); safe. -/
opaque Config.bodyByte : ReplyBody → Nat → Byte

/-- The places of the encoded pieces of a response body whose layout the spec does not give (log entry 9).
DESIGN CHOICE (a free value); safe. -/
opaque Config.encodedPlace : ReplyBody → Nat → Nat

end Sys2Proof
end

