-- ==== Sys2Proof/Machine/Frame.lean ====
section
/-! DEFINITION. Frames (R153, R154, R157, R165): the check, the codes, the checks on a request frame, the
bytes of a response frame. -/

namespace Sys2Proof

/-! ### The encodings of section 10.7 -/

/-- The byte of a gate, a drive channel, an analog channel, an edge input (R165). -/
def Resource.byte : Resource → Byte
  | .gate .gt => 0x00#8
  | .gate .gb => 0x01#8
  | .drive .dl => 0x10#8
  | .drive .dr => 0x11#8
  | .drive .db => 0x12#8
  | .analog c => BitVec.ofNat 8 (0x20 + c.val)
  | .edge e => BitVec.ofNat 8 (0x30 + e.val)

/-- The encodings of section 10.7, field by field. -/
def Kind.byte : Kind → Byte
  | .drive => 0x00#8
  | .gate => 0x01#8
  | .asense => 0x02#8
  | .esense => 0x03#8

def Pattern.byte : Pattern → Byte
  | .forward => 0x00#8
  | .reverse => 0x01#8
  | .brake => 0x02#8
  | .coast => 0x03#8

def Vote.byte : Vote → Byte
  | .votesClosed => 0x00#8
  | .votesOpen => 0x01#8

def StopPattern.byte : StopPattern → Byte
  | .coast => 0x00#8
  | .brake => 0x01#8

def Target.byte : Target → Byte
  | .noGate => 0x00#8
  | .gt => 0x01#8
  | .gb => 0x02#8
  | .both => 0x03#8

def Mode.byte : Mode → Byte
  | .period => 0x00#8
  | .count => 0x01#8
  | .level => 0x02#8

def EdgeSel.byte : EdgeSel → Byte
  | .rising => 0x00#8
  | .falling => 0x01#8
  | .both => 0x02#8

def Level.byte : Level → Byte
  | .low => 0x00#8
  | .high => 0x01#8

/-- A claim's wants SAMPLE: no or yes. -/
def wantsByte : Bool → Byte
  | false => 0x00#8
  | true => 0x01#8

/-- A handle's two bytes: the slot and the generation. -/
def Handle.bytes (h : Handle) : List Byte := [BitVec.ofNat 8 h.slot.val, BitVec.ofNat 8 h.gen.val]

/-- The byte of a trip's source: its resource. -/
def Source.byte : Source → Byte
  | .analog c => (Resource.analog c).byte
  | .edge e => (Resource.edge e).byte

end Sys2Proof

namespace Sys2Proof.Machine

/-- One bit of the CRC-8 with polynomial 07h (R154). -/
def crcStep (c : Byte) : Byte := if c.msb then (c <<< 1) ^^^ 0x07#8 else c <<< 1

/-- One byte of the CRC-8, most significant bit first (R154). -/
def crcByte (c b : Byte) : Byte :=
  crcStep (crcStep (crcStep (crcStep (crcStep (crcStep (crcStep (crcStep (c ^^^ b))))))))

/-- The check of R154 over bytes in the order sent, initial value 00h, no final inversion. -/
def crc8 (bs : List Byte) : Byte := bs.foldl crcByte 0#8

/-- Eight bits as a byte, first one most significant (R153). -/
def byteOfBits (b7 b6 b5 b4 b3 b2 b1 b0 : Bool) : Byte :=
  BitVec.ofNat 8 (b7.toNat * 128 + b6.toNat * 64 + b5.toNat * 32 + b4.toNat * 16 +
    b3.toNat * 8 + b2.toNat * 4 + b1.toNat * 2 + b0.toNat)

/-- The whole bytes of a window's bits; a last part of a byte is left off. -/
def bytesOfBits : List Bool → List Byte
  | b7 :: b6 :: b5 :: b4 :: b3 :: b2 :: b1 :: b0 :: rest =>
    byteOfBits b7 b6 b5 b4 b3 b2 b1 b0 :: bytesOfBits rest
  | _ => []

/-- The bits of a byte in the order they are sent (R153). -/
def bitsOfByte (b : Byte) : List Bool :=
  [b.getLsbD 7, b.getLsbD 6, b.getLsbD 5, b.getLsbD 4, b.getLsbD 3, b.getLsbD 2, b.getLsbD 1, b.getLsbD 0]

/-- The request codes of the code table (section 10.7). -/
def requestCodes : List Byte :=
  [0x00#8, 0x01#8, 0x02#8, 0x03#8, 0x04#8, 0x05#8, 0x06#8, 0x10#8, 0x11#8, 0x12#8, 0x13#8, 0x14#8,
   0x20#8, 0x21#8, 0x30#8, 0x31#8, 0x32#8, 0x40#8, 0x41#8, 0x42#8, 0x43#8, 0x44#8]

/-- A request frame: code, body length, body, check, and then any fill (R154, section 10.7). -/
def requestFrame (code : Byte) (body fill : List Byte) : List Byte :=
  let head := code :: BitVec.ofNat 8 body.length :: body
  head ++ [crc8 head] ++ fill

/-- The first check of R154 that a window's bits fail, or none when they are a request. -/
def frameError (bits : List Bool) : Option Result :=
  let bytes := bytesOfBits bits
  let len := (bytes.getD 1 0#8).toNat
  if bits.length % 8 ≠ 0 ∨ bytes.length < 3 ∨ 31 < bytes.length ∨ 28 < len ∨ bytes.length < 3 + len then
    some .badFrame
  else if bytes.getD (2 + len) 0#8 ≠ crc8 (bytes.take (2 + len)) then some .badCheck
  else if (bytes.getD 0 0#8) ∈ requestCodes then none
  else some .badRequest

/-- The result codes (R158). -/
def resultByte : Result → Byte
  | .ok => 0x00#8
  | .none => 0x01#8
  | .badFrame => 0x02#8
  | .badCheck => 0x03#8
  | .badRequest => 0x04#8
  | .badValue => 0x05#8
  | .notReady => 0x06#8
  | .locked => 0x07#8
  | .notAuthority => 0x08#8
  | .outOfReach => 0x09#8
  | .noRoom => 0x0A#8
  | .quota => 0x0B#8
  | .tagTaken => 0x0C#8
  | .noSuch => 0x0D#8
  | .stale => 0x0E#8
  | .notOwner => 0x0F#8
  | .pinned => 0x10#8
  | .ended => 0x11#8
  | .wrongKind => 0x12#8
  | .stillActive => 0x13#8
  | .notHeld => 0x14#8
  | .barred => 0x15#8

/-- The encoding of a claim state (section 10.7). -/
def stateByte : ClaimState → Byte
  | .standby => 0x00#8
  | .inForce => 0x01#8
  | .suspended => 0x02#8
  | .retiring => 0x03#8
  | .complete => 0x04#8
  | .active => 0x05#8
  | .spent => 0x06#8

/-- The encoding of the part state (section 10.7). -/
def partByte : PartState → Byte
  | .config => 0x00#8
  | .run => 0x01#8

/-- The encoding of a link (section 10.7). -/
def linkByte : Link → Byte
  | .a => 0x00#8
  | .b => 0x01#8
  | .c => 0x02#8

/-- A notice entry's four bytes (section 10.7). -/
def noticeBytes (e : Handle × BitVec 16) : List Byte :=
  [BitVec.ofNat 8 e.1.slot.val, BitVec.ofNat 8 e.1.gen.val, e.2.extractLsb' 8 8, e.2.extractLsb' 0 8]

/-! ### Response bodies

Section 10.7 gives the bytes of handles, resources, links and the fields of its encodings table, wherever they stand, and
the layout of few bodies. In the others those bytes stand each in one piece, at places that are free, and the bytes
around them are free (log entry 9). -/

/-- The encoded pieces of an entry of LIST. -/
def ListEntry.pieces (e : ListEntry) : List (List Byte) :=
  [e.handle.bytes, [linkByte e.owner], [stateByte e.state]] ++ e.vote.toList.map fun v => [v.byte]

/-- The encoded pieces of a hold in TRIPS. -/
def TripHold.pieces (h : TripHold) : List (List Byte) := [[h.source.byte], [h.pattern.byte], [linkByte h.owner]]

/-- The encoded pieces of READ part 0. -/
def CommonReport.pieces (r : CommonReport) : List (List Byte) :=
  [r.handle.bytes, [linkByte r.owner], [r.kind.byte], [r.resource.byte], [stateByte r.state], [wantsByte r.wantsSample]]

/-- The encoded pieces of READ part 1. -/
def BodyReport.pieces : BodyReport → List (List Byte)
  | .drive b _ => [[b.direction.byte]]
  | .gate b => [[b.vote.byte], [b.close.byte]]
  | .asense b => [[b.tripHigh.byte], [b.tripLow.byte], [b.pattern.byte]]
  | .esense b => [[b.mode.byte], [b.edge.byte], [b.active.byte], [b.target.byte], [b.pattern.byte]]

/-- The encoded pieces of STATUS, by subject. -/
def StatusItems.pieces : StatusItems → List (List Byte)
  | .gate _ _ _ close supplier _ _ _ => [close.byte] :: supplier.toList.map Handle.bytes
  | .drive _ _ _ _ head _ _ => head.toList.map Handle.bytes
  | .analog _ _ _ _ _ _ _ => []
  | .edge _ _ _ _ _ => []
  | .part part authority converting _ _ _ _ =>
    [[partByte part], [linkByte authority]] ++ converting.toList.map fun x => [(Resource.analog x.1).byte]

/-- The pieces of a response body that section 10.7 encodes and gives no place. A LIST carries three entries at most
(R38), and TRIPS six holds (R164). -/
def ReplyBody.pieces : ReplyBody → List (List Byte)
  | .claim h st => [h.bytes, [stateByte st]]
  | .poll part _ _ _ => [[partByte part]]
  | .list _ es => (es.take 3).flatMap ListEntry.pieces
  | .trips _ hs => (hs.take 6).flatMap TripHold.pieces
  | .common r => CommonReport.pieces r
  | .body r => BodyReport.pieces r
  | .status _ items => StatusItems.pieces items
  | .empty => []
  | .state _ => []
  | .count _ => []
  | .holder _ => []
  | .gate _ _ => []
  | .notices _ _ => []
  | .evicted _ _ _ => []
  | .run _ => []

/-- Pieces put one after the other between the pieces that are there already, each at its place. -/
def weave (place : Nat → Nat) : List (List Byte) → List (List Byte) → List (List Byte)
  | [], there => there
  | p :: ps, there => weave (fun n => place (n + 1)) ps (there.take (place 0) ++ p :: there.drop (place 0))

/-- A body's encoded pieces at free places among other bytes. -/
def piecesAmong (b : ReplyBody) (rest : List Byte) : List Byte :=
  (weave (Config.encodedPlace b) (ReplyBody.pieces b) (rest.map fun x => [x])).flatten

/-- The free bytes of a response body whose layout the spec does not give (log entry 9). -/
def freeBytes (b : ReplyBody) : List Byte := (List.range (Config.bodyLength b).val).map (Config.bodyByte b)

/-- The bytes of a response body: by section 10.7 where it gives the layout (the empty body, the notice entries, and a
body that is one encoded byte); a handle and a state alone, in either order, for OPEN and LOOKUP; and else the
encoded pieces at free places among free bytes, within the 27 bytes of R157 (log entry 9). -/
def replyBytes (b : ReplyBody) : List Byte :=
  match b with
  | .empty => []
  | .notices left entries => BitVec.ofNat 8 left :: entries.flatMap noticeBytes
  | .state st => [stateByte st]
  | .holder l => [linkByte l]
  | .claim _ _ => piecesAmong b []
  | b => piecesAmong b ((freeBytes b).drop (ReplyBody.pieces b).flatten.length)

/-- A response frame: code, result, body length, body, check (section 10.7). -/
def responseBytes (r : Response) : List Byte :=
  let body := replyBytes r.body
  let head := r.code :: resultByte r.result :: BitVec.ofNat 8 body.length :: body
  head ++ [crc8 head]

/-- The empty frame (R153). -/
def emptyFrame : Response := ⟨0x00#8, .none, .empty⟩

end Sys2Proof.Machine
end

