-- ==== Sys2Proof/Syntax.lean ====
section
/-! DEFINITION. The commands of the part, one constructor per row of spec/opcode_table.json. -/

namespace Sys2Proof

/-- A command. A request row names its link and carries the body of its frame: the frame that the
window brought is the row's code, the body's length, the body and a right check (log entry 6). -/
inductive Instr
  /-- POWER_ON_RESET: power-up, or RESET low (R171). -/
  | powerOnReset
  /-- RESET_RELEASE: the level at AUTH, the levels at E0 to E7 and whether each link's CS is low at the
  release (R167, R141, R152). -/
  | resetRelease (auth : Level) (pins : Vector Level 8) (csLow : PerLink Bool)
  /-- WINDOW_BEGIN: the link's CS falls (R153). -/
  | windowBegin (l : Link)
  /-- FRAME_REFUSED: bits are clocked in, first one first, and CS rises on a window that fails a frame check (R154). -/
  | frameRefused (l : Link) (bits : List Bool)
  | poll (l : Link) (body : List Byte)
  | status (l : Link) (body : List Byte)
  | trips (l : Link) (body : List Byte)
  | list (l : Link) (body : List Byte)
  | read (l : Link) (body : List Byte)
  | lookup (l : Link) (body : List Byte)
  | takeNotices (l : Link) (body : List Byte)
  | openClaim (l : Link) (body : List Byte)
  | amend (l : Link) (body : List Byte)
  | renew (l : Link) (body : List Byte)
  /-- RENEW_ALL: a RENEW whose body is empty (R12, R165). -/
  | renewAll (l : Link)
  | retire (l : Link) (body : List Byte)
  | dropAll (l : Link) (body : List Byte)
  | clearTrip (l : Link) (body : List Byte)
  | testTrip (l : Link) (body : List Byte)
  | pin (l : Link) (body : List Byte)
  | evict (l : Link) (body : List Byte)
  | admitLink (l : Link) (body : List Byte)
  | setReach (l : Link) (body : List Byte)
  | setAnalog (l : Link) (body : List Byte)
  | setEdge (l : Link) (body : List Byte)
  | setDrive (l : Link) (body : List Byte)
  | lockSetup (l : Link) (body : List Byte)
  /-- CADENCE_ADVANCE (R82). -/
  | cadenceAdvance
  /-- HOLD_EXPIRY of the claim in a slot (R14). -/
  | holdExpiry (i : SlotIx)
  /-- PERIOD_END of a gate (R47). -/
  | periodEnd (g : Gate)
  /-- CONVERSION_COMPLETE with the code the converter yields (R95, R96). -/
  | conversionComplete (value : BitVec 12)
  /-- EDGE_PIN_CHANGE: the pin of an input moves to a level, `micros` µs into the cadence tick (R127). -/
  | edgePinChange (e : EdgeIn) (lvl : Level) (micros : Nat)
  /-- ACCEPTED_EDGE: the input's pending change has held for its filter time (R127, R128). -/
  | acceptedEdge (e : EdgeIn)
  /-- TRIP_TAKEN: a gate takes the oldest trip that waits for it (R143). -/
  | tripTaken (g : Gate)
  /-- CS_RISE_AFTER_RESET on a link whose CS was low at the release (R152). -/
  | csRiseAfterReset (l : Link)
deriving DecidableEq, Repr

end Sys2Proof
end

