-- ==== Sys2Proof/WellFormed.lean ====
section
/-! DEFINITION. Which commands name something that can come about: the checks on a command's operands
that its row's rule makes. -/

namespace Sys2Proof

/-- A request frame's body is at most 28 bytes (R154 step 1). -/
def bodyFits (body : List Byte) : Bool := body.length ≤ 28

/-- A command is well formed when its operands fit its row: a request's body fits a frame (R154), a RENEW
names a handle (R165), a refused frame's bits fail a check (R154), a pin moves within a cadence tick of
125 µs (R126). -/
def Instr.wellFormed : Instr → Bool
  | .powerOnReset => true
  | .resetRelease _ _ _ => true
  | .windowBegin _ => true
  | .frameRefused _ bits => (Machine.frameError bits).isSome
  | .poll _ body => bodyFits body
  | .status _ body => bodyFits body
  | .trips _ body => bodyFits body
  | .list _ body => bodyFits body
  | .read _ body => bodyFits body
  | .lookup _ body => bodyFits body
  | .takeNotices _ body => bodyFits body
  | .openClaim _ body => bodyFits body
  | .amend _ body => bodyFits body
  | .renew _ body => bodyFits body && !body.isEmpty
  | .renewAll _ => true
  | .retire _ body => bodyFits body
  | .dropAll _ body => bodyFits body
  | .clearTrip _ body => bodyFits body
  | .testTrip _ body => bodyFits body
  | .pin _ body => bodyFits body
  | .evict _ body => bodyFits body
  | .admitLink _ body => bodyFits body
  | .setReach _ body => bodyFits body
  | .setAnalog _ body => bodyFits body
  | .setEdge _ body => bodyFits body
  | .setDrive _ body => bodyFits body
  | .lockSetup _ body => bodyFits body
  | .cadenceAdvance => true
  | .holdExpiry _ => true
  | .periodEnd _ => true
  | .conversionComplete _ => true
  | .edgePinChange _ _ micros => decide (micros < 125)
  | .acceptedEdge _ => true
  | .tripTaken _ => true
  | .csRiseAfterReset _ => true

end Sys2Proof
end

