-- ==== Sys2Proof/Machine/State.lean ====
section
/-! DEFINITION. The state of the part, plain data, and its value right after reset. -/

namespace Sys2Proof.Machine

/-- The part stops on no command: no rule of the spec stops it. Nobody raises a fault. -/
inductive Fault
deriving DecidableEq, Repr

/-- Reasons for which a command has no meaning in the model. -/
inductive Refusal
  /-- Raised by `exec` for a command that has no meaning yet, by its mnemonic; safe. No arm raises it. -/
  | notModelled (mnemonic : String)
deriving DecidableEq, Repr

structure State where
  /-- The commands that wait, first in first out. -/
  pending : List Instr
  /-- The model's own count of the free values drawn so far (log entries 11, 12). -/
  draws : Nat
  /-- Power-on reset is being held (R171). -/
  resetHeld : Bool
  /-- Cadence count, its divider and the stamp counter (R82, R93, R126). -/
  clock : Clock
  /-- The setup store (R166 to R169). -/
  setup : Setup
  /-- The 48 slots of the Claim Table (R1). -/
  slots : Vector Slot 48
  /-- The contention lists of DL, DR and DB (R24). -/
  driveLists : PerDrive (List SlotIx)
  /-- The contention lists of GT and GB (R24). -/
  gateLists : PerGate (List SlotIx)
  /-- The notice sets, in ascending slot order (R19, R161). -/
  notices : PerLink (List NoticeEntry)
  /-- The gate units (R39). -/
  gates : PerGate GateUnit
  /-- The drive channels (R57). -/
  drives : PerDrive DriveChannel
  /-- The waiting requests, the marks, the chits and the conversion in flight (R94, R98, R102). -/
  arbiter : Arbiter
  /-- The edge inputs (R125). -/
  inputs : Vector EdgeInput 8
  /-- Trips raised and not yet taken, per gate, oldest first (R142, log entry 10). -/
  trips : PerGate (List Trip)
  /-- The link ports (R152). -/
  ports : PerLink Port
deriving DecidableEq, Repr

/-- Setup after power-on reset, with the authority link that AUTH selects (R171). -/
def setupAtReset (authority : Link) : Setup :=
  let reach : Reach := ⟨0#3, 0#2, 0#12, 0#8, 0, 0⟩
  let pol : PinPolarity := ⟨.activeHigh, .activeHigh⟩
  { part := .config, authority := authority, reach := ⟨reach, reach, reach⟩
    windows := Vector.replicate 12 4, polarity := ⟨pol, pol, pol⟩ }

/-- A gate unit after power-on reset (R55). -/
def gateAtReset : GateUnit := ⟨false, 0, 0, none, none, .coast, []⟩

/-- A drive channel after power-on reset (R81). -/
def driveAtReset : DriveChannel := ⟨.halted, 0, .coast, 0⟩

/-- The converter and the arbiter after power-on reset (R92, R107). -/
def arbiterAtReset : Arbiter := ⟨Vector.replicate 12 none, Vector.replicate 12 false, false, false, none⟩

/-- An edge input at the release of reset, its pin at a level (R141, R171). -/
def inputAtReset (lvl : Level) : EdgeInput := ⟨lvl, none, 2⟩

/-- A link port at the release of reset (R152). -/
def portAtReset (csLow : Bool) : Port := ⟨if csLow then .awaitRise else .between, none, none, false⟩

/-- The part right after a release of reset, with the levels found there (R171 and the rules it names). -/
def State.released (auth : Level) (pins : Vector Level 8) (csLow : PerLink Bool) : State :=
  { pending := []
    draws := 0
    resetHeld := false
    clock := ⟨0, 0#32, 0#32, false⟩
    setup := setupAtReset (match auth with | .low => .a | .high => .b)
    slots := Vector.replicate 48 ⟨0, none⟩
    driveLists := ⟨[], [], []⟩
    gateLists := ⟨[], []⟩
    notices := ⟨[], [], []⟩
    gates := ⟨gateAtReset, gateAtReset⟩
    drives := ⟨driveAtReset, driveAtReset, driveAtReset⟩
    arbiter := arbiterAtReset
    inputs := #v[inputAtReset pins[0], inputAtReset pins[1], inputAtReset pins[2], inputAtReset pins[3],
      inputAtReset pins[4], inputAtReset pins[5], inputAtReset pins[6], inputAtReset pins[7]]
    trips := ⟨[], []⟩
    ports := ⟨portAtReset csLow.a, portAtReset csLow.b, portAtReset csLow.c⟩ }

/-- The part right after reset: released, with AUTH low, every edge pin LOW and every CS high (log entry 1,
DESIGN CHOICE for these three levels; unsafe), everything else as the spec gives it. -/
def State.reset : State := State.released .low (Vector.replicate 8 .low) ⟨false, false, false⟩

end Sys2Proof.Machine
end

