-- ==== Sys2Proof/Machine/Ops.lean ====
section
/-! DEFINITION. The named operations over the part's state: one home for every read and write, the Claim
Table's slots, notices, contention lists, the clocks and the link ports. -/

namespace Sys2Proof

/-- The value of a link. -/
def PerLink.get {α : Type} (p : PerLink α) : Link → α
  | .a => p.a
  | .b => p.b
  | .c => p.c

/-- One link's value changed. -/
def PerLink.set {α : Type} (p : PerLink α) (l : Link) (x : α) : PerLink α :=
  match l with
  | .a => { p with a := x }
  | .b => { p with b := x }
  | .c => { p with c := x }

/-- The value of a gate. -/
def PerGate.get {α : Type} (p : PerGate α) : Gate → α
  | .gt => p.gt
  | .gb => p.gb

/-- One gate's value changed. -/
def PerGate.set {α : Type} (p : PerGate α) (g : Gate) (x : α) : PerGate α :=
  match g with
  | .gt => { p with gt := x }
  | .gb => { p with gb := x }

/-- The value of a drive channel. -/
def PerDrive.get {α : Type} (p : PerDrive α) : Drive → α
  | .dl => p.dl
  | .dr => p.dr
  | .db => p.db

/-- One drive channel's value changed. -/
def PerDrive.set {α : Type} (p : PerDrive α) (d : Drive) (x : α) : PerDrive α :=
  match d with
  | .dl => { p with dl := x }
  | .dr => { p with dr := x }
  | .db => { p with db := x }

/-- The gate over a drive channel (R39). -/
def Drive.parent : Drive → Gate
  | .dl => .gt
  | .dr => .gt
  | .db => .gb

/-- The channels under a gate (R39). -/
def Gate.children : Gate → List Drive
  | .gt => [.dl, .dr]
  | .gb => [.db]

/-- The source as a resource. -/
def Source.resource : Source → Resource
  | .analog c => .analog c
  | .edge e => .edge e

/-- The kind of claim that suits a resource (section "Resources"). -/
def Resource.kind : Resource → Kind
  | .gate _ => .gate
  | .drive _ => .drive
  | .analog _ => .asense
  | .edge _ => .esense

/-- Whether a target includes a gate (R146). -/
def Target.includes : Target → Gate → Bool
  | .noGate, _ => false
  | .gt, g => g == .gt
  | .gb, g => g == .gb
  | .both, _ => true

/-- A close or trip pattern as a pin pattern (R50). -/
def StopPattern.pins : StopPattern → Pattern
  | .coast => .coast
  | .brake => .brake

/-- A level's opposite. -/
def Level.flip : Level → Level
  | .low => .high
  | .high => .low

/-- The body of a claim, without its runtime. -/
def Payload.body : Payload → Body
  | .drive b _ => .drive b
  | .gate b => .gate b
  | .asense b _ => .asense b
  | .esense b _ => .esense b

/-- The kind of a body. -/
def Body.kind : Body → Kind
  | .drive _ => .drive
  | .gate _ => .gate
  | .asense _ => .asense
  | .esense _ => .esense

/-- The kind of a claim (R1). -/
def Claim.kind (c : Claim) : Kind := c.payload.body.kind

/-- A drive claim's burst is finished: burst nonzero and burst remaining 0 (R27, R63). -/
def Claim.burstFinished (c : Claim) : Bool :=
  match c.payload with
  | .drive b left => decide (b.burst ≠ 0) && decide (left = 0)
  | _ => false

/-- The direction of a drive claim; COAST, the pattern of a channel without a head, for any other (R62). -/
def Claim.direction (c : Claim) : Pattern :=
  match c.payload with
  | .drive b _ => b.direction
  | _ => .coast

/-- The GATE body of a gate claim. -/
def Claim.gateBody? (c : Claim) : Option GateBody :=
  match c.payload with
  | .gate b => some b
  | _ => none

/-- The ASENSE body of an analog claim. -/
def Claim.analogBody? (c : Claim) : Option AnalogBody :=
  match c.payload with
  | .asense b _ => some b
  | _ => none

/-- The ESENSE body of an edge claim. -/
def Claim.edgeBody? (c : Claim) : Option EdgeBody :=
  match c.payload with
  | .esense b _ => some b
  | _ => none

/-- The states in which a claim may carry a hold deadline: live and not ended (R13). -/
def ClaimState.ongoing : ClaimState → Bool
  | .standby => true
  | .inForce => true
  | .suspended => true
  | .complete => true
  | .active => true
  | .retiring => false
  | .spent => false

/-- The bit of a notice kind in an entry (section 10.7: byte 2 above byte 3). -/
def NoticeKind.bit : NoticeKind → BitVec 16
  | .taken => 0x8000#16
  | .outranked => 0x4000#16
  | .suspended => 0x2000#16
  | .resumed => 0x1000#16
  | .complete => 0x0800#16
  | .retired => 0x0400#16
  | .lapsed => 0x0200#16
  | .gateOpen => 0x0100#16
  | .gateClosed => 0x0080#16
  | .sample => 0x0040#16
  | .band => 0x0020#16
  | .motion => 0x0010#16
  | .trip => 0x0008#16
  | .late => 0x0004#16
  | .overwrite => 0x0002#16
  | .handover => 0x0001#16

/-- An entry holds a kind. -/
def NoticeEntry.has (e : NoticeEntry) (k : NoticeKind) : Bool := decide (e.kinds &&& k.bit ≠ 0#16)

/-- An entry that holds a final notice, RETIRED or LAPSED (R3, R162). -/
def NoticeEntry.final (e : NoticeEntry) : Bool := e.has .retired || e.has .lapsed

/-- A pin that an input shows: the filtered level, or its opposite while a change is pending (R125). -/
def EdgeInput.pin (i : EdgeInput) : Level := if i.pending.isSome then i.level.flip else i.level

/-- The last count of a gate's counter (R39). -/
def GateUnit.last (g : GateUnit) : Nat := g.applied.getD 1 - 1

/-- The gate clocks since the running period of a gate began. -/
def GateUnit.elapsed (g : GateUnit) : Nat := g.counter + g.waited

/-- The gate clocks until a gate's counter wraps (R47); none when its wrap has fallen due. -/
def GateUnit.toWrap (g : GateUnit) : Nat := g.applied.getD 1 - g.elapsed

/-- The µs that are left of a pending change's filter time (R127). Differences of stamps are taken modulo 2^32
(R126). -/
def PendingChange.left (now : Count32) (p : PendingChange) : Nat := p.filter - (now - p.stamp).toNat

/-- A gate's wrap has fallen due (R47). -/
def GateUnit.isDue (g : GateUnit) : Bool := g.isOpen && decide (g.toWrap = 0)

/-- A pending change has stood for its filter time (R127). -/
def EdgeInput.isDue (now : Count32) (x : EdgeInput) : Bool :=
  x.pending.any fun p => decide (p.left now = 0)

end Sys2Proof

namespace Sys2Proof.Machine

/-! ### Slots -/

/-- Every slot number, ascending. -/
def allSlots : List SlotIx := List.finRange 48

/-- The claim in a slot, if it is occupied. -/
def State.claim (s : State) (i : SlotIx) : Option Claim := s.slots[i].claim

/-- The handle of a slot as it stands (R2). -/
def State.handle (s : State) (i : SlotIx) : Handle := ⟨i, s.slots[i].gen⟩

/-- The slot's claim changed; a FREE slot stays as it is. -/
def State.updClaim (s : State) (i : SlotIx) (f : Claim → Claim) : State :=
  { s with slots := s.slots.set i { s.slots[i] with claim := s.slots[i].claim.map f } }

/-- A claim put into a slot, which keeps its generation (R5). -/
def State.putClaim (s : State) (i : SlotIx) (c : Claim) : State :=
  { s with slots := s.slots.set i { s.slots[i] with claim := some c } }

/-- A slot returns to FREE: its generation advances, 15 followed by 0, and its claim is discarded (R3). -/
def State.freeSlot (s : State) (i : SlotIx) : State :=
  { s with slots := s.slots.set i ⟨s.slots[i].gen + 1, none⟩ }

/-- A claim in the slot has a property. -/
def State.claimIs (s : State) (i : SlotIx) (p : Claim → Bool) : Bool := (s.claim i).any p

/-- The slots, ascending, whose claim has a property. -/
def State.slotsWhere (s : State) (p : Claim → Bool) : List SlotIx :=
  allSlots.filter fun i => s.claimIs i p

/-- The FREE slots, ascending. -/
def State.freeSlots (s : State) : List SlotIx := allSlots.filter fun i => (s.claim i).isNone

/-- A link's count of occupied, unpinned slots (R6), as a view of the slots. -/
def State.unpinnedCount (s : State) (l : Link) : Nat :=
  (s.slotsWhere fun c => decide (c.owner = l) && !c.pinned).length

/-- The slot that a link's tag map gives for a tag (R7), as a view of the slots: tag 0 is in no map. -/
def State.tagSlot (s : State) (l : Link) (t : BitVec 16) : Option SlotIx :=
  if t = 0#16 then none
  else allSlots.find? fun i => s.claimIs i fun c => decide (c.owner = l) && decide (c.tag = t)

/-- A resource's claim set (R36), as a view of the slots, in ascending slot order. -/
def State.members (s : State) (r : Resource) : List SlotIx :=
  s.slotsWhere fun c => decide (c.resource = r) && decide (c.state = .active)

/-- The slot a handle names, if the handle is that of an occupied slot (R2). -/
def State.named (s : State) (slot gen : Nat) : Option SlotIx :=
  if h : slot < 48 then
    if (s.claim ⟨slot, h⟩).isSome ∧ s.slots[slot].gen.val = gen then some ⟨slot, h⟩ else none
  else none

/-! ### Ports and setup -/

/-- A link's barred mark (R152). -/
def State.barred (s : State) (l : Link) : Bool := (s.ports.get l).barred

/-- A link's port replaced. -/
def State.setPort (s : State) (l : Link) (p : Port) : State := { s with ports := s.ports.set l p }

/-- The bits that a link's port has received so far (R152): none outside a window. -/
def State.received (s : State) (l : Link) : List Bool :=
  match (s.ports.get l).window with
  | .inWindow bits => bits
  | .between => []
  | .awaitRise => []

/-- The response held and the window ended (R155): the outgoing frame is discarded (R153). -/
def State.holdResponse (s : State) (l : Link) (r : Response) : State :=
  s.setPort l { s.ports.get l with window := .between, outgoing := none, held := some r }

/-! ### Notices -/

/-- A kind merged into a notice set under a slot (R19): the set stays in ascending slot order. -/
def mergeNotice (k : NoticeKind) (i : SlotIx) : List NoticeEntry → List NoticeEntry
  | [] => [⟨i, k.bit⟩]
  | e :: es =>
    if e.slot = i then { e with kinds := e.kinds ||| k.bit } :: es
    else if i < e.slot then ⟨i, k.bit⟩ :: e :: es
    else e :: mergeNotice k i es

/-- The link whose set takes a posting, or none when it is discarded: the owner is barred, SAMPLE is not
wanted, or the claim is SPENT (R19). -/
def State.noticeLink (s : State) (k : NoticeKind) (i : SlotIx) : Option Link :=
  match s.claim i with
  | none => none
  | some c =>
    if s.barred c.owner ∨ (k = .sample ∧ c.wantsSample = false) ∨ c.state = .spent then none
    else some c.owner

/-- A notice posted to the claim in a slot (R19). -/
def State.post (s : State) (k : NoticeKind) (i : SlotIx) : State :=
  { s with
    notices := match s.noticeLink k i with
      | none => s.notices
      | some l => s.notices.set l (mergeNotice k i (s.notices.get l)) }

/-- One kind posted to several claims. -/
def State.postEach (s : State) (k : NoticeKind) (is : List SlotIx) : State :=
  is.foldl (fun s i => s.post k i) s

/-- Several kinds posted to one claim. -/
def State.postAll (s : State) (ks : List NoticeKind) (i : SlotIx) : State :=
  ks.foldl (fun s k => s.post k i) s

/-- ALERT of a link is low: its notice set holds an entry, and reset is not held (R161, R171). -/
def State.alertLow (s : State) (l : Link) : Bool := !s.resetHeld && !(s.notices.get l).isEmpty

/-! ### The end of a claim -/

/-- The final notice of an end cause (R18). -/
def finalKind : Option EndCause → NoticeKind
  | some .lapse => .lapsed
  | _ => .retired

/-- A claim begins to end: its end cause is recorded and its deadline removed (R13, R15, R16). -/
def State.beginEnd (s : State) (i : SlotIx) (cause : EndCause) : State :=
  s.updClaim i fun c => { c with endCause := some cause, deadline := none }

/-- A claim reaches the end of its course (R18): SPENT with its final notice, or FREE without one when its
owner is barred (R3). -/
def State.finish (s : State) (i : SlotIx) : State :=
  match s.claim i with
  | none => s
  | some c =>
    if s.barred c.owner then s.freeSlot i
    else (s.post (finalKind c.endCause) i).updClaim i fun c => { c with state := .spent, deadline := none }

/-- A head whose burst is finished goes to COMPLETE, with COMPLETE posted (R32). -/
def State.completeClaim (s : State) (i : SlotIx) : State :=
  (s.post .complete i).updClaim i fun c => { c with state := .complete }

/-! ### Contention lists -/

/-- A drive channel's list. -/
def State.driveList (s : State) (d : Drive) : List SlotIx := s.driveLists.get d

/-- A gate's list. -/
def State.gateList (s : State) (g : Gate) : List SlotIx := s.gateLists.get g

/-- The head of a drive channel (R26, R57), as a view of its list. -/
def State.head (s : State) (d : Drive) : Option SlotIx := (s.driveList d).head?

/-- The class of the claim in a slot. -/
def State.classOf (s : State) (i : SlotIx) : Nat := ((s.claim i).map fun c => c.cls.val).getD 0

/-- A slot placed at the tail of its class (R25): after every entry of its own class or a higher one. -/
def State.insertByClass (s : State) (i : SlotIx) (l : List SlotIx) : List SlotIx :=
  (l.takeWhile fun j => decide (s.classOf i ≤ s.classOf j)) ++
    i :: l.dropWhile fun j => decide (s.classOf i ≤ s.classOf j)

/-- The gate over a channel is OPEN. -/
def State.gateIsOpen (s : State) (g : Gate) : Bool := (s.gates.get g).isOpen

/-- The states of a drive channel's entries by their places (R26): the first IN_FORCE or SUSPENDED by the
gate, unless it is RETIRING, and every later one STANDBY. -/
def State.settle (s : State) (d : Drive) : State :=
  match s.driveList d with
  | [] => s
  | h :: t =>
    let s' := t.foldl (fun s i => s.updClaim i fun c => { c with state := .standby }) s
    s'.updClaim h fun c =>
      if c.state = .retiring then c
      else { c with state := if s.gateIsOpen d.parent then .inForce else .suspended }

/-- The postings of a change of head (R28): TAKEN to the new head, OUTRANKED to an old head that is still
in the list, nothing when the head is the same. -/
def State.announce (s : State) (d : Drive) (old : Option SlotIx) : State :=
  if s.head d = old then s
  else
    let s' := match s.head d with
      | none => s
      | some h => s.post .taken h
    match old with
    | none => s'
    | some o => if o ∈ s.driveList d then s'.post .outranked o else s'

/-- A drive channel's list changed as one change (R26, R28): entries settled by place, and the head after
compared with the head before. -/
def State.changeList (s : State) (d : Drive) (old : Option SlotIx) (l : List SlotIx) : State :=
  (({ s with driveLists := s.driveLists.set d l } : State).settle d).announce d old

/-- A DRIVE claim joins its channel's list (R27, R25). -/
def State.join (s : State) (d : Drive) (i : SlotIx) : State :=
  match s.driveList d with
  | [] => s.changeList d none [i]
  | h :: t =>
    if s.claimIs h fun c => decide (c.state = .retiring) then
      (s.finish h).changeList d (some h) (s.insertByClass i t)
    else if s.claimIs h Claim.burstFinished then
      (s.completeClaim h).changeList d (some h) (s.insertByClass i t)
    else s.changeList d (some h) (s.insertByClass i (h :: t))

/-! ### Trips -/

/-- A trip raised toward the gates of a target (R142): it waits at each until the gate takes it. -/
def State.raiseTrip (s : State) (target : Target) (t : Trip) : State :=
  { s with
    trips :=
      { gt := if target.includes .gt then s.trips.gt ++ [t] else s.trips.gt
        gb := if target.includes .gb then s.trips.gb ++ [t] else s.trips.gb } }

/-! ### Clocks -/

/-- A gate's counter after `n` gate clocks: it runs while the gate is OPEN, and stands at its last count, the clocks
still counted, until its period end is taken (R47, log entry 22). -/
def GateUnit.run (n : Nat) (g : GateUnit) : GateUnit :=
  if g.isOpen then { g with counter := min (g.elapsed + n) g.last, waited := g.elapsed + n - g.last } else g

/-- A gate's counter wraps and its staged period is applied (R47, R48). The period that begins has run for the clocks
since the wrap fell due: none, unless the period end is taken late. -/
def GateUnit.wrap (g : GateUnit) : GateUnit :=
  GateUnit.run (g.elapsed - g.applied.getD 1)
    { g with counter := 0, waited := 0, applied := g.staged.or g.applied, staged := none }

/-- Both gate counters run `n` gate clocks. -/
def State.runCounters (s : State) (n : Nat) : State :=
  { s with gates := ⟨GateUnit.run n s.gates.gt, GateUnit.run n s.gates.gb⟩ }

/-- At most `n` gate clocks pass within the present cadence tick (R93, R126): time stands at the end of the tick, the
instant of the next advance, until CADENCE_ADVANCE (log entry 2). -/
def State.passClocks (s : State) (n : Nat) : State :=
  let m := min n (2000 - s.clock.divider)
  { s.runCounters m with
    clock :=
      { s.clock with
        divider := s.clock.divider + m
        stamp := s.clock.stamp + BitVec.ofNat 32 ((s.clock.divider + m) / 16 - s.clock.divider / 16) } }

/-- Time goes forward to a µs of the present tick, if it has not passed it. -/
def State.passToMicro (s : State) (micros : Nat) : State := s.passClocks (16 * micros - s.clock.divider)

/-- The gate clocks until the stamp counter has counted `micros` more µs (R126). -/
def State.clocksIn (s : State) (micros : Nat) : Nat := 16 * micros - s.clock.divider % 16

/-- The µs from now to a stamp; none for a stamp that has passed, which lies in the half of the stamp counter's range
behind it. -/
def State.microsTo (s : State) (t : Count32) : Nat :=
  if (t - s.clock.stamp).toNat < 2 ^ 31 then (t - s.clock.stamp).toNat else 0

/-- An event that falls `n` gate clocks from now: time goes forward to its instant, and it takes place there. One
whose instant lies beyond the present tick cannot take place yet, and leaves the state (log entries 3, 4). -/
def State.atInstant (s : State) (n : Nat) (event : State → State) : State :=
  if s.clock.divider + n ≤ 2000 then event (s.passClocks n) else s

/-- The instant of an event of time has come: the end of the tick, moments that wait, a gate's wrap, the completion of
the conversion in flight, or the end of a filter time. With no command waiting, time stands there (log entry 2). -/
def State.eventDue (s : State) : Bool :=
  decide (2000 ≤ s.clock.divider) || s.clock.momentsWait || s.gates.gt.isDue || s.gates.gb.isDue ||
    (s.arbiter.inFlight.any fun f => decide (s.microsTo f.completesAt = 0)) ||
    s.inputs.any (EdgeInput.isDue s.clock.stamp)

/-- The cadence count advances and time stands at the beginning of the next tick (R82, R126); whether the sample
scheduler and the edge unit have yet to take the new value is `waits`. -/
def State.nextTick (waits : Bool) (s : State) : State :=
  { s.runCounters (2000 - s.clock.divider) with
    clock :=
      { divider := 0
        cadence := s.clock.cadence + 1#32
        stamp := s.clock.stamp + BitVec.ofNat 32 (125 - s.clock.divider / 16)
        momentsWait := waits } }

/-- The count at a value that the sample scheduler and the edge unit take: the present one, where an expiry has come
ahead of them, and else the next (R82, log entry 5). -/
def State.takeCount (s : State) : State :=
  if s.clock.momentsWait then { s with clock := { s.clock with momentsWait := false } } else s.nextTick false

/-- A step with no command waiting: one gate clock passes, unless reset is held or the instant of an event of time
has come (log entry 2). -/
def State.idle (s : State) : State := if s.resetHeld || s.eventDue then s else s.passClocks 1

/-- The hold deadline that a hold sets at the present count: 80 ticks per unit, modulo 2^32; none for
hold 0 (R5, R13). -/
def State.deadlineFor (s : State) (hold : Nat) : Option Count32 :=
  if hold = 0 then none else some (s.clock.cadence + BitVec.ofNat 32 (80 * hold))

/-- The cadence count has reached a deadline: the deadline does not lie in the coming half of the count's
range (R14, log entry 5). -/
def State.reached (s : State) (deadline : Count32) : Bool :=
  decide ((s.clock.cadence - deadline).toNat < 2 ^ 31)

/-- A count is a due moment of an interval code (R83). -/
def dueAt (count : Count32) (k : Nat) : Bool := decide (count.toNat % 2 ^ k = 0)

/-! ### Pins -/

/-- The level of a pin that is active or not (R61). -/
def Polarity.drive : Polarity → Bool → Level
  | .activeHigh, true => .high
  | .activeHigh, false => .low
  | .activeLow, true => .low
  | .activeLow, false => .high

/-- The HA and HB pins of a channel (R59, R61). -/
def State.drivePins (s : State) (d : Drive) : Level × Level :=
  let ch := s.drives.get d
  let pulse := decide ((s.gates.get d.parent).counter < ch.compare)
  let active := match ch.pattern with
    | .forward => (pulse, false)
    | .reverse => (false, pulse)
    | .brake => (true, true)
    | .coast => (false, false)
  let pol := s.setup.polarity.get d
  (Polarity.drive pol.ha active.1, Polarity.drive pol.hb active.2)

/-- The byte of a window that MISO shows: nothing between windows, the outgoing frame in a window, and 00h
past its end (R153, R171). -/
def State.misoByte (s : State) (l : Link) (n : Nat) : Option Byte :=
  if s.resetHeld then none
  else match (s.ports.get l).outgoing with
    | none => none
    | some r => some ((responseBytes r).getD n 0#8)

/-- The bit that MISO shows: the first of the window from the fall of CS, and the next after each bit received, the
most significant of each byte first (R153). -/
def State.misoBit (s : State) (l : Link) : Option Bool :=
  let n := (s.received l).length
  (s.misoByte l (n / 8)).map fun b => b.getLsbD (7 - n % 8)

end Sys2Proof.Machine
end

