-- ==== Sys2Proof/Machine/Flags.lean ====
section
/-! DEFINITION. The runtime of one sense claim at one event: smoothing, bands, counters and flags of an ASENSE
claim (R109 to R119), measurements, stalls and levels of an ESENSE claim (R130 to R139). Each event gives the
new runtime, the kinds it posts in order, and the cause of the trip it raises, if any. -/

namespace Sys2Proof

/-- What one event makes of a sense claim: its runtime, its postings, and its trip. -/
structure SenseOutcome (ρ : Type) where
  run : ρ
  posts : List NoticeKind
  trip : Option TripCause
deriving DecidableEq, Repr

/-! ### Analog claims -/

/-- The runtime that OPEN gives an ASENSE claim (R109). -/
def AnalogRun.fresh0 : AnalogRun := ⟨none, none, .inBand, 0, 0, false, 0⟩

/-- The smoothed value after a delivery (R111): the raw value at the first one, and after that the old value
plus the floor of the gap over 2^s (integer division by a positive number is the floor). -/
def smooth (s : Nat) (old : Option Nat) (raw : Nat) : Nat :=
  match old with
  | none => raw
  | some o => ((o : Int) + ((raw : Int) - (o : Int)) / 2 ^ s).toNat

/-- A claim in HIGH or LOW returns to IN_BAND at a smoothed value (R112). -/
def returnsToBand (b : AnalogBody) (band : Band) (v : Nat) : Bool :=
  match band with
  | .inBand => false
  | .high => decide (v ≤ b.highLimit - b.hysteresis)
  | .low => decide (min 4095 (b.lowLimit + b.hysteresis) ≤ v)

/-- One delivery to an ASENSE claim (R110 to R114): the raw value and the fresh flag, SAMPLE, smoothing, the
return to the band, then the counters and the entry into HIGH or LOW with its trip. -/
def analogDeliver (b : AnalogBody) (raw : Nat) (r : AnalogRun) : SenseOutcome AnalogRun :=
  let v := smooth b.smoothing r.smoothed raw
  let r := { r with raw := some raw, smoothed := some v, fresh := true }
  let back := returnsToBand b r.band v
  let posts := if back then [NoticeKind.sample, .band] else [.sample]
  let band := if back then Band.inBand else r.band
  if band = .inBand then
    if b.highLimit < v then
      if b.debounce ≤ r.above + 1 then
        ⟨{ r with band := .high, above := 0, below := 0 }, posts ++ [.band], some .high⟩
      else ⟨{ r with band := .inBand, above := r.above + 1, below := 0 }, posts, none⟩
    else if v < b.lowLimit then
      if b.debounce ≤ r.below + 1 then
        ⟨{ r with band := .low, above := 0, below := 0 }, posts ++ [.band], some .low⟩
      else ⟨{ r with band := .inBand, above := 0, below := r.below + 1 }, posts, none⟩
    else ⟨{ r with band := .inBand, above := 0, below := 0 }, posts, none⟩
  else ⟨r, posts, none⟩

/-- The target that the cause of an ASENSE trip uses (R114). -/
def AnalogBody.targetFor (b : AnalogBody) : TripCause → Target
  | .high => b.tripHigh
  | .low => b.tripLow
  | .stall => .noGate
  | .level => .noGate
  | .test => .noGate

/-- A missed moment (R116): the missed count rises, saturating at 255. -/
def AnalogRun.miss (r : AnalogRun) : AnalogRun := { r with missed := min 255 (r.missed + 1) }

/-- A READ of part 2 by the owner (R117): the fresh flag and the missed count cleared. -/
def AnalogRun.readByOwner (r : AnalogRun) : AnalogRun := { r with fresh := false, missed := 0 }

/-- An AMEND (R119): both counters return to 0. -/
def AnalogRun.amended (r : AnalogRun) : AnalogRun := { r with above := 0, below := 0 }

/-- An ASENSE claim's standing condition for a gate (R146). -/
def analogStands (b : AnalogBody) (r : AnalogRun) (g : Gate) : Bool :=
  match r.band with
  | .inBand => false
  | .high => b.tripHigh.includes g
  | .low => b.tripLow.includes g

/-! ### Edge claims -/

/-- The runtime that OPEN gives an ESENSE claim on an input at a filtered level (R130). -/
def EdgeRun.start (filtered : Level) : EdgeRun :=
  ⟨none, false, none, 0, none, 0, false, filtered, 0, false, false⟩

/-- A measurement's flags (R131): overwrite when the last value was unread, then fresh. -/
def EdgeRun.measured (r : EdgeRun) : EdgeRun :=
  { r with overwrite := r.overwrite || r.fresh, fresh := true }

/-- A measurement's postings (R131): OVERWRITE when the last value was unread, then SAMPLE. -/
def EdgeRun.measurePosts (r : EdgeRun) : List NoticeKind :=
  if r.fresh then [.overwrite, .sample] else [.sample]

/-- A stamp difference as a period (R132): modulo 2^32, at least 1, at most 16777215. -/
def periodOf (last now : Count32) : Nat := min 16777215 (max 1 (now - last).toNat)

/-- A qualifying edge handed to a PERIOD claim (R132). -/
def periodEdge (stamp : Count32) (r : EdgeRun) : SenseOutcome EdgeRun :=
  let m := match r.lastStamp with
    | none => r
    | some l => { r.measured with lastPeriod := some (periodOf l stamp) }
  let posts := match r.lastStamp with
    | none => []
    | some _ => r.measurePosts
  ⟨{ m with lastStamp := some stamp, stallCount := 0, edgeSeen := true, stalled := false },
    if r.stalled then posts ++ [.motion] else posts, none⟩

/-- A qualifying edge handed to a COUNT claim (R134). -/
def countEdge (r : EdgeRun) : SenseOutcome EdgeRun :=
  ⟨{ r with running := min 65535 (r.running + 1) }, [], none⟩

/-- A qualifying edge handed to an ESENSE claim (R128): LEVEL claims take none. -/
def edgeHanded (b : EdgeBody) (stamp : Count32) (r : EdgeRun) : SenseOutcome EdgeRun :=
  match b.mode with
  | .period => periodEdge stamp r
  | .count => countEdge r
  | .level => ⟨r, [], none⟩

/-- One empty interval (R133, R134 step 2) at a claim that is not stalled: the stall counter rises, saturating
at 255, and the claim is stalled when it reaches a nonzero stall limit. -/
def EdgeRun.emptyInterval (b : EdgeBody) (r : EdgeRun) : EdgeRun :=
  let n := min 255 (r.stallCount + 1)
  { r with stallCount := n, stalled := decide (b.stallLimit ≠ 0) && decide (b.stallLimit ≤ n) }

/-- An interval moment of a PERIOD claim (R133). -/
def periodMoment (b : EdgeBody) (r : EdgeRun) : SenseOutcome EdgeRun :=
  if r.edgeSeen then ⟨{ r with edgeSeen := false }, [], none⟩
  else if r.stalled then ⟨r, [], none⟩
  else
    let r' := EdgeRun.emptyInterval b r
    if r'.stalled then ⟨{ r' with lastStamp := none }, [.motion], some .stall⟩ else ⟨r', [], none⟩

/-- An interval moment of a COUNT claim (R134). -/
def countMoment (b : EdgeBody) (r : EdgeRun) : SenseOutcome EdgeRun :=
  let m := { r.measured with window := some r.running, running := 0 }
  let posts := r.measurePosts
  if r.running = 0 then
    if r.stalled then ⟨m, posts, none⟩
    else
      let m' := EdgeRun.emptyInterval b m
      if m'.stalled then ⟨m', posts ++ [.motion], some .stall⟩ else ⟨m', posts, none⟩
  else ⟨{ m with stallCount := 0, stalled := false }, if r.stalled then posts ++ [.motion] else posts, none⟩

/-- An interval moment of a LEVEL claim at a filtered level (R135). -/
def levelMoment (b : EdgeBody) (filtered : Level) (r : EdgeRun) : SenseOutcome EdgeRun :=
  if filtered = r.stable then ⟨{ r with candidate := 0 }, [], none⟩
  else if b.debounce ≤ r.candidate + 1 then
    ⟨{ r.measured with stable := filtered, candidate := 0 }, .band :: r.measurePosts,
      if filtered = b.active then some .level else none⟩
  else ⟨{ r with candidate := r.candidate + 1 }, [], none⟩

/-- An interval moment of an ESENSE claim (R133 to R135). -/
def edgeMoment (b : EdgeBody) (filtered : Level) (r : EdgeRun) : SenseOutcome EdgeRun :=
  match b.mode with
  | .period => periodMoment b r
  | .count => countMoment b r
  | .level => levelMoment b filtered r

/-- A READ of part 2 by the owner (R138): the fresh and overwrite flags cleared. -/
def EdgeRun.readByOwner (r : EdgeRun) : EdgeRun := { r with fresh := false, overwrite := false }

/-- An AMEND of an ESENSE claim from one body to another (R139). -/
def EdgeRun.amended (old new : EdgeBody) (filtered : Level) (r : EdgeRun) : EdgeRun :=
  if new.mode ≠ old.mode then EdgeRun.start filtered
  else
    let r := { r with stallCount := 0, candidate := 0 }
    if new.edge ≠ old.edge ∧ new.mode ≠ .level then
      { r with lastStamp := none, edgeSeen := false, running := 0 }
    else r

/-- An ESENSE claim's standing condition for a gate (R146). -/
def edgeStands (b : EdgeBody) (r : EdgeRun) (g : Gate) : Bool :=
  match b.mode with
  | .period => r.stalled && b.target.includes g
  | .count => r.stalled && b.target.includes g
  | .level => decide (r.stable = b.active) && b.target.includes g

/-- An edge qualifies for an edge field (R128): RISING takes the filtered level to HIGH. -/
def EdgeSel.takes (sel : EdgeSel) (newLevel : Level) : Bool :=
  match sel with
  | .rising => decide (newLevel = .high)
  | .falling => decide (newLevel = .low)
  | .both => true

/-- The union of two edge fields (R128). -/
def EdgeSel.union (x y : EdgeSel) : EdgeSel := if x = y then x else .both

end Sys2Proof
end

