-- ==== Sys2Proof/Machine/Edges.lean ====
section
/-! DEFINITION. The edge unit: the glitch filters, the sensitivity, accepted edges and interval moments of the
edge claims (R125 to R137). The commands EDGE_PIN_CHANGE and ACCEPTED_EDGE are in Timed. -/

namespace Sys2Proof.Machine

/-- The members of an edge input's claim set (R36). -/
def State.edgeMembers (s : State) (e : EdgeIn) : List SlotIx := s.members (.edge e)

/-- The edge field of a PERIOD or COUNT claim; a LEVEL claim asks for no edge (R128). -/
def Claim.wantedEdges (c : Claim) : Option EdgeSel :=
  match c.edgeBody? with
  | none => none
  | some b => if b.mode = .level then none else some b.edge

/-- An input's sensitivity (R128): the union of the edge fields of its PERIOD and COUNT claims. -/
def State.sensitivity (s : State) (e : EdgeIn) : Option EdgeSel :=
  ((s.edgeMembers e).filterMap fun i => (s.claim i).bind Claim.wantedEdges).foldl
    (fun acc x => some (match acc with | none => x | some y => y.union x)) none

/-- An edge input replaced. -/
def State.setInput (s : State) (e : EdgeIn) (x : EdgeInput) : State := { s with inputs := s.inputs.set e x }

/-- The runtime of an ESENSE claim changed. -/
def Claim.mapEdge (f : EdgeBody → EdgeRun → EdgeRun) (c : Claim) : Claim :=
  match c.payload with
  | .esense b r => { c with payload := .esense b (f b r) }
  | .drive _ _ => c
  | .gate _ => c
  | .asense _ _ => c

/-- An accepted edge handed to the claim in a slot, if the claim's edge field takes it (R128). -/
def State.handEdge (s : State) (newLevel : Level) (stamp : Count32) (i : SlotIx) : State :=
  match s.claim i with
  | none => s
  | some c =>
    match c.payload with
    | .esense b r =>
      if b.mode ≠ .level ∧ b.edge.takes newLevel then
        let o := edgeHanded b stamp r
        (s.updClaim i (Claim.mapEdge fun _ _ => o.run)).postAll o.posts i
      else s
    | .drive _ _ => s
    | .gate _ => s
    | .asense _ _ => s

/-- A change is accepted (R127, R128): the filtered level becomes the new one, and an edge within the
sensitivity is handed with its stamp to the input's claims in ascending slot order. -/
def State.acceptEdge (s : State) (e : EdgeIn) (stamp : Count32) : State :=
  let newLevel := s.inputs[e].level.flip
  let s' := s.setInput e { s.inputs[e] with level := newLevel, pending := none }
  match s.sensitivity e with
  | none => s'
  | some sel =>
    if sel.takes newLevel then (s.edgeMembers e).foldl (fun s i => s.handEdge newLevel stamp i) s' else s'

/-- The trips that interval moments raise at one advance: each with the gates it is addressed to (R136). -/
structure RaisedTrip where
  target : Target
  trip : Trip
deriving DecidableEq, Repr

/-- An interval moment of the claim in a slot (R133 to R136): the state after it, and the trip it raises. -/
def State.edgeMomentAt (s : State) (i : SlotIx) : State × Option RaisedTrip :=
  match s.claim i with
  | none => (s, none)
  | some c =>
    match c.resource, c.payload with
    | .edge e, .esense b r =>
      let o := edgeMoment b s.inputs[e].level r
      let s' := (s.updClaim i (Claim.mapEdge fun _ _ => o.run)).postAll o.posts i
      (s', o.trip.map fun cause => ⟨b.target, ⟨.edge e, cause, b.pattern, c.owner, s.handle i⟩⟩)
    | _, _ => (s, none)

/-- The edge claims with an interval moment at the present count (R83), ascending. -/
def State.momentSlots (s : State) : List SlotIx :=
  s.slotsWhere fun c =>
    decide (c.state = .active) && c.edgeBody?.any fun b => dueAt s.clock.cadence b.interval

/-- The interval moments of several claims, with the trips they raise in the order worked. -/
def State.edgeMoments (s : State) (is : List SlotIx) : State × List RaisedTrip :=
  is.foldl (fun p i =>
    let q := p.1.edgeMomentAt i
    (q.1, p.2 ++ q.2.toList)) (s, [])

/-- A trip placed by its rank among trips already placed. -/
def placeByRank (x : Nat × RaisedTrip) : List (Nat × RaisedTrip) → List (Nat × RaisedTrip)
  | [] => [x]
  | y :: ys => if x.1 ≤ y.1 then x :: y :: ys else y :: placeByRank x ys

/-- The trips of one advance in the order in which the edge unit works its claims, which R137 leaves open: a
free order (`Config.momentRank`), the same for both gates. One trip needs no order (log entry 11). -/
def momentOrder (draw : Nat) (ts : List RaisedTrip) : List RaisedTrip :=
  (((List.range ts.length).map (Config.momentRank draw)).zip ts |>.foldr placeByRank []).map Prod.snd

/-- The edge unit takes an advance of the count (R82): every moment, and then the trips raised. -/
def State.edgeAdvance (s : State) : State :=
  let p := s.edgeMoments s.momentSlots
  let s' := (momentOrder s.draws p.2).foldl (fun s t => s.raiseTrip t.target t.trip) p.1
  { s' with draws := s.draws + 1 }

end Sys2Proof.Machine
end

