-- ==== Sys2Proof/Machine/Gates.lean ====
section
/-! DEFINITION. The gate units: the open condition, opening, closing, the staged period, the close pattern and
the hold list (R39 to R53), with what an opening and a closing do to the channels under the gate (R43, R45). -/

namespace Sys2Proof.Machine

/-- A gate unit replaced. -/
def State.setGate (s : State) (g : Gate) (u : GateUnit) : State := { s with gates := s.gates.set g u }

/-- A drive channel replaced. -/
def State.setDrive (s : State) (d : Drive) (ch : DriveChannel) : State :=
  { s with drives := s.drives.set d ch }

/-- The GATE bodies of a gate's claims in list order: the votes and close patterns the table hands the gate
(R35). -/
def State.gateBodies (s : State) (g : Gate) : List GateBody :=
  (s.gateList g).filterMap fun i => (s.claim i).bind Claim.gateBody?

/-- The period that a gate claim offers: its own while it votes OPEN (R35). -/
def State.offeredPeriod (s : State) (i : SlotIx) : Option Nat :=
  match (s.claim i).bind Claim.gateBody? with
  | none => none
  | some b => if b.vote = .votesOpen then some b.period else none

/-- The period supplier and its period (R35): the first entry in list order that votes OPEN. -/
def State.supplier (s : State) (g : Gate) : Option (SlotIx × Nat) :=
  (s.gateList g).findSome? fun i => (s.offeredPeriod i).map fun p => (i, p)

/-- The open condition (R41): no hold, no CLOSED vote, at least one OPEN vote. -/
def State.openCondition (s : State) (g : Gate) : Bool :=
  (s.gates.get g).holds.isEmpty &&
    (!((s.gateBodies g).any fun b => decide (b.vote = .votesClosed))) &&
    (s.gateBodies g).any fun b => decide (b.vote = .votesOpen)

/-- The close pattern (R49): BRAKE when a CLOSED vote or a hold asks BRAKE, else COAST. -/
def State.closeFor (s : State) (g : Gate) : StopPattern :=
  if ((s.gateBodies g).any fun b => decide (b.vote = .votesClosed) && decide (b.close = .brake)) ∨
      ((s.gates.get g).holds.any fun h => decide (h.pattern = .brake)) then .brake
  else .coast

/-- The wanted pattern of a channel (R62): its head's direction, or COAST without a head. -/
def State.wanted (s : State) (d : Drive) : Pattern :=
  match (s.head d).bind s.claim with
  | none => .coast
  | some c => c.direction

/-- A channel at its gate's closing (R45): HALTED at duty 0 under the close pattern, and its head RETIRING to
SPENT, finished to COMPLETE, or IN_FORCE to SUSPENDED. -/
def State.haltChannel (s : State) (d : Drive) (pat : StopPattern) : State :=
  let s := s.setDrive d ⟨.halted, 0, pat.pins, 0⟩
  match s.driveList d with
  | [] => s
  | h :: t =>
    if s.claimIs h fun c => decide (c.state = .retiring) then (s.finish h).changeList d (some h) t
    else if s.claimIs h fun c => decide (c.state = .inForce) && c.burstFinished then
      (s.completeClaim h).changeList d (some h) t
    else if s.claimIs h fun c => decide (c.state = .inForce) then
      (s.post .suspended h).updClaim h fun c => { c with state := .suspended }
    else s

/-- A channel at its gate's opening (R42 step 4, R43): its head SUSPENDED to IN_FORCE with RESUMED, and the
channel out of HALTED by its wanted and applied patterns. -/
def State.releaseChannel (s : State) (d : Drive) : State :=
  let ch := s.drives.get d
  let phase := if s.wanted d ≠ ch.pattern then Phase.switching
    else if (s.head d).isSome then .running else .idle
  let s := s.setDrive d { ch with phase := phase }
  match s.head d with
  | none => s
  | some h =>
    if s.claimIs h fun c => decide (c.state = .suspended) then
      (s.post .resumed h).updClaim h fun c => { c with state := .inForce }
    else s

/-- A gate closes (R44). -/
def State.closeGate (s : State) (g : Gate) : State :=
  let pat := s.closeFor g
  let s := s.setGate g { s.gates.get g with isOpen := false, counter := 0, waited := 0, staged := none, close := pat }
  let s := s.postEach .gateClosed (s.gateList g)
  g.children.foldl (fun s d => s.haltChannel d pat) s

/-- A gate opens (R42). -/
def State.openGate (s : State) (g : Gate) : State :=
  let s := s.setGate g
    { s.gates.get g with
      isOpen := true, counter := 0, waited := 0, applied := (s.supplier g).map Prod.snd, staged := none,
      close := s.closeFor g }
  let s := s.postEach .gateOpen (s.gateList g)
  g.children.foldl State.releaseChannel s

/-- A gate that stays OPEN stages its supplier's period, or removes a staging that it cancels (R48). -/
def State.stagePeriod (s : State) (g : Gate) : State :=
  let u := s.gates.get g
  let period := (s.supplier g).map Prod.snd
  s.setGate g { u with staged := if period = u.applied then none else period, close := s.closeFor g }

/-- A gate that stays CLOSED takes its close pattern anew, and its channels' pins follow (R50). -/
def State.rePattern (s : State) (g : Gate) : State :=
  let pat := s.closeFor g
  let s := s.setGate g { s.gates.get g with close := pat }
  g.children.foldl (fun s d => s.setDrive d { s.drives.get d with pattern := pat.pins }) s

/-- A gate evaluates its open condition (R41), after a change of its list or of its holds. -/
def State.evalGate (s : State) (g : Gate) : State :=
  if s.gateIsOpen g then
    if s.openCondition g then s.stagePeriod g else s.closeGate g
  else if s.openCondition g then s.openGate g
  else s.rePattern g

/-- A trip worked into a hold list (R52): the hold for its source is updated in its place, or added last. -/
def addHold (new : TripHold) : List TripHold → List TripHold
  | [] => [new]
  | h :: hs =>
    if h.source = new.source then
      { new with pattern := if h.pattern = .brake ∨ new.pattern = .brake then .brake else .coast } :: hs
    else h :: addHold new hs

/-- A gate takes a trip or a test trip (R52): the hold, and then the open condition. -/
def State.takeHold (s : State) (g : Gate) (new : TripHold) : State :=
  (s.setGate g { s.gates.get g with holds := addHold new (s.gates.get g).holds }).evalGate g

/-- The hold of a gate for a source. -/
def State.holdFor (s : State) (g : Gate) (src : Source) : Option TripHold :=
  (s.gates.get g).holds.find? fun h => decide (h.source = src)

/-- A cleared hold leaves its gate's list, and the gate evaluates its open condition (R53). -/
def State.removeHold (s : State) (g : Gate) (src : Source) : State :=
  (s.setGate g
    { s.gates.get g with
      holds := (s.gates.get g).holds.filter fun h => decide (h.source ≠ src) }).evalGate g

end Sys2Proof.Machine
end

