-- ==== Sys2Proof/Machine/Sampling.lean ====
section
/-! DEFINITION. The sample scheduler, the converter and its arbiter (R83 to R105), and what their events make
of an analog claim (R110 to R116). -/

namespace Sys2Proof.Machine

/-- Every analog channel, in order A0 to A11. -/
def allChannels : List AnalogCh := List.finRange 12

/-- The members of an analog channel's claim set (R36). -/
def State.analogMembers (s : State) (c : AnalogCh) : List SlotIx := s.members (.analog c)

/-- A field of the ASENSE bodies of a channel's members. -/
def State.memberField (s : State) (c : AnalogCh) (f : AnalogBody → Nat) : List Nat :=
  (s.analogMembers c).filterMap fun i => ((s.claim i).bind Claim.analogBody?).map f

/-- A channel's due interval (R85): the smallest interval code among its members. -/
def State.dueInterval (s : State) (c : AnalogCh) : Option Nat := (s.memberField c AnalogBody.interval).min?

/-- A channel's level (R100): the lowest urgency number among its members. -/
def State.level (s : State) (c : AnalogCh) : Option Nat := (s.memberField c AnalogBody.urgency).min?

/-- A channel's due list at the present count (R86), in ascending slot order. -/
def State.dueList (s : State) (c : AnalogCh) : List SlotIx :=
  (s.analogMembers c).filter fun i =>
    s.claimIs i fun cl => cl.analogBody?.any fun b => dueAt s.clock.cadence b.interval

/-- A waiting request replaced. -/
def State.setWaiting (s : State) (c : AnalogCh) (r : Option ConvRequest) : State :=
  { s with arbiter := { s.arbiter with waiting := s.arbiter.waiting.set c r } }

/-- A request waits somewhere (R98). -/
def State.anyWaiting (s : State) : Bool := allChannels.any fun c => s.arbiter.waiting[c].isSome

/-- Every mark clear (R105). -/
def Arbiter.clearMarks (a : Arbiter) : Arbiter :=
  { a with marks := Vector.replicate 12 false, markC2 := false, markC3 := false }

/-- An event that leaves the waiting-request set empty clears every mark (R105). -/
def State.marksIfEmpty (s : State) : State :=
  if s.anyWaiting then s else { s with arbiter := Arbiter.clearMarks s.arbiter }

/-! ### Analog claims -/

/-- The runtime of an ASENSE claim changed. -/
def Claim.mapAnalog (f : AnalogBody → AnalogRun → AnalogRun) (c : Claim) : Claim :=
  match c.payload with
  | .asense b r => { c with payload := .asense b (f b r) }
  | .drive _ _ => c
  | .gate _ => c
  | .esense _ _ => c

/-- A missed moment of a claim (R87 step 1, R116): the missed count rises and LATE is posted. -/
def State.missMoment (s : State) (i : SlotIx) : State :=
  (s.updClaim i (Claim.mapAnalog fun _ r => r.miss)).post .late i

/-- A trip of the claim in a slot (R142): source, pattern and owner as they stand, and the claim's handle. -/
def State.tripOf (s : State) (i : SlotIx) (c : Claim) (src : Source) (cause : TripCause)
    (pattern : StopPattern) : Trip := ⟨src, cause, pattern, c.owner, s.handle i⟩

/-- A delivery of a value to a claim on a channel (R110 to R114). -/
def State.deliver (s : State) (ch : AnalogCh) (value : Nat) (i : SlotIx) : State :=
  match s.claim i with
  | none => s
  | some c =>
    match c.payload with
    | .asense b r =>
      let o := analogDeliver b value r
      let s' := (s.updClaim i (Claim.mapAnalog fun _ _ => o.run)).postAll o.posts i
      match o.trip with
      | none => s'
      | some cause => s'.raiseTrip (b.targetFor cause) (s.tripOf i c (.analog ch) cause b.pattern)
    | .drive _ _ => s
    | .gate _ => s
    | .esense _ _ => s

/-! ### Conversion requests -/

/-- A channel takes the present count (R86, R87): at a due moment it raises a request, or retargets the one
that waits and counts a miss for each claim of its due list. -/
def State.dueMoment (s : State) (c : AnalogCh) : State :=
  match s.dueInterval c with
  | none => s
  | some k =>
    if dueAt s.clock.cadence k then
      let overtaken := match s.arbiter.waiting[c] with
        | none => []
        | some r => r.due
      let due := s.dueList c
      (overtaken.foldl State.missMoment s).setWaiting c (some ⟨s.clock.cadence, due⟩)
    else s

/-- A channel's demand after a member has ended (R89, R102): the claim leaves the due lists, a request left
without claims is withdrawn, and a channel left without members loses its mark. -/
def State.dropDemand (s : State) (c : AnalogCh) (i : SlotIx) : State :=
  let noMembers := (s.analogMembers c).isEmpty
  let waiting := match s.arbiter.waiting[c] with
    | none => none
    | some r =>
      let due := r.due.filter fun j => decide (j ≠ i)
      if noMembers || due.isEmpty then none else some { r with due := due }
  let inFlight := s.arbiter.inFlight.map fun f =>
    if f.channel = c then { f with due := f.due.filter fun j => decide (j ≠ i) } else f
  let marks := if noMembers then s.arbiter.marks.set c false else s.arbiter.marks
  State.marksIfEmpty
    { s with
      arbiter :=
        { s.arbiter with waiting := s.arbiter.waiting.set c waiting, inFlight := inFlight, marks := marks } }

/-! ### The grant decision -/

/-- A member of an arbiter list (R101). -/
inductive Member
  | channel (c : AnalogCh)
  | c2
  | c3
deriving DecidableEq, Repr

/-- The members of the list of a level, in order (R101). -/
def State.levelList (s : State) (n : Nat) : List Member :=
  (allChannels.filter fun c => decide (s.level c = some n)).map Member.channel ++
    (if n = 1 then [.c2] else if n = 2 then [.c3] else [])

/-- A channel at a level waits. -/
def State.waitsAt (s : State) (n : Nat) : Bool :=
  allChannels.any fun c => decide (s.level c = some n) && s.arbiter.waiting[c].isSome

/-- A member is requesting (R101). -/
def State.requesting (s : State) : Member → Bool
  | .channel c => s.arbiter.waiting[c].isSome
  | .c2 => s.waitsAt 2 || s.waitsAt 3
  | .c3 => s.waitsAt 3

/-- A member's mark (R102). -/
def Arbiter.marked (a : Arbiter) : Member → Bool
  | .channel c => a.marks[c]
  | .c2 => a.markC2
  | .c3 => a.markC3

/-- A member's mark set or cleared. -/
def Arbiter.setMark (a : Arbiter) (m : Member) (x : Bool) : Arbiter :=
  match m with
  | .channel c => { a with marks := a.marks.set c x }
  | .c2 => { a with markC2 := x }
  | .c3 => { a with markC3 := x }

/-- One list visited (R103 steps 1 and 2): the first requesting unmarked member, or, when all that request are
marked, the marks of the list cleared and its first requesting member; the member taken is marked. -/
def State.visit (s : State) (n : Nat) : Option Member × State :=
  let ms := s.levelList n
  let pick := ms.find? fun m => s.requesting m && !Arbiter.marked s.arbiter m
  let s' : State := match pick with
    | some _ => s
    | none => { s with arbiter := ms.foldl (fun a m => Arbiter.setMark a m false) s.arbiter }
  let taken := pick.or (ms.find? s.requesting)
  match taken with
  | none => (none, s')
  | some m => (some m, { s' with arbiter := Arbiter.setMark s'.arbiter m true })

/-- A grant (R95): the channel's request becomes the conversion in flight, to complete after the acquisition
window plus 2 µs; a grant of the last waiting request clears every mark (R105). -/
def State.grant (s : State) (c : AnalogCh) : State :=
  match s.arbiter.waiting[c] with
  | none => s
  | some r =>
    let done := s.clock.stamp + BitVec.ofNat 32 (s.setup.windows[c] + 2)
    State.marksIfEmpty
      { s with
        arbiter :=
          { s.arbiter with
            waiting := s.arbiter.waiting.set c none, inFlight := some ⟨c, r.moment, r.due, done⟩ } }

/-- The member that a visit takes, followed: a channel is granted, a chit leads to the next list (R103 steps
3 and 4). The chits lead down twice at most. -/
def State.follow (s : State) (m : Option Member) (next : State → State) : State :=
  match m with
  | none => s
  | some (.channel c) => s.grant c
  | some .c2 => next s
  | some .c3 => next s

/-- The grant decision (R103), begun in the level-1 list. -/
def State.decideGrant (s : State) : State :=
  let v1 := s.visit 1
  v1.2.follow v1.1 fun s =>
    let v2 := s.visit 2
    v2.2.follow v2.1 fun s =>
      let v3 := s.visit 3
      v3.2.follow v3.1 id

/-- The arbiter decides when the converter is free and a request waits (R104). -/
def State.decideIfFree (s : State) : State :=
  if s.arbiter.inFlight.isNone && s.anyWaiting then s.decideGrant else s

/-- The scheduler takes an advance of the count as one event (R99): every channel's due moment, and then one
decision if the converter is free. -/
def State.scheduleAdvance (s : State) : State := (allChannels.foldl State.dueMoment s).decideIfFree

end Sys2Proof.Machine
end

