-- ==== Sys2Proof/Machine/Ending.lean ====
section
/-! DEFINITION. The ending of claims (R14 to R18, R30, R31): one operation for a single claim and for all the
claims of a link, each list and each gate taken as one change. -/

namespace Sys2Proof.Machine

/-- A claim that is not a head ends: its cause, and then the end of its course. -/
def State.endNow (s : State) (cause : EndCause) (i : SlotIx) : State := (s.beginEnd i cause).finish i

/-- The ending claims of a drive channel's list leave it as one change (R16, R30, R31): first those that are not the
head; then the head, which leaves when another entry survives or the duty is 0, and else winds down. A list without an
ending claim is not changed. -/
def State.endInDrive (s : State) (d : Drive) (cause : EndCause) (ending : List SlotIx) : State :=
  match s.driveList d with
  | [] => s
  | h :: t =>
    if ¬ (h :: t).any fun i => decide (i ∈ ending) then s else
    let rest := t.filter fun i => decide (i ∉ ending)
    let s := (t.filter fun i => decide (i ∈ ending)).foldl (fun s i => s.endNow cause i) s
    if h ∈ ending ∧ ¬ s.claimIs h (fun c => decide (c.state = .retiring)) then
      if rest ≠ [] ∨ (s.drives.get d).duty = 0 then (s.endNow cause h).changeList d (some h) rest
      else
        ((s.beginEnd h cause).updClaim h fun c => { c with state := .retiring }).changeList d (some h) [h]
    else s.changeList d (some h) (h :: rest)

/-- The ending claims of a gate's list leave it as one change, and the gate evaluates its condition once, on
the votes that remain (R15, R41). A list without an ending claim is not changed. -/
def State.endInGate (s : State) (g : Gate) (cause : EndCause) (ending : List SlotIx) : State :=
  let l := s.gateList g
  if l.any fun i => decide (i ∈ ending) then
    let s := (l.filter fun i => decide (i ∈ ending)).foldl (fun s i => s.endNow cause i) s
    ({ s with gateLists := s.gateLists.set g (l.filter fun i => decide (i ∉ ending)) } : State).evalGate g
  else s

/-- An ending claim that stands in no list: a COMPLETE drive claim, an analog claim, whose demand leaves its
channel (R89), or an edge claim. A claim in any other place is not changed. -/
def State.endOutsideLists (s : State) (cause : EndCause) (i : SlotIx) : State :=
  match s.claim i with
  | none => s
  | some c =>
    match c.resource with
    | .drive _ => if c.state = .complete then s.endNow cause i else s
    | .gate _ => s
    | .analog ch => if c.state = .active then (s.endNow cause i).dropDemand ch i else s
    | .edge _ => if c.state = .active then s.endNow cause i else s

/-- A gate that closed before a channel's list is changed would make an ending entry its head: the head's burst is
finished and the entry behind it is ending. -/
def State.wouldPromoteEnding (s : State) (ending : List SlotIx) (d : Drive) : Bool :=
  match s.driveList d with
  | h :: next :: _ => s.claimIs h Claim.burstFinished && decide (next ∈ ending)
  | _ => false

/-- A channel's list is changed after its gate's list at this request: only a request that ends claims in both
leaves the order open, and then it is a free value (log entry 12), but for an order by which a claim that is itself
ending would be posted TAKEN (R31). -/
def State.gateFirst (s : State) (ending : List SlotIx) (d : Drive) : Bool :=
  ((s.gateList d.parent).any fun i => decide (i ∈ ending)) &&
    ((s.driveList d).any fun i => decide (i ∈ ending)) && !s.wouldPromoteEnding ending d &&
    Config.gateListFirst s.draws d

/-- Several claims end at one event (R15, R16, R30, R31, R41). -/
def State.endClaims (s : State) (cause : EndCause) (ending : List SlotIx) : State :=
  let after := [Drive.dl, .dr, .db].filter fun d => s.gateFirst ending d
  let before := [Drive.dl, .dr, .db].filter fun d => !s.gateFirst ending d
  let s := before.foldl (fun s d => s.endInDrive d cause ending) s
  let s := [Gate.gt, .gb].foldl (fun s g => s.endInGate g cause ending) s
  let s := after.foldl (fun s d => s.endInDrive d cause ending) s
  ending.foldl (fun s i => s.endOutsideLists cause i) s

/-- The unpinned claims of a link that DROP_ALL and EVICT end (R172, R173). -/
def State.endable (s : State) (l : Link) : List SlotIx :=
  s.slotsWhere fun c => decide (c.owner = l) && !c.pinned && c.state.ongoing

end Sys2Proof.Machine
end

