-- ==== Sys2Proof/Machine/Operands.lean ====
section
/-! DEFINITION. The operands of the requests: the layouts and encodings of R165, with the ranges that each
kind's chapter gives. A field out of range, or a body of another length, reads as none. -/

namespace Sys2Proof.Machine

/-- A byte of a body; a byte missing from a short body reads as 00h (R165). -/
def byteAt (body : List Byte) (n : Nat) : Byte := body.getD n 0#8

/-- A one-byte number of a body. -/
def natAt (body : List Byte) (n : Nat) : Nat := (byteAt body n).toNat

/-- A two-byte number of a body, most significant byte first (section 10.7). -/
def be16At (body : List Byte) (n : Nat) : Nat := be16 (byteAt body n) (byteAt body (n + 1))

/-! ### Encodings (R165) -/

def gateOf? : Nat → Option Gate
  | 0x00 => some .gt
  | 0x01 => some .gb
  | _ => none

def driveOf? : Nat → Option Drive
  | 0x10 => some .dl
  | 0x11 => some .dr
  | 0x12 => some .db
  | _ => none

def analogOf? (n : Nat) : Option AnalogCh :=
  if h : 0x20 ≤ n ∧ n < 0x2C then some ⟨n - 0x20, by omega⟩ else none

def edgeOf? (n : Nat) : Option EdgeIn :=
  if h : 0x30 ≤ n ∧ n < 0x38 then some ⟨n - 0x30, by omega⟩ else none

/-- A resource identifier (R165). -/
def resourceOf? (n : Nat) : Option Resource :=
  ((gateOf? n).map Resource.gate).or <| ((driveOf? n).map Resource.drive).or <|
    ((analogOf? n).map Resource.analog).or ((edgeOf? n).map Resource.edge)

/-- The source of CLEAR_TRIP and TEST_TRIP (R145 step 1). -/
def sourceOf? (n : Nat) : Option Source :=
  ((analogOf? n).map Source.analog).or ((edgeOf? n).map Source.edge)

def linkOf? : Nat → Option Link
  | 0 => some .a
  | 1 => some .b
  | 2 => some .c
  | _ => none

def kindOf? : Nat → Option Kind
  | 0 => some .drive
  | 1 => some .gate
  | 2 => some .asense
  | 3 => some .esense
  | _ => none

def directionOf? : Nat → Option Pattern
  | 0 => some .forward
  | 1 => some .reverse
  | 2 => some .brake
  | 3 => some .coast
  | _ => none

def voteOf? : Nat → Option Vote
  | 0 => some .votesClosed
  | 1 => some .votesOpen
  | _ => none

def stopPatternOf? : Nat → Option StopPattern
  | 0 => some .coast
  | 1 => some .brake
  | _ => none

def targetOf? : Nat → Option Target
  | 0 => some .noGate
  | 1 => some .gt
  | 2 => some .gb
  | 3 => some .both
  | _ => none

def modeOf? : Nat → Option Mode
  | 0 => some .period
  | 1 => some .count
  | 2 => some .level
  | _ => none

def edgeSelOf? : Nat → Option EdgeSel
  | 0 => some .rising
  | 1 => some .falling
  | 2 => some .both
  | _ => none

def levelOf? : Nat → Option Level
  | 0 => some .low
  | 1 => some .high
  | _ => none

def boolOf? : Nat → Option Bool
  | 0 => some false
  | 1 => some true
  | _ => none

/-- Pin polarities (R169). -/
def polarityOf? : Nat → Option Polarity
  | 0 => some .activeHigh
  | 1 => some .activeLow
  | _ => none

/-- A number within a range, or none. -/
def within? (lo hi n : Nat) : Option Nat := if lo ≤ n ∧ n ≤ hi then some n else none

/-! ### Bodies of the kinds (R58, R40, R108, R129) -/

/-- A DRIVE body for a channel: REVERSE is refused on DB (R58). -/
def driveBody? (d : Drive) (bs : List Byte) : Option DriveBody :=
  if bs.length ≠ 7 then none else do
    let target ← within? 0 1024 (be16At bs 0)
    let direction ← directionOf? (natAt bs 2)
    let ramp ← within? 0 1024 (be16At bs 3)
    if d = .db ∧ direction = .reverse then none
    else some ⟨target, direction, ramp, be16At bs 5⟩

/-- A GATE body; all three fields are checked whatever the vote (R40). -/
def gateBody? (bs : List Byte) : Option GateBody :=
  if bs.length ≠ 4 then none else do
    let vote ← voteOf? (natAt bs 0)
    let period ← within? 160 65535 (be16At bs 1)
    let close ← stopPatternOf? (natAt bs 3)
    some ⟨vote, period, close⟩

/-- An ASENSE body; a low limit above the high limit is refused (R108). -/
def analogBody? (bs : List Byte) : Option AnalogBody :=
  if bs.length ≠ 12 then none else do
    let interval ← within? 0 10 (natAt bs 0)
    let urgency ← within? 1 3 (natAt bs 1)
    let smoothing ← within? 0 4 (natAt bs 2)
    let high ← within? 0 4095 (be16At bs 3)
    let low ← within? 0 4095 (be16At bs 5)
    let debounce ← within? 1 8 (natAt bs 8)
    let tripHigh ← targetOf? (natAt bs 9)
    let tripLow ← targetOf? (natAt bs 10)
    let pattern ← stopPatternOf? (natAt bs 11)
    if high < low then none
    else some ⟨interval, urgency, smoothing, high, low, natAt bs 7, debounce, tripHigh, tripLow, pattern⟩

/-- An ESENSE body; every field is checked whatever the mode (R129). -/
def edgeBody? (bs : List Byte) : Option EdgeBody :=
  if bs.length ≠ 8 then none else do
    let mode ← modeOf? (natAt bs 0)
    let edge ← edgeSelOf? (natAt bs 1)
    let interval ← within? 0 10 (natAt bs 2)
    let debounce ← within? 1 8 (natAt bs 4)
    let active ← levelOf? (natAt bs 5)
    let target ← targetOf? (natAt bs 6)
    let pattern ← stopPatternOf? (natAt bs 7)
    some ⟨mode, edge, interval, natAt bs 3, debounce, active, target, pattern⟩

/-- A body of the kind that suits a resource, its length and every field checked. -/
def bodyFor? (r : Resource) (bs : List Byte) : Option Body :=
  match r with
  | .gate _ => (gateBody? bs).map Body.gate
  | .drive d => (driveBody? d bs).map Body.drive
  | .analog _ => (analogBody? bs).map Body.asense
  | .edge _ => (edgeBody? bs).map Body.esense

/-- The holds a kind takes: 1 to 255 for DRIVE, 0 to 255 for the others (R4 step 6, R10). -/
def holdFits (k : Kind) (hold : Nat) : Bool :=
  match k with
  | .drive => decide (1 ≤ hold) && decide (hold ≤ 255)
  | .gate => decide (hold ≤ 255)
  | .asense => decide (hold ≤ 255)
  | .esense => decide (hold ≤ 255)

/-- What OPEN and AMEND carry besides a handle or a resource: hold, wants SAMPLE and body. -/
structure ClaimFields where
  hold : Nat
  wantsSample : Bool
  body : Body
deriving DecidableEq, Repr

/-- The value step of OPEN and AMEND (R4 step 6, R9 step 6): the hold, wants SAMPLE and body fields. -/
def claimFields? (r : Resource) (hold wants : Nat) (bs : List Byte) : Option ClaimFields := do
  let w ← boolOf? wants
  let b ← bodyFor? r bs
  if holdFits r.kind hold then some ⟨hold, w, b⟩ else none

/-- The value step of OPEN: the kind byte must name the resource's kind (R4 step 6). -/
def openFields? (r : Resource) (body : List Byte) : Option ClaimFields :=
  if kindOf? (natAt body 1) = some r.kind then
    claimFields? r (natAt body 4) (natAt body 5) (body.drop 6)
  else none

/-- The value step of AMEND: hold, wants SAMPLE and the body after the handle and the kind (R9 step 6). -/
def amendFields? (r : Resource) (body : List Byte) : Option ClaimFields :=
  claimFields? r (natAt body 3) (natAt body 4) (body.drop 5)

/-! ### Setup bodies (R168, R169) -/

/-- A mask of a body with no bit set above its width (R168). -/
def mask? (w n : Nat) : Option (BitVec w) := if n < 2 ^ w then some (BitVec.ofNat w n) else none

/-- The body of SET_REACH: link, drive mask, gate mask, analog mask (2), edge mask, class, quota (R168). -/
def reachBody? (body : List Byte) : Option (Link × Reach) :=
  if body.length ≠ 8 then none else do
    let l ← linkOf? (natAt body 0)
    let drive ← mask? 3 (natAt body 1)
    let gate ← mask? 2 (natAt body 2)
    let analog ← mask? 12 (be16At body 3)
    let edge ← mask? 8 (natAt body 5)
    let quota ← within? 0 48 (natAt body 7)
    if h : natAt body 6 < 4 then some (l, ⟨drive, gate, analog, edge, ⟨natAt body 6, h⟩, quota⟩) else none

/-- The body of SET_ANALOG: an analog channel and a window of 1 to 32 µs (R169). -/
def windowBody? (body : List Byte) : Option (AnalogCh × Nat) :=
  if body.length ≠ 2 then none else do
    let c ← analogOf? (natAt body 0)
    let w ← within? 1 32 (natAt body 1)
    some (c, w)

/-- The body of SET_EDGE: an edge input and a filter of 0 to 15 µs (R169). -/
def filterBody? (body : List Byte) : Option (EdgeIn × Nat) :=
  if body.length ≠ 2 then none else do
    let e ← edgeOf? (natAt body 0)
    let f ← within? 0 15 (natAt body 1)
    some (e, f)

/-- The body of SET_DRIVE: a drive channel and two polarities (R169). -/
def polarityBody? (body : List Byte) : Option (Drive × PinPolarity) :=
  if body.length ≠ 3 then none else do
    let d ← driveOf? (natAt body 0)
    let ha ← polarityOf? (natAt body 1)
    let hb ← polarityOf? (natAt body 2)
    some (d, ⟨ha, hb⟩)

/-- The body of CLEAR_TRIP and TEST_TRIP: a gate and a source (R145 step 1). -/
def holdBody? (body : List Byte) : Option (Gate × Source) :=
  if body.length ≠ 2 then none else do
    let g ← gateOf? (natAt body 0)
    let src ← sourceOf? (natAt body 1)
    some (g, src)

/-- The body of EVICT and ADMIT: a link (R173, R175). -/
def linkBody? (body : List Byte) : Option Link :=
  if body.length ≠ 1 then none else linkOf? (natAt body 0)

end Sys2Proof.Machine

namespace Sys2Proof

/-- A resource is in a reach map (R168). -/
def Reach.covers (m : Reach) : Resource → Bool
  | .gate .gt => m.gate.getLsbD 0
  | .gate .gb => m.gate.getLsbD 1
  | .drive .dl => m.drive.getLsbD 0
  | .drive .dr => m.drive.getLsbD 1
  | .drive .db => m.drive.getLsbD 2
  | .analog c => m.analog.getLsbD c.val
  | .edge e => m.edge.getLsbD e.val

end Sys2Proof
end

