-- ==== Sys2Proof/Machine/Requests.lean ====
section
/-! DEFINITION. Taking a request (R155, R158, R159): the window that brings it, the order of checks, the answer
and the response held. -/

namespace Sys2Proof.Machine

/-- What carrying out a request leaves: the state, and the result and body of its response. -/
structure Answer where
  state : State
  result : Result
  body : ReplyBody
deriving DecidableEq, Repr

/-- A refusal: no state changes, and the body is empty (R158, R159). -/
def State.refuse (s : State) (r : Result) : Answer := ⟨s, r, .empty⟩

/-- A request carried out (R159). -/
def State.ok (s : State) (b : ReplyBody) : Answer := ⟨s, .ok, b⟩

/-- The rise of CS that ends a window with a request frame (R154, R155): the request is carried out whole and
its response becomes the held response. A body over 28 bytes makes a frame that fails step 1 of R154. No request
is taken while reset is held (R171) or while the link's CS has not risen since the release (R152). A request
on a link between windows stands for its whole window (log entry 6). -/
def State.takeRequest (s : State) (l : Link) (code : Byte) (body : List Byte) (answer : State → Answer) : State :=
  if s.resetHeld ∨ (s.ports.get l).window = .awaitRise then s
  else if 28 < body.length then s.holdResponse l ⟨code, .badFrame, .empty⟩
  else
    let a := answer s
    a.state.holdResponse l ⟨code, a.result, a.body⟩

/-- Step 3 of R158: the part is in RUN. -/
def State.inRun (s : State) (k : Answer) : Answer :=
  if s.setup.part = .config then s.refuse .notReady else k

/-- Steps 1 and 3 of R158: the link is the authority link, and the part is in RUN. -/
def State.byAuthority (s : State) (l : Link) (k : Answer) : Answer :=
  if l ≠ s.setup.authority then s.refuse .notAuthority else s.inRun k

/-- Steps 1 and 2 of R158: the link is the authority link, and the part is in CONFIG. -/
def State.bySetup (s : State) (l : Link) (k : Answer) : Answer :=
  if l ≠ s.setup.authority then s.refuse .notAuthority
  else if s.setup.part = .run then s.refuse .locked else k

/-- The slot named by the handle at a place of a body (R2); a byte that is missing reads as 00h (R165). -/
def State.handleAt (s : State) (body : List Byte) (n : Nat) : Option SlotIx :=
  s.named (natAt body n) (natAt body (n + 1))

/-- The checks of a request that carries a handle and whose rule has no value step: the encoding of the body, at the
start of step 4 (R158, R165), and then the handle (R2, log entry 13). -/
def State.withHandle (s : State) (body : List Byte) (length : Nat) (k : SlotIx → Answer) : Answer :=
  if body.length ≠ length then s.refuse .badValue
  else match s.handleAt body 0 with
    | none => s.refuse .stale
    | some i => k i

/-- Steps 2 to 4 of R9: owner, not pinned, not ended. -/
def State.ownedOngoing (s : State) (l : Link) (i : SlotIx) (k : Claim → Answer) : Answer :=
  match s.claim i with
  | none => s.refuse .stale
  | some c =>
    if l ≠ c.owner then s.refuse .notOwner
    else if c.pinned then s.refuse .pinned
    else if c.state = .retiring ∨ c.state = .spent then s.refuse .ended
    else k c

/-- The state of the claim in a slot; SPENT for a slot that the request has freed. -/
def State.stateOf (s : State) (i : SlotIx) : ClaimState := ((s.claim i).map Claim.state).getD .spent

end Sys2Proof.Machine
end

