-- ==== Sys2Proof/Machine/Authority.lean ====
section
/-! DEFINITION. PIN, EVICT and ADMIT. -/

namespace Sys2Proof.Machine

/-- A claim pinned (R20): no deadline from then on; its hold is kept. -/
def Claim.pin (c : Claim) : Claim := { c with pinned := true, deadline := none }

/-- PIN (R20). -/
def State.pinRequest (s : State) (l : Link) (body : List Byte) : Answer :=
  s.byAuthority l <|
    s.withHandle body 2 fun i =>
      match s.claim i with
      | none => s.refuse .stale
      | some c =>
        if c.state = .retiring ∨ c.state = .spent then s.refuse .ended
        else if c.pinned then s.ok .empty
        else (s.updClaim i Claim.pin).ok .empty

def execPin (l : Link) (body : List Byte) (s : State) : Host.Outcome State Fault Refusal :=
  .next (s.takeRequest l 0x30#8 body fun s => s.pinRequest l body)

/-- A link barred, its notice set emptied and its SPENT slots FREE (R173 steps 1 to 3). -/
def State.barLink (s : State) (l : Link) : State :=
  let spent := s.slotsWhere fun c => decide (c.owner = l) && decide (c.state = .spent)
  let s := s.setPort l { s.ports.get l with barred := true }
  spent.foldl State.freeSlot { s with notices := s.notices.set l [] }

/-- A pinned claim passes to the authority link (R173 step 5, R7): its tag is kept if the authority link's tag
map has no entry for it, and HANDOVER is posted. -/
def State.handOverPinned (s : State) (i : SlotIx) : State :=
  let auth := s.setup.authority
  (s.updClaim i fun c =>
    { c with owner := auth, tag := if (s.tagSlot auth c.tag).isSome then 0#16 else c.tag }).post .handover i

/-- A hold passes from a link to another (R173 step 6). -/
def TripHold.pass (src dst : Link) (h : TripHold) : TripHold :=
  if h.owner = src then { h with owner := dst } else h

/-- The holds of a link pass to the authority link (R173 step 6). -/
def State.passHolds (s : State) (l : Link) : State :=
  let pass := fun u : GateUnit => { u with holds := u.holds.map (TripHold.pass l s.setup.authority) }
  { s with gates := ⟨pass s.gates.gt, pass s.gates.gb⟩ }

/-- The number of holds that a link owns in both gates' lists. -/
def State.holdsOf (s : State) (l : Link) : Nat :=
  ((s.gates.gt.holds ++ s.gates.gb.holds).filter fun h => decide (h.owner = l)).length

/-- The pinned claims of a link, ascending. -/
def State.pinnedOf (s : State) (l : Link) : List SlotIx :=
  s.slotsWhere fun c => decide (c.owner = l) && c.pinned

/-- The six steps of an eviction (R173), with a free value drawn for the order that R31 leaves open. -/
def State.evictLink (s : State) (l : Link) : State :=
  let s1 := (s.barLink l).endClaims .retire (s.endable l)
  let s2 := (s1.pinnedOf l).foldl State.handOverPinned s1
  { s2.passHolds l with draws := s2.draws + 1 }

/-- EVICT (R173). -/
def State.evictRequest (s : State) (l : Link) (body : List Byte) : Answer :=
  s.byAuthority l <|
    match linkBody? body with
    | none => s.refuse .badValue
    | some t =>
      if t = s.setup.authority then s.refuse .badValue
      else (s.evictLink t).ok (.evicted (s.endable t).length (s.pinnedOf t).length (s.holdsOf t))

def execEvict (l : Link) (body : List Byte) (s : State) : Host.Outcome State Fault Refusal :=
  .next (s.takeRequest l 0x31#8 body fun s => s.evictRequest l body)

/-- ADMIT (R175). -/
def State.admitRequest (s : State) (l : Link) (body : List Byte) : Answer :=
  s.byAuthority l <|
    match linkBody? body with
    | none => s.refuse .badValue
    | some t => (s.setPort t { s.ports.get t with barred := false }).ok .empty

def execAdmit (l : Link) (body : List Byte) (s : State) : Host.Outcome State Fault Refusal :=
  .next (s.takeRequest l 0x32#8 body fun s => s.admitRequest l body)

end Sys2Proof.Machine
end

