-- ==== Sys2Proof/Machine/Claims.lean ====
section
/-! DEFINITION. OPEN, AMEND, RENEW, RENEW_ALL, RETIRE, DROP_ALL and HOLD_EXPIRY. -/

namespace Sys2Proof.Machine

/-! ### OPEN -/

/-- The payload of a new claim: its body, and the runtime its block gives it at OPEN (R58, R109, R130). -/
def State.payloadAtOpen (s : State) (r : Resource) (b : Body) : Payload :=
  match b with
  | .drive b => .drive b b.burst
  | .gate b => .gate b
  | .asense b => .asense b AnalogRun.fresh0
  | .esense b =>
    .esense b (EdgeRun.start (match r with | .edge e => s.inputs[e].level | _ => .low))

/-- The record of a new claim (R5). -/
def State.newClaim (s : State) (l : Link) (r : Resource) (tag : BitVec 16) (f : ClaimFields) : Claim :=
  { owner := l
    resource := r
    tag := tag
    cls := (s.setup.reach.get l).cls
    state := match r with | .drive _ => .standby | _ => .active
    hold := f.hold
    deadline := s.deadlineFor f.hold
    pinned := false
    wantsSample := f.wantsSample
    endCause := none
    payload := s.payloadAtOpen r f.body }

/-- A new claim handed to the block that owns its resource (R5): a drive claim joins its channel's list (R27),
a gate claim joins its gate's list and the gate evaluates (R35, R41), a sense claim is in its set. -/
def State.handOver (s : State) (r : Resource) (i : SlotIx) : State :=
  match r with
  | .drive d => s.join d i
  | .gate g =>
    ({ s with gateLists := s.gateLists.set g (s.insertByClass i (s.gateList g)) } : State).evalGate g
  | .analog _ => s
  | .edge _ => s

/-- OPEN (R4, R5). -/
def State.openRequest (s : State) (l : Link) (body : List Byte) : Answer :=
  s.inRun <|
    if s.barred l then s.refuse .barred
    else match resourceOf? (natAt body 0) with
      | none => s.refuse .badValue
      | some r =>
        if ¬ (s.setup.reach.get l).covers r then s.refuse .outOfReach
        else match s.freeSlots.head? with
          | none => s.refuse .noRoom
          | some i =>
            if (s.setup.reach.get l).quota ≤ s.unpinnedCount l then s.refuse .quota
            else
              let tag := BitVec.ofNat 16 (be16At body 2)
              if (s.tagSlot l tag).isSome then s.refuse .tagTaken
              else match openFields? r body with
                | none => s.refuse .badValue
                | some f =>
                  let s' := (s.putClaim i (s.newClaim l r tag f)).handOver r i
                  s'.ok (.claim (s.handle i) (s'.stateOf i))

def execOpen (l : Link) (body : List Byte) (s : State) : Host.Outcome State Fault Refusal :=
  .next (s.takeRequest l 0x10#8 body fun s => s.openRequest l body)

/-! ### AMEND -/

/-- The payload of an amended claim: the new body, and the runtime as its block changes it: burst remaining
loaded (R76), counters returned to 0 (R119), the edge runtime by R139. -/
def State.payloadAtAmend (s : State) (c : Claim) (b : Body) : Payload :=
  match c.payload, b with
  | .drive _ _, .drive b' => .drive b' b'.burst
  | .gate _, .gate b' => .gate b'
  | .asense _ r, .asense b' => .asense b' r.amended
  | .esense old r, .esense b' =>
    .esense b' (EdgeRun.amended old b' (match c.resource with | .edge e => s.inputs[e].level | _ => .low) r)
  | p, _ => p

/-- The record of an amended claim (R10). -/
def State.amendedClaim (s : State) (c : Claim) (f : ClaimFields) : Claim :=
  { c with
    hold := f.hold
    deadline := s.deadlineFor f.hold
    wantsSample := f.wantsSample
    payload := s.payloadAtAmend c f.body }

/-- An amended body reaches the block that owns the resource (R10): a COMPLETE drive claim joins its list
again (R33), a gate evaluates (R35), and every other claim is read where it stands (R34, R90). -/
def State.handAmended (s : State) (c : Claim) (i : SlotIx) : State :=
  match c.resource with
  | .drive d => if c.state = .complete then s.join d i else s
  | .gate g => s.evalGate g
  | .analog _ => s
  | .edge _ => s

/-- AMEND (R9, R10, R33, R34). -/
def State.amendRequest (s : State) (l : Link) (body : List Byte) : Answer :=
  s.inRun <|
    match s.handleAt body 0 with
    | none => s.refuse .stale
    | some i =>
      s.ownedOngoing l i fun c =>
        if kindOf? (natAt body 2) ≠ some c.kind then s.refuse .wrongKind
        else match amendFields? c.resource body with
          | none => s.refuse .badValue
          | some f =>
            let s' := (s.putClaim i (s.amendedClaim c f)).handAmended c i
            s'.ok (.state (s'.stateOf i))

def execAmend (l : Link) (body : List Byte) (s : State) : Host.Outcome State Fault Refusal :=
  .next (s.takeRequest l 0x11#8 body fun s => s.amendRequest l body)

/-! ### RENEW -/

/-- The claim in a slot renewed from the present count (R11, R13). -/
def State.renewClaim (s : State) (i : SlotIx) : State :=
  s.updClaim i fun c => { c with deadline := s.deadlineFor c.hold }

/-- RENEW with one handle (R9, R11). -/
def State.renewRequest (s : State) (l : Link) (body : List Byte) : Answer :=
  s.inRun <| s.withHandle body 2 fun i => s.ownedOngoing l i fun _ => (s.renewClaim i).ok .empty

/-- The claims that RENEW of all renews: unpinned, with a nonzero hold, not ended (R12). -/
def State.renewable (s : State) (l : Link) : List SlotIx :=
  s.slotsWhere fun c => decide (c.owner = l) && !c.pinned && decide (c.hold ≠ 0) && c.state.ongoing

/-- RENEW of all the link's claims (R12). -/
def State.renewAllRequest (s : State) (l : Link) : Answer :=
  s.inRun <| (s.renewable l |>.foldl State.renewClaim s).ok (.count (s.renewable l).length)

/-- RENEW: with an empty body it is RENEW of all the link's claims (R165). -/
def execRenew (l : Link) (body : List Byte) (s : State) : Host.Outcome State Fault Refusal :=
  .next (s.takeRequest l 0x12#8 body fun s =>
    if body.isEmpty then s.renewAllRequest l else s.renewRequest l body)

def execRenewAll (l : Link) (s : State) : Host.Outcome State Fault Refusal :=
  .next (s.takeRequest l 0x12#8 [] fun s => s.renewAllRequest l)

/-! ### RETIRE and DROP_ALL -/

/-- RETIRE (R9, R17). -/
def State.retireRequest (s : State) (l : Link) (body : List Byte) : Answer :=
  s.inRun <| s.withHandle body 2 fun i =>
    s.ownedOngoing l i fun _ =>
      let s' := s.endClaims .retire [i]
      s'.ok (.state (s'.stateOf i))

def execRetire (l : Link) (body : List Byte) (s : State) : Host.Outcome State Fault Refusal :=
  .next (s.takeRequest l 0x13#8 body fun s => s.retireRequest l body)

/-- DROP_ALL (R172). A free value is drawn for the order that R31 leaves open (log entry 12). -/
def State.dropAllRequest (s : State) (l : Link) (body : List Byte) : Answer :=
  s.inRun <|
    if body.length ≠ 0 then s.refuse .badValue
    else
      let s' := s.endClaims .retire (s.endable l)
      ({ s' with draws := s'.draws + 1 } : State).ok (.count (s.endable l).length)

def execDropAll (l : Link) (body : List Byte) (s : State) : Host.Outcome State Fault Refusal :=
  .next (s.takeRequest l 0x14#8 body fun s => s.dropAllRequest l body)

/-! ### HOLD_EXPIRY -/

/-- A hold expiry (R14): the claim lapses when the count has reached its deadline. In the tick before its deadline it
brings the count to the deadline, as the table's own event: the moments of that value wait for the CADENCE_ADVANCE with
which the scheduler and the edge unit take it (R82, R84, log entry 5). A claim without a deadline, or with one that lies
further ahead, takes none. -/
def State.expire (s : State) (i : SlotIx) : State :=
  match (s.claim i).bind Claim.deadline with
  | none => s
  | some t =>
    if s.reached t then s.endClaims .lapse [i]
    else if t = s.clock.cadence + 1#32 ∧ s.clock.momentsWait = false then (s.nextTick true).endClaims .lapse [i]
    else s

def execHoldExpiry (i : SlotIx) (s : State) : Host.Outcome State Fault Refusal :=
  .next (if s.resetHeld then s else s.expire i)

end Sys2Proof.Machine
end

