-- ==== Sys2Proof/Machine/Holds.lean ====
section
/-! DEFINITION. CLEAR_TRIP, TEST_TRIP and TRIP_TAKEN. -/

namespace Sys2Proof.Machine

/-- A claim on a source stands in its condition for a gate (R146): live, which is ACTIVE for a sense claim. -/
def Claim.standsAgainst (src : Source) (g : Gate) (c : Claim) : Bool :=
  decide (c.resource = src.resource) && decide (c.state = .active) &&
    match c.payload with
    | .asense b r => analogStands b r g
    | .esense b r => edgeStands b r g
    | .drive _ _ => false
    | .gate _ => false

/-- Some live sense claim on the source has a standing condition for the gate (R146). -/
def State.standing (s : State) (g : Gate) (src : Source) : Bool :=
  !(s.slotsWhere (Claim.standsAgainst src g)).isEmpty

/-- The gate's open state and hold count, as CLEAR_TRIP and TEST_TRIP answer them (R147, R148). -/
def State.gateAnswer (s : State) (g : Gate) : Answer :=
  s.ok (.gate (s.gateIsOpen g) (s.gates.get g).holds.length)

/-- CLEAR_TRIP (R145, R147). -/
def State.clearTripRequest (s : State) (l : Link) (body : List Byte) : Answer :=
  s.inRun <|
    match holdBody? body with
    | none => s.refuse .badValue
    | some (g, src) =>
      match s.holdFor g src with
      | none => s.refuse .notHeld
      | some h =>
        if l ≠ h.owner ∧ l ≠ s.setup.authority then ⟨s, .notOwner, .holder h.owner⟩
        else if s.standing g src then ⟨s, .stillActive, .holder h.owner⟩
        else (s.removeHold g src).gateAnswer g

def execClearTrip (l : Link) (body : List Byte) (s : State) : Host.Outcome State Fault Refusal :=
  .next (s.takeRequest l 0x20#8 body fun s => s.clearTripRequest l body)

/-- TEST_TRIP (R148): a trip with cause TEST, pattern BRAKE and owner the authority link, and no TRIP notice. -/
def State.testTripRequest (s : State) (l : Link) (body : List Byte) : Answer :=
  s.byAuthority l <|
    match holdBody? body with
    | none => s.refuse .badValue
    | some (g, src) => (s.takeHold g ⟨src, .test, .brake, s.setup.authority⟩).gateAnswer g

def execTestTrip (l : Link) (body : List Byte) (s : State) : Host.Outcome State Fault Refusal :=
  .next (s.takeRequest l 0x21#8 body fun s => s.testTripRequest l body)

/-- TRIP posted to the claim that raised a trip (R143): to the slot while it still holds that claim. -/
def State.postTrip (s : State) (h : Handle) : State :=
  if s.slots[h.slot].gen = h.gen then s.post .trip h.slot else s

/-- The hold that a trip asks of a gate (R143): the authority link owns it when the carried owner is barred. -/
def State.holdOf (s : State) (t : Trip) : TripHold :=
  ⟨t.source, t.cause, t.pattern, if s.barred t.owner then s.setup.authority else t.owner⟩

/-- A gate takes the oldest trip that waits for it (R143, R52). -/
def State.takeTrip (s : State) (g : Gate) : State :=
  match s.trips.get g with
  | [] => s
  | t :: ts => (({ s with trips := s.trips.set g ts } : State).takeHold g (s.holdOf t)).postTrip t.raiser

def execTripTaken (g : Gate) (s : State) : Host.Outcome State Fault Refusal :=
  .next (if s.resetHeld then s else s.takeTrip g)

end Sys2Proof.Machine
end

