-- ==== Sys2Proof/Machine/Reports.lean ====
section
/-! DEFINITION. POLL, STATUS, TRIPS, LIST, READ, LOOKUP and TAKE_NOTICES. -/

namespace Sys2Proof.Machine

/-! ### POLL -/

/-- POLL (R160): its body is not read. -/
def State.pollRequest (s : State) (l : Link) : Answer :=
  s.ok (.poll s.setup.part (s.notices.get l).length (s.barred l) s.freeSlots.length)

def execPoll (l : Link) (body : List Byte) (s : State) : Host.Outcome State Fault Refusal :=
  .next (s.takeRequest l 0x00#8 body fun s => s.pollRequest l)

/-! ### STATUS -/

/-- The number of a gate's claims with a vote (R54). -/
def State.voteCount (s : State) (g : Gate) (v : Vote) : Nat :=
  ((s.gateBodies g).filter fun b => decide (b.vote = v)).length

/-- The items of a gate (R54). -/
def State.gateStatus (s : State) (g : Gate) : StatusItems :=
  let u := s.gates.get g
  .gate u.isOpen u.applied u.staged u.close ((s.supplier g).map fun p => s.handle p.1)
    (s.voteCount g .votesOpen) (s.voteCount g .votesClosed) u.holds.length

/-- The items of a drive channel (R80), and its pins' polarity as written in CONFIG (R163, log entry 15). -/
def State.driveStatus (s : State) (d : Drive) : StatusItems :=
  let ch := s.drives.get d
  .drive ch.phase ch.duty ch.pattern ch.compare ((s.head d).map s.handle) (s.driveList d).length
    (s.setup.polarity.get d)

/-- The items of an analog channel (R91, R106), and its acquisition window as written in CONFIG (R163, log
entry 15). -/
def State.analogStatus (s : State) (c : AnalogCh) : StatusItems :=
  .analog (s.dueInterval c) (s.analogMembers c).length
    (s.arbiter.waiting[c].map fun r => (r.moment, r.due.length))
    (s.arbiter.inFlight.any fun f => decide (f.channel = c)) (s.level c) s.arbiter.marks[c]
    s.setup.windows[c]

/-- The items of an edge input (R128), and its glitch filter as written in CONFIG (R163, log entry 15). -/
def State.edgeStatus (s : State) (e : EdgeIn) : StatusItems :=
  .edge s.inputs[e].level s.inputs[e].pending.isSome (s.sensitivity e) (s.edgeMembers e).length
    s.inputs[e].filter

/-- What STATUS of the part gives for a link (R163). -/
def State.linkReport (s : State) (l : Link) : LinkReport :=
  ⟨s.barred l, (s.notices.get l).length, s.unpinnedCount l⟩

/-- The items of the part as a whole (R163). -/
def State.partStatus (s : State) : StatusItems :=
  .part s.setup.part s.setup.authority (s.arbiter.inFlight.map fun f => (f.channel, f.moment))
    s.arbiter.markC2 s.arbiter.markC3 s.freeSlots.length
    ⟨s.linkReport .a, s.linkReport .b, s.linkReport .c⟩

/-- The items of a subject, if the byte is one (R163). -/
def State.statusItems? (s : State) (subject : Nat) : Option StatusItems :=
  if subject = 0xFF then some s.partStatus
  else (resourceOf? subject).map fun r =>
    match r with
    | .gate g => s.gateStatus g
    | .drive d => s.driveStatus d
    | .analog c => s.analogStatus c
    | .edge e => s.edgeStatus e

/-- STATUS (R163). -/
def State.statusRequest (s : State) (body : List Byte) : Answer :=
  if body.length ≠ 1 then s.refuse .badValue
  else match s.statusItems? (natAt body 0) with
    | none => s.refuse .badValue
    | some items => s.ok (.status s.clock.cadence items)

def execStatus (l : Link) (body : List Byte) (s : State) : Host.Outcome State Fault Refusal :=
  .next (s.takeRequest l 0x01#8 body fun s => s.statusRequest body)

/-! ### TRIPS -/

/-- TRIPS (R164): the hold count and up to six holds from a start index of 0 to 19. -/
def State.tripsRequest (s : State) (body : List Byte) : Answer :=
  match gateOf? (natAt body 0) with
  | none => s.refuse .badValue
  | some g =>
    if body.length ≠ 2 ∨ 19 < natAt body 1 then s.refuse .badValue
    else
      let holds := (s.gates.get g).holds
      s.ok (.trips holds.length ((holds.drop (natAt body 1)).take 6))

def execTrips (l : Link) (body : List Byte) (s : State) : Host.Outcome State Fault Refusal :=
  .next (s.takeRequest l 0x02#8 body fun s => s.tripsRequest body)

/-! ### LIST -/

/-- The claims of a resource in the order LIST runs (R38): list order for a drive channel or a gate, ascending
slots for a sense resource. -/
def State.claimsOn (s : State) (r : Resource) : List SlotIx :=
  match r with
  | .drive d => s.driveList d
  | .gate g => s.gateList g
  | .analog c => s.analogMembers c
  | .edge e => s.edgeMembers e

/-- One entry of LIST (R38). -/
def State.listEntry (s : State) (n : Nat) (i : SlotIx) : Option ListEntry :=
  (s.claim i).map fun c => ⟨n, s.handle i, c.owner, c.cls, c.state, c.gateBody?.map GateBody.vote⟩

/-- Entries of LIST from an index on. -/
def State.listEntries (s : State) : Nat → List SlotIx → List ListEntry
  | _, [] => []
  | n, i :: is => (s.listEntry n i).toList ++ s.listEntries (n + 1) is

/-- LIST (R38): the number of claims and up to three entries from a start index of 0 to 47. -/
def State.listRequest (s : State) (body : List Byte) : Answer :=
  s.inRun <|
    match resourceOf? (natAt body 0) with
    | none => s.refuse .badValue
    | some r =>
      if body.length ≠ 2 ∨ 47 < natAt body 1 then s.refuse .badValue
      else
        let start := natAt body 1
        s.ok (.list (s.claimsOn r).length (s.listEntries start (((s.claimsOn r).drop start).take 3)))

def execList (l : Link) (body : List Byte) (s : State) : Host.Outcome State Fault Refusal :=
  .next (s.takeRequest l 0x03#8 body fun s => s.listRequest body)

/-! ### READ -/

/-- The position of a slot in a list. -/
def positionIn (i : SlotIx) (l : List SlotIx) : Option Nat := l.findIdx? fun j => decide (j = i)

/-- Where a claim stands in its list or set (R37). -/
def State.place (s : State) (i : SlotIx) (c : Claim) : Place :=
  match c.resource with
  | .drive d => ⟨positionIn i (s.driveList d), (s.driveList d).length, none⟩
  | .gate g =>
    if c.state = .active then
      ⟨positionIn i (s.gateList g), (s.gateList g).length,
        some (decide ((s.supplier g).map Prod.fst = some i))⟩
    else ⟨none, (s.gateList g).length, none⟩
  | .analog ch => ⟨none, (s.analogMembers ch).length, none⟩
  | .edge e => ⟨none, (s.edgeMembers e).length, none⟩

/-- READ part 0 (R22, R13, R37). -/
def State.commonReport (s : State) (i : SlotIx) (c : Claim) : CommonReport :=
  { handle := s.handle i
    owner := c.owner
    kind := c.kind
    resource := c.resource
    tag := c.tag
    cls := c.cls
    state := c.state
    hold := c.hold
    timeLeft := c.deadline.map fun t => t - s.clock.cadence
    pinned := c.pinned
    wantsSample := c.wantsSample
    endCause := c.endCause
    place := s.place i c }

/-- READ part 1 (R22). -/
def bodyReport (c : Claim) : BodyReport :=
  match c.payload with
  | .drive b left => .drive b left
  | .gate b => .gate b
  | .asense b _ => .asense b
  | .esense b _ => .esense b

/-- READ part 2 (R22, R54, R80, R117, R138). -/
def State.runReport (s : State) (i : SlotIx) (c : Claim) : RunReport :=
  match c.payload, c.resource with
  | .drive _ _, .drive d =>
    .drive (if s.head d = some i then
      some ⟨(s.drives.get d).phase, (s.drives.get d).duty, (s.drives.get d).pattern⟩ else none)
  | .gate _, .gate g => .gate (s.gateIsOpen g)
  | .asense _ r, .analog ch =>
    .asense r (s.dueInterval ch)
      (s.arbiter.waiting[ch].any fun q => decide (i ∈ q.due)) (s.level ch)
  | .esense _ r, .edge e => .esense r s.inputs[e].level (s.sensitivity e) (s.edgeMembers e).length
  | .drive _ _, _ => .drive none
  | .gate _, _ => .gate false
  | .asense _ r, _ => .asense r none false none
  | .esense _ r, _ => .esense r .low none 0

/-- What a READ of part 2 by the owner leaves of a claim (R117, R138). -/
def Claim.readByOwner (c : Claim) : Claim :=
  match c.payload with
  | .asense b r => { c with payload := .asense b r.readByOwner }
  | .esense b r => { c with payload := .esense b r.readByOwner }
  | .drive _ _ => c
  | .gate _ => c

/-- READ (R22): part 2 read by the owner clears flags after the values are placed in the response. -/
def State.readRequest (s : State) (l : Link) (body : List Byte) : Answer :=
  s.inRun <|
    match s.handleAt body 0 with
    | none => s.refuse .stale
    | some i =>
      match s.claim i with
      | none => s.refuse .stale
      | some c =>
        if body.length ≠ 3 then s.refuse .badValue
        else match natAt body 2 with
          | 0 => s.ok (.common (s.commonReport i c))
          | 1 => s.ok (.body (bodyReport c))
          | 2 =>
            let s' := if l = c.owner then s.updClaim i Claim.readByOwner else s
            s'.ok (.run (s.runReport i c))
          | _ => s.refuse .badValue

def execRead (l : Link) (body : List Byte) (s : State) : Host.Outcome State Fault Refusal :=
  .next (s.takeRequest l 0x04#8 body fun s => s.readRequest l body)

/-! ### LOOKUP -/

/-- LOOKUP (R8). -/
def State.lookupRequest (s : State) (l : Link) (body : List Byte) : Answer :=
  s.inRun <|
    if body.length ≠ 2 then s.refuse .badValue
    else match s.tagSlot l (BitVec.ofNat 16 (be16At body 0)) with
      | none => s.refuse .noSuch
      | some i => s.ok (.claim (s.handle i) (s.stateOf i))

def execLookup (l : Link) (body : List Byte) (s : State) : Host.Outcome State Fault Refusal :=
  .next (s.takeRequest l 0x05#8 body fun s => s.lookupRequest l body)

/-! ### TAKE_NOTICES -/

/-- An entry taken (R162, R3): its slot becomes FREE when it holds a final notice. -/
def State.takeEntry (s : State) (e : NoticeEntry) : State := if e.final then s.freeSlot e.slot else s

/-- TAKE_NOTICES (R162): up to six entries in ascending slot order, with the handles as the slots hold them
when the request is taken. -/
def State.takeNoticesRequest (s : State) (l : Link) (body : List Byte) : Answer :=
  if body.length ≠ 0 then s.refuse .badValue
  else
    let set := s.notices.get l
    let taken := set.take 6
    let s' := taken.foldl State.takeEntry { s with notices := s.notices.set l (set.drop 6) }
    s'.ok (.notices (set.drop 6).length (taken.map fun e => (s.handle e.slot, e.kinds)))

def execTakeNotices (l : Link) (body : List Byte) (s : State) : Host.Outcome State Fault Refusal :=
  .next (s.takeRequest l 0x06#8 body fun s => s.takeNoticesRequest l body)

end Sys2Proof.Machine
end

