-- ==== Sys2Proof/Machine/SetupStore.lean ====
section
/-! DEFINITION. SET_REACH, SET_ANALOG, SET_EDGE, SET_DRIVE and LOCK_SETUP. -/

namespace Sys2Proof.Machine

/-- The setup store replaced. -/
def State.setSetup (s : State) (x : Setup) : State := { s with setup := x }

/-- SET_REACH (R168). -/
def State.setReachRequest (s : State) (l : Link) (body : List Byte) : Answer :=
  s.bySetup l <|
    match reachBody? body with
    | none => s.refuse .badValue
    | some (t, m) => (s.setSetup { s.setup with reach := s.setup.reach.set t m }).ok .empty

def execSetReach (l : Link) (body : List Byte) (s : State) : Host.Outcome State Fault Refusal :=
  .next (s.takeRequest l 0x40#8 body fun s => s.setReachRequest l body)

/-- SET_ANALOG (R169). -/
def State.setAnalogRequest (s : State) (l : Link) (body : List Byte) : Answer :=
  s.bySetup l <|
    match windowBody? body with
    | none => s.refuse .badValue
    | some (c, w) => (s.setSetup { s.setup with windows := s.setup.windows.set c w }).ok .empty

def execSetAnalog (l : Link) (body : List Byte) (s : State) : Host.Outcome State Fault Refusal :=
  .next (s.takeRequest l 0x41#8 body fun s => s.setAnalogRequest l body)

/-- SET_EDGE (R169): a pending change keeps the filter it began with. -/
def State.setEdgeRequest (s : State) (l : Link) (body : List Byte) : Answer :=
  s.bySetup l <|
    match filterBody? body with
    | none => s.refuse .badValue
    | some (e, f) => (s.setInput e { s.inputs[e] with filter := f }).ok .empty

def execSetEdge (l : Link) (body : List Byte) (s : State) : Host.Outcome State Fault Refusal :=
  .next (s.takeRequest l 0x42#8 body fun s => s.setEdgeRequest l body)

/-- SET_DRIVE (R169, R61). -/
def State.setDriveRequest (s : State) (l : Link) (body : List Byte) : Answer :=
  s.bySetup l <|
    match polarityBody? body with
    | none => s.refuse .badValue
    | some (d, p) => (s.setSetup { s.setup with polarity := s.setup.polarity.set d p }).ok .empty

def execSetDrive (l : Link) (body : List Byte) (s : State) : Host.Outcome State Fault Refusal :=
  .next (s.takeRequest l 0x43#8 body fun s => s.setDriveRequest l body)

/-- LOCK_SETUP (R170). -/
def State.lockSetupRequest (s : State) (l : Link) (body : List Byte) : Answer :=
  s.bySetup l <|
    if body.length ≠ 0 then s.refuse .badValue
    else (s.setSetup { s.setup with part := .run }).ok .empty

def execLockSetup (l : Link) (body : List Byte) (s : State) : Host.Outcome State Fault Refusal :=
  .next (s.takeRequest l 0x44#8 body fun s => s.lockSetupRequest l body)

end Sys2Proof.Machine
end

