-- ==== Sys2Proof/Machine/Ports.lean ====
section
/-! DEFINITION. POWER_ON_RESET, RESET_RELEASE, WINDOW_BEGIN, FRAME_REFUSED and CS_RISE_AFTER_RESET. -/

namespace Sys2Proof.Machine

/-- The part held in reset (R171): every piece of state lost, and no request taken until the release. The levels
that are sampled at the release stand as in `State.reset` until then (log entry 17). -/
def State.held (s : State) : State :=
  { State.reset with pending := s.pending, draws := s.draws, resetHeld := true }

/-- POWER_ON_RESET (R171). The commands that wait are the sender's and stay (log entry 18). -/
def execPowerOnReset (s : State) : Host.Outcome State Fault Refusal := .next s.held

/-- RESET_RELEASE (R171, R167, R141, R152). A part that is not held in reset has none to release. -/
def execResetRelease (auth : Level) (pins : Vector Level 8) (csLow : PerLink Bool) (s : State) :
    Host.Outcome State Fault Refusal :=
  .next (if s.resetHeld then
      { State.released auth pins csLow with pending := s.pending, draws := s.draws }
    else s)

/-- WINDOW_BEGIN (R153, R157): the held response, or the empty frame, becomes the outgoing frame, and no bit has been
received yet. A CS that is low already does not fall. -/
def execWindowBegin (l : Link) (s : State) : Host.Outcome State Fault Refusal :=
  .next (
    let p := s.ports.get l
    if s.resetHeld ∨ p.window ≠ .between then s
    else s.setPort l { p with window := .inWindow [], outgoing := some (p.held.getD emptyFrame), held := none })

/-- The request that the code table of section 10.7 names by a frame's code, taken with the frame's body (R155, R165). A
RENEW without a body is RENEW_ALL (R12). -/
def takeByCode (l : Link) (code : Byte) (body : List Byte) (s : State) : Host.Outcome State Fault Refusal :=
  match code.toNat with
  | 0x00 => execPoll l body s
  | 0x01 => execStatus l body s
  | 0x02 => execTrips l body s
  | 0x03 => execList l body s
  | 0x04 => execRead l body s
  | 0x05 => execLookup l body s
  | 0x06 => execTakeNotices l body s
  | 0x10 => execOpen l body s
  | 0x11 => execAmend l body s
  | 0x12 => if body = [] then execRenewAll l s else execRenew l body s
  | 0x13 => execRetire l body s
  | 0x14 => execDropAll l body s
  | 0x20 => execClearTrip l body s
  | 0x21 => execTestTrip l body s
  | 0x30 => execPin l body s
  | 0x31 => execEvict l body s
  | 0x32 => execAdmit l body s
  | 0x40 => execSetReach l body s
  | 0x41 => execSetAnalog l body s
  | 0x42 => execSetEdge l body s
  | 0x43 => execSetDrive l body s
  | 0x44 => execLockSetup l body s
  | _ => .next s

/-- The rise of CS that ends a window (R154, R155), by all the bits that the window held. Where they fail a check,
nothing is carried out, and the response carries the window's first byte, or 00h, and the failed step's result. Where
they pass, they are a request, which the port hands to the block that carries it out. -/
def riseOfCs (l : Link) (bits : List Bool) (s : State) : Host.Outcome State Fault Refusal :=
  let bytes := bytesOfBits bits
  match frameError bits with
  | some r => .next (s.holdResponse l ⟨bytes.getD 0 0#8, r, .empty⟩)
  | none => takeByCode l (bytes.getD 0 0#8) ((bytes.drop 2).take (bytes.getD 1 0#8).toNat) s

/-- FRAME_REFUSED (R154): the window's last bits are clocked in after those received, and CS rises. On a link between
windows they are the whole window's. Bits that pass every check are no refused frame, and their request is taken (log
entry 7). -/
def execFrameRefused (l : Link) (bits : List Bool) (s : State) : Host.Outcome State Fault Refusal :=
  if s.resetHeld ∨ (s.ports.get l).window = .awaitRise then .next s
  else riseOfCs l (s.received l ++ bits) s

/-- CS_RISE_AFTER_RESET (R152): the port waits for the next fall of CS. It ends no window. -/
def execCsRiseAfterReset (l : Link) (s : State) : Host.Outcome State Fault Refusal :=
  .next (
    let p := s.ports.get l
    if s.resetHeld ∨ p.window ≠ .awaitRise then s else s.setPort l { p with window := .between })

end Sys2Proof.Machine
end

