-- ==== Sys2Proof/Machine/Channels.lean ====
section
/-! DEFINITION. The drive channels' work at a period end (R60 to R74). -/

namespace Sys2Proof.Machine

/-- What a channel reads of its head at a period end (R57, R66). -/
structure HeadView where
  slot : SlotIx
  state : ClaimState
  body : DriveBody
  burstLeft : Nat
deriving DecidableEq, Repr

/-- The head as the channel reads it. -/
def State.headView (s : State) (d : Drive) : Option HeadView :=
  match s.head d with
  | none => none
  | some h =>
    match s.claim h with
    | none => none
    | some c =>
      match c.payload with
      | .drive b left => some ⟨h, c.state, b, left⟩
      | _ => none

/-- The head's burst is finished (R63). -/
def HeadView.finished (v : HeadView) : Bool := decide (v.body.burst ≠ 0) && decide (v.burstLeft = 0)

/-- The effective target (R63). -/
def effectiveTarget : Option HeadView → Nat
  | none => 0
  | some v =>
    if v.state = .retiring ∨ v.finished ∨ v.body.direction = .brake ∨ v.body.direction = .coast then 0
    else v.body.target

/-- The ramp of the present head; 0, which is no limit, without one (R64). -/
def rampOf : Option HeadView → Nat
  | none => 0
  | some v => v.body.ramp

/-- The applied duty moves toward a value by at most the ramp, 0 being no limit (R64). -/
def moveToward (value ramp duty : Nat) : Nat :=
  if ramp = 0 then value
  else if duty < value then min value (duty + ramp)
  else max value (duty - ramp)

/-- The head's burst is counted at this RUNNING period end (R69). -/
def HeadView.counts (v : HeadView) (duty : Nat) : Bool :=
  decide (v.state = .inForce) && decide (v.body.burst ≠ 0) && decide (0 < v.burstLeft) && decide (0 < duty)

/-- One counted period: burst remaining decreases by 1 (R69). -/
def Claim.countBurst (c : Claim) : Claim :=
  match c.payload with
  | .drive b left => { c with payload := .drive b (left - 1) }
  | .gate _ => c
  | .asense _ _ => c
  | .esense _ _ => c

/-- The head leaves its list for COMPLETE (R32). -/
def State.headCompletes (s : State) (d : Drive) (h : SlotIx) : State :=
  (s.completeClaim h).changeList d (some h) (s.driveList d).tail

/-- The RETIRING head leaves its list at the end of its course (R18, R30). -/
def State.headFinishes (s : State) (d : Drive) (h : SlotIx) : State :=
  (s.finish h).changeList d (some h) (s.driveList d).tail

/-- The reports of a channel whose duty has reached 0 (R68 steps 4 and 5, R74). -/
def State.reportAtZero (s : State) (d : Drive) (v : HeadView) : State :=
  if v.state = .retiring then s.headFinishes d v.slot
  else if v.finished ∧ (s.driveList d).length = 1 then s.headCompletes d v.slot
  else s

/-- A period end worked as RUNNING, after step 1 (R68 steps 2 to 6, R69). -/
def State.workRunning (s : State) (d : Drive) (v? : Option HeadView) : State :=
  let ch := s.drives.get d
  let duty := moveToward (effectiveTarget v?) (rampOf v?) ch.duty
  match v? with
  | none => s.setDrive d { ch with phase := if duty = 0 then .idle else .running, duty := duty }
  | some v =>
    let s := s.setDrive d { ch with phase := .running, duty := duty }
    if v.counts duty then
      let s := s.updClaim v.slot Claim.countBurst
      if v.burstLeft = 1 ∧ 1 < (s.driveList d).length then s.headCompletes d v.slot else s
    else if duty = 0 then s.reportAtZero d v
    else s

/-- A period end worked as WINDING_DOWN, after step 1 (R70 steps 2 and 3). -/
def State.workWindingDown (s : State) (d : Drive) (v? : Option HeadView) : State :=
  let ch := s.drives.get d
  let duty := moveToward 0 (rampOf v?) ch.duty
  let s := s.setDrive d { ch with phase := if duty = 0 then .switching else .windingDown, duty := duty }
  match v? with
  | none => s
  | some v => if duty = 0 then s.reportAtZero d v else s

/-- A channel works its phase (R66 to R72). -/
def State.workPhase (s : State) (d : Drive) : State :=
  let ch := s.drives.get d
  let v? := s.headView d
  let wanted := s.wanted d
  match ch.phase with
  | .halted => s
  | .idle =>
    if wanted ≠ ch.pattern then s.setDrive d { ch with phase := .switching }
    else if (s.head d).isSome then s.workRunning d v? else s
  | .running => if wanted ≠ ch.pattern then s.workWindingDown d v? else s.workRunning d v?
  | .windingDown => if wanted = ch.pattern then s.workRunning d v? else s.workWindingDown d v?
  | .switching => s.setDrive d { ch with phase := .dwell, pattern := wanted }
  | .dwell => s.setDrive d { ch with phase := if (s.head d).isSome then .running else .idle }

/-- The compare count of the period that begins (R60). -/
def State.formCompare (s : State) (d : Drive) : State :=
  let ch := s.drives.get d
  let period := (s.gates.get d.parent).applied.getD 0
  s.setDrive d { ch with compare := ch.duty * period / 1024 }

/-- A channel takes a period end (R66): the work of its phase, and then its compare count. -/
def State.channelPeriodEnd (s : State) (d : Drive) : State := (s.workPhase d).formCompare d

/-- A gate takes a period end at the instant of its wrap (R47, R48): the counter wraps, the staged period is applied,
and each channel does its work. -/
def State.gatePeriodEnd (s : State) (g : Gate) : State :=
  g.children.foldl State.channelPeriodEnd (s.setGate g (GateUnit.wrap (s.gates.get g)))

end Sys2Proof.Machine
end

