-- ==== Sys2Proof/Machine/Timed.lean ====
section
/-! DEFINITION. CADENCE_ADVANCE, PERIOD_END, CONVERSION_COMPLETE, EDGE_PIN_CHANGE and ACCEPTED_EDGE. An event that
cannot take place in the present state, or whose instant lies beyond the present tick, leaves it unchanged (log
entries 3, 4). -/

namespace Sys2Proof.Machine

/-- The cadence count advances (R82): the scheduler and the edge unit take their moments at the new value. The
hold expiries at that value are commands of their own, taken before it or after it (R14, log entry 5); where one has
been taken before, the count stands at the value already. -/
def State.advance (s : State) : State := s.takeCount.scheduleAdvance.edgeAdvance

def execCadenceAdvance (s : State) : Host.Outcome State Fault Refusal :=
  .next (if s.resetHeld then s else s.advance)

/-- A period end (R47), at the instant at which the gate's counter wraps. A CLOSED gate has none. -/
def execPeriodEnd (g : Gate) (s : State) : Host.Outcome State Fault Refusal :=
  .next (if s.resetHeld then s
    else if s.gateIsOpen g then s.atInstant (s.gates.get g).toWrap fun s => s.gatePeriodEnd g else s)

/-- The conversion in flight completes with a value (R96): the deliveries in ascending slot order, the
converter free, and a decision if a request waits. -/
def State.complete (s : State) (f : Conversion) (value : Nat) : State :=
  let s := f.due.foldl (fun s i => s.deliver f.channel value i) s
  State.decideIfFree { s with arbiter := { s.arbiter with inFlight := none } }

/-- CONVERSION_COMPLETE, at the time that the conversion in flight holds (R94). A free converter has no conversion to
complete. -/
def execConversionComplete (value : BitVec 12) (s : State) : Host.Outcome State Fault Refusal :=
  .next (if s.resetHeld then s
    else match s.arbiter.inFlight with
      | none => s
      | some f => s.atInstant (s.clocksIn (s.microsTo f.completesAt)) fun s => s.complete f value.toNat)

/-- A pending change that has stood for its whole filter time is accepted with its stamp (R127). -/
def State.acceptDue (s : State) (e : EdgeIn) : State :=
  match s.inputs[e].pending with
  | none => s
  | some p => if p.left s.clock.stamp = 0 then s.acceptEdge e p.stamp else s

/-- A pin moves (R127): back to the filtered level before the filter time has passed, which removes the pending
change, or away from it, which records the stamp of this instant. A change that has stood for its filter time is
accepted first, so that the pin moves away from the level it brought. With a filter of 0 µs the move is accepted at
once. -/
def State.pinChange (s : State) (e : EdgeIn) (lvl : Level) (micros : Nat) : State :=
  if s.inputs[e].pin = lvl then s
  else
    let s := (s.passToMicro micros).acceptDue e
    let x := s.inputs[e]
    if x.pending.isSome then s.setInput e { x with pending := none }
    else if x.filter = 0 then s.acceptEdge e s.clock.stamp
    else s.setInput e { x with pending := some ⟨s.clock.stamp, x.filter⟩ }

/-- EDGE_PIN_CHANGE. A pin that is already at the level does not move. -/
def execEdgePinChange (e : EdgeIn) (lvl : Level) (micros : Nat) (s : State) :
    Host.Outcome State Fault Refusal :=
  .next (if s.resetHeld then s else s.pinChange e lvl micros)

/-- ACCEPTED_EDGE (R127, R128): the pending change is accepted, one filter time after its stamp. An input
without a pending change accepts nothing. -/
def execAcceptedEdge (e : EdgeIn) (s : State) : Host.Outcome State Fault Refusal :=
  .next (if s.resetHeld then s
    else match s.inputs[e].pending with
      | none => s
      | some p => s.atInstant (s.clocksIn (p.left s.clock.stamp)) fun s => s.acceptEdge e p.stamp)

end Sys2Proof.Machine
end

