-- ==== Sys2Proof/Machine/Dispatch.lean ====
section
/-! DEFINITION. One arm per command, each a direct call of its meaning. -/

namespace Sys2Proof.Machine

/-- The effect of a command on everything but the queue. -/
def exec (i : Instr) (s : State) : Host.Outcome State Fault Refusal :=
  match i with
  | .powerOnReset => Sys2Proof.Machine.execPowerOnReset s
  | .resetRelease auth pins csLow => Sys2Proof.Machine.execResetRelease auth pins csLow s
  | .windowBegin l => Sys2Proof.Machine.execWindowBegin l s
  | .frameRefused l bits => Sys2Proof.Machine.execFrameRefused l bits s
  | .poll l body => Sys2Proof.Machine.execPoll l body s
  | .status l body => Sys2Proof.Machine.execStatus l body s
  | .trips l body => Sys2Proof.Machine.execTrips l body s
  | .list l body => Sys2Proof.Machine.execList l body s
  | .read l body => Sys2Proof.Machine.execRead l body s
  | .lookup l body => Sys2Proof.Machine.execLookup l body s
  | .takeNotices l body => Sys2Proof.Machine.execTakeNotices l body s
  | .openClaim l body => Sys2Proof.Machine.execOpen l body s
  | .amend l body => Sys2Proof.Machine.execAmend l body s
  | .renew l body => Sys2Proof.Machine.execRenew l body s
  | .renewAll l => Sys2Proof.Machine.execRenewAll l s
  | .retire l body => Sys2Proof.Machine.execRetire l body s
  | .dropAll l body => Sys2Proof.Machine.execDropAll l body s
  | .clearTrip l body => Sys2Proof.Machine.execClearTrip l body s
  | .testTrip l body => Sys2Proof.Machine.execTestTrip l body s
  | .pin l body => Sys2Proof.Machine.execPin l body s
  | .evict l body => Sys2Proof.Machine.execEvict l body s
  | .admitLink l body => Sys2Proof.Machine.execAdmit l body s
  | .setReach l body => Sys2Proof.Machine.execSetReach l body s
  | .setAnalog l body => Sys2Proof.Machine.execSetAnalog l body s
  | .setEdge l body => Sys2Proof.Machine.execSetEdge l body s
  | .setDrive l body => Sys2Proof.Machine.execSetDrive l body s
  | .lockSetup l body => Sys2Proof.Machine.execLockSetup l body s
  | .cadenceAdvance => Sys2Proof.Machine.execCadenceAdvance s
  | .holdExpiry slot => Sys2Proof.Machine.execHoldExpiry slot s
  | .periodEnd g => Sys2Proof.Machine.execPeriodEnd g s
  | .conversionComplete value => Sys2Proof.Machine.execConversionComplete value s
  | .edgePinChange e lvl micros => Sys2Proof.Machine.execEdgePinChange e lvl micros s
  | .acceptedEdge e => Sys2Proof.Machine.execAcceptedEdge e s
  | .tripTaken g => Sys2Proof.Machine.execTripTaken g s
  | .csRiseAfterReset l => Sys2Proof.Machine.execCsRiseAfterReset l s

end Sys2Proof.Machine
end

