-- ==== Sys2Proof/Safety.lean ====
section
/-! DEFINITION. The properties that statements and proofs share: when a link can bring a request, when an OPEN
passes its checks, what a claim keeps, and the invariants of the blocks. -/

namespace Sys2Proof

/-- The fields a claim carries unchanged through every event that R1 does not name beside them: all but its
state, deadline, end cause and runtime. -/
structure Claim.Same (c d : Claim) : Prop where
  owner : d.owner = c.owner
  resource : d.resource = c.resource
  tag : d.tag = c.tag
  cls : d.cls = c.cls
  hold : d.hold = c.hold
  pinned : d.pinned = c.pinned
  wants : d.wantsSample = c.wantsSample
  body : d.payload.body = c.payload.body

/-- A gate unit's own state (R39, R41, R44, R49): an OPEN gate has no hold and close pattern COAST, and its
counter stays below its period, and waits at its last count alone; a CLOSED gate has its counter at 0 and nothing
staged. -/
def GateUnit.ok (u : GateUnit) : Prop :=
  (u.isOpen = true → u.holds = [] ∧ u.close = .coast ∧ u.counter ≤ u.applied.getD 1 - 1 ∧
      (u.waited ≠ 0 → u.counter = u.applied.getD 1 - 1)) ∧
    (u.isOpen = false → u.counter = 0 ∧ u.waited = 0 ∧ u.staged = none)

/-- A drive channel under its gate (R45, R50, R60, R65): HALTED exactly under a CLOSED gate, and then at compare
count 0 under the gate's close pattern; at duty 0 in every phase but RUNNING and WINDING_DOWN. -/
def DriveChannel.ok (u : GateUnit) (ch : DriveChannel) : Prop :=
  (ch.phase = .halted ↔ u.isOpen = false) ∧
    (ch.phase = .halted → ch.compare = 0 ∧ ch.pattern = u.close.pins) ∧
    (ch.phase ≠ .running → ch.phase ≠ .windingDown → ch.duty = 0)

/-- The states of the entries of a drive channel's list (R24). -/
def ClaimState.listed (st : ClaimState) : Bool :=
  match st with
  | .standby => true
  | .inForce => true
  | .suspended => true
  | .retiring => true
  | .complete => false
  | .active => false
  | .spent => false

/-- A port is in a window (R152). -/
def Port.inWindow (p : Port) : Bool :=
  match p.window with
  | .inWindow _ => true
  | .between => false
  | .awaitRise => false

/-! ### The layouts of R165, written the other way -/

/-- A number as one byte. -/
def numByte (n : Nat) : Byte := BitVec.ofNat 8 n

/-- A two-byte number, most significant byte first (section 10.7). -/
def numBytes (n : Nat) : List Byte := [numByte (n / 256), numByte (n % 256)]

/-- The bytes of a body by the columns of R165. -/
def Body.bytes : Body → List Byte
  | .drive b => numBytes b.target ++ [b.direction.byte] ++ numBytes b.ramp ++ numBytes b.burst
  | .gate b => [b.vote.byte] ++ numBytes b.period ++ [b.close.byte]
  | .asense b =>
    [numByte b.interval, numByte b.urgency, numByte b.smoothing] ++ numBytes b.highLimit ++
      numBytes b.lowLimit ++
      [numByte b.hysteresis, numByte b.debounce, b.tripHigh.byte, b.tripLow.byte, b.pattern.byte]
  | .esense b =>
    [b.mode.byte, b.edge.byte, numByte b.interval, numByte b.stallLimit, numByte b.debounce,
      b.active.byte, b.target.byte, b.pattern.byte]

/-- A body of the kind that suits a resource, every field in the range its kind's chapter gives (R58, R40, R108,
R129). -/
def Body.inRange : Resource → Body → Prop
  | .drive d, .drive b =>
    b.target ≤ 1024 ∧ b.ramp ≤ 1024 ∧ b.burst ≤ 65535 ∧ ¬(d = .db ∧ b.direction = .reverse)
  | .gate _, .gate b => 160 ≤ b.period ∧ b.period ≤ 65535
  | .analog _, .asense b =>
    b.interval ≤ 10 ∧ 1 ≤ b.urgency ∧ b.urgency ≤ 3 ∧ b.smoothing ≤ 4 ∧ b.highLimit ≤ 4095 ∧
      b.lowLimit ≤ b.highLimit ∧ b.hysteresis ≤ 255 ∧ 1 ≤ b.debounce ∧ b.debounce ≤ 8
  | .edge _, .esense b => b.interval ≤ 10 ∧ b.stallLimit ≤ 255 ∧ 1 ≤ b.debounce ∧ b.debounce ≤ 8
  | _, _ => False

/-- The holds a resource's claims take: 1 to 255 for DRIVE, 0 to 255 for the others (R4 step 6, R10). -/
def holdInRange (r : Resource) (hold : Nat) : Prop := hold ≤ 255 ∧ (r.kind = .drive → 1 ≤ hold)

/-! ### Ranges and lives of claims -/

/-- An ASENSE claim's runtime in the ranges of R109. -/
def AnalogRun.inRange (r : AnalogRun) : Prop :=
  (∀ v, r.raw = some v → v ≤ 4095) ∧ (∀ v, r.smoothed = some v → v ≤ 4095) ∧
    r.above ≤ 7 ∧ r.below ≤ 7 ∧ r.missed ≤ 255

/-- An ESENSE claim's runtime in the ranges of R130. -/
def EdgeRun.inRange (r : EdgeRun) : Prop :=
  (∀ p, r.lastPeriod = some p → 1 ≤ p ∧ p ≤ 16777215) ∧ r.running ≤ 65535 ∧
    (∀ w, r.window = some w → w ≤ 65535) ∧ r.stallCount ≤ 255 ∧ r.candidate ≤ 7

/-- The runtime of a payload in its range; burst remaining is at most the burst it was loaded from (R58, R76). -/
def Payload.runInRange : Payload → Prop
  | .drive b left => left ≤ b.burst
  | .gate _ => True
  | .asense _ r => r.inRange
  | .esense _ r => r.inRange

/-- A claim record within the ranges of R1, R40, R58, R108, R109, R129 and R130, its kind that of its resource. -/
def Claim.inRange (c : Claim) : Prop :=
  holdInRange c.resource c.hold ∧ c.payload.body.inRange c.resource ∧ c.payload.runInRange

/-- The states that a claim on a resource may take (section 1.5, R24). -/
def Claim.stateFits (c : Claim) : Prop :=
  if c.resource.kind = .drive then c.state ≠ .active else c.state = .active ∨ c.state = .spent

/-- A claim has a deadline while its hold is nonzero, it is unpinned and it has not ended (R13), and an end cause
exactly when it has ended (R1); a pinned claim does not end (R20, R21). -/
def Claim.lifeOk (c : Claim) : Prop :=
  (c.deadline.isSome = true ↔ c.hold ≠ 0 ∧ c.pinned = false ∧ c.state.ongoing = true) ∧
    (c.endCause.isSome = true ↔ c.state.ongoing = false) ∧ (c.pinned = true → c.state.ongoing = true)

end Sys2Proof

namespace Sys2Proof.Machine

/-- A window of the link can end with a request: reset is not held (R171), and the link's CS has risen since
the release (R152). A request on a link between windows stands for its whole window (log entry 6). -/
def State.canTake (s : State) (l : Link) : Prop :=
  s.resetHeld = false ∧ (s.ports.get l).window ≠ .awaitRise

/-- The slot is the lowest-numbered FREE one (R5). -/
def State.lowestFree (s : State) (i : SlotIx) : Prop :=
  s.claim i = none ∧ ∀ j : SlotIx, j < i → s.claim j ≠ none

/-- A link's tag map has no entry for a tag (R7). -/
def State.tagFree (s : State) (l : Link) (t : BitVec 16) : Prop :=
  t = 0#16 ∨ ∀ i c, s.claim i = some c → c.owner = l → c.tag ≠ t

/-- The tag that an OPEN body carries (R165). -/
def openTag (body : List Byte) : BitVec 16 := BitVec.ofNat 16 (be16At body 2)

/-- An OPEN passes every check of R4 in RUN: the resource, the slot it takes and the values of its body. -/
structure State.OpenPasses (s : State) (l : Link) (body : List Byte) (r : Resource) (i : SlotIx)
    (f : ClaimFields) : Prop where
  run : s.setup.part = .run
  notBarred : s.barred l = false
  known : resourceOf? (natAt body 0) = some r
  reach : (s.setup.reach.get l).covers r = true
  room : s.lowestFree i
  quota : s.unpinnedCount l < (s.setup.reach.get l).quota
  tag : s.tagFree l (openTag body)
  values : openFields? r body = some f

/-- A request of R9 passes its first four checks in RUN: the handle at the front of the body names the claim,
and the claim is the link's, not pinned and not ended. -/
structure State.OwnerPasses (s : State) (l : Link) (body : List Byte) (i : SlotIx) (c : Claim) : Prop where
  run : s.setup.part = .run
  named : s.handleAt body 0 = some i
  claim : s.claim i = some c
  owner : c.owner = l
  unpinned : c.pinned = false
  ongoing : c.state ≠ .retiring ∧ c.state ≠ .spent

/-- The hold deadline of a hold set at the present count (R5, R13). -/
def State.deadlineOf (s : State) (hold : Nat) : Option Count32 :=
  if hold = 0 then none else some (s.clock.cadence + BitVec.ofNat 32 (80 * hold))

/-- Every claim after is a claim of its slot before, with the fields of R1 unchanged. -/
def State.Descends (s t : State) : Prop :=
  ∀ i d, t.claim i = some d → ∃ c, s.claim i = some c ∧ c.Same d

/-- A claim that a request does not end stands after it: ongoing, with the fields of R1, its end cause and its
deadline unchanged; as it was, if it is SPENT; and if it is RETIRING, as it was, or at the end of its course where the
gate over its channel has closed (R45, R18, R3). -/
structure State.StandsIn (s t : State) (i : SlotIx) (c : Claim) : Prop where
  ongoing : c.state.ongoing = true → ∃ d, t.claim i = some d ∧ c.Same d ∧ d.state.ongoing = true ∧
    d.endCause = c.endCause ∧ d.deadline = c.deadline
  spent : c.state = .spent → t.claim i = some c
  retiring : c.state = .retiring → t.claim i = some c ∨
    (∃ d : Drive, c.resource = .drive d ∧ s.gateIsOpen d.parent = true ∧ t.gateIsOpen d.parent = false) ∧
      t.claim i = if t.barred c.owner = true then none else some { c with state := .spent, deadline := none }

/-- The fields that OPEN and AMEND carry for a resource, each in its range. -/
def ClaimFields.inRange (r : Resource) (f : ClaimFields) : Prop := holdInRange r f.hold ∧ f.body.inRange r

/-- The bytes of an OPEN body (R165). -/
def openBytes (r : Resource) (tag : BitVec 16) (f : ClaimFields) : List Byte :=
  [r.byte, f.body.kind.byte] ++ numBytes tag.toNat ++ [numByte f.hold, numByte f.wantsSample.toNat] ++ f.body.bytes

/-- The bytes of an AMEND body (R165). -/
def amendBytes (slot gen : Byte) (f : ClaimFields) : List Byte :=
  [slot, gen, f.body.kind.byte, numByte f.hold, numByte f.wantsSample.toNat] ++ f.body.bytes

/-- The bytes of a SET_REACH body (R168). -/
def reachBytes (l : Link) (m : Reach) : List Byte :=
  [linkByte l, numByte m.drive.toNat, numByte m.gate.toNat] ++ numBytes m.analog.toNat ++
    [numByte m.edge.toNat, numByte m.cls.val, numByte m.quota]

/-- The byte of a pin's polarity (R169). -/
def polarityByte : Polarity → Byte
  | .activeHigh => 0x00#8
  | .activeLow => 0x01#8

/-- A notice kind is pending for a slot in a link's set. -/
def State.noticed (s : State) (l : Link) (k : NoticeKind) (i : SlotIx) : Prop :=
  ∃ e ∈ s.notices.get l, e.slot = i ∧ e.has k = true

/-- Every link's notice entries stand as they were, but for those of slots with a property. -/
def State.NoticesKept (s t : State) (changed : SlotIx → Prop) : Prop :=
  ∀ l (e : NoticeEntry), ¬changed e.slot → (e ∈ t.notices.get l ↔ e ∈ s.notices.get l)

/-- Every slot keeps its generation, and stays FREE or occupied. -/
def State.SlotsKept (s t : State) : Prop :=
  ∀ i : SlotIx, t.slots[i].gen = s.slots[i].gen ∧ (t.claim i).isSome = (s.claim i).isSome

/-! ### Gates and channels -/

/-- Every gate unit and every drive channel is as the rules of chapters 3 and 4 leave it. -/
def StopInv (s : State) : Prop :=
  (∀ g, (s.gates.get g).ok) ∧ ∀ d : Drive, (s.drives.get d).ok (s.gates.get d.parent)

/-! ### The Claim Table -/

/-- The lists and the notice sets agree with the slots, for given lists: an entry of a drive channel's list is a
claim on it in a state of R24, an entry of a gate's list is an ACTIVE claim on it, no claim stands twice
in a list, a notice entry with a final notice is for a SPENT claim of its link (R18), the entries of a set stand in
ascending slot order, one per slot (R19, R162), and a barred link's set is empty (R161). -/
structure State.TableOk (s : State) (drives : Drive → List SlotIx) (gates : Gate → List SlotIx) : Prop where
  driveEntry : ∀ d i, i ∈ drives d → ∃ c, s.claim i = some c ∧ c.resource = .drive d ∧ c.state.listed = true
  driveNodup : ∀ d, (drives d).Nodup
  gateEntry : ∀ g i, i ∈ gates g → ∃ c, s.claim i = some c ∧ c.resource = .gate g ∧ c.state = .active
  gateNodup : ∀ g, (gates g).Nodup
  final : ∀ l e, e ∈ s.notices.get l → e.final = true →
    ∃ c, s.claim e.slot = some c ∧ c.owner = l ∧ c.state = .spent
  sorted : ∀ l, (s.notices.get l).Pairwise fun x y => x.slot < y.slot
  barredEmpty : ∀ l, s.barred l = true → s.notices.get l = []

/-- The Claim Table's lists and notice sets agree with its slots. -/
def TableInv (s : State) : Prop := s.TableOk s.driveList s.gateList

/-- In CONFIG every slot is FREE (R166), and no link owns more occupied, unpinned slots than its quota (R6). -/
def QuotaInv (s : State) : Prop :=
  (s.setup.part = .config → ∀ i, s.claim i = none) ∧
    ∀ l, s.unpinnedCount l ≤ (s.setup.reach.get l).quota

/-- Within one link's occupied slots no two claims share a nonzero tag (R7). -/
def TagInv (s : State) : Prop :=
  ∀ i j c d, s.claim i = some c → s.claim j = some d → c.owner = d.owner → c.tag = d.tag → c.tag ≠ 0#16 → i = j

/-- In CONFIG (R166, R24, R55, R92, R161): every slot is FREE, every list, notice set, hold list and
waiting-request set is empty, no trip waits, the converter is free, both gates are CLOSED. -/
def ConfigInv (s : State) : Prop :=
  s.setup.part = .config →
    (∀ i, s.claim i = none) ∧ (∀ d, s.driveList d = []) ∧ (∀ g, s.gateList g = []) ∧
      (∀ l, s.notices.get l = []) ∧ (∀ g, (s.gates.get g).isOpen = false ∧ (s.gates.get g).holds = []) ∧
      (∀ c : AnalogCh, s.arbiter.waiting[c] = none) ∧ s.arbiter.inFlight = none ∧ ∀ g, s.trips.get g = []

/-! ### The link ports, the converter's arbiter and the clocks -/

/-- A frame goes out in a window alone, and in it the port holds no response (R152, R153). -/
def PortInv (s : State) : Prop :=
  ∀ l, ((s.ports.get l).inWindow = true ↔ (s.ports.get l).outgoing ≠ none) ∧
    ((s.ports.get l).outgoing ≠ none → (s.ports.get l).held = none)

/-- While no request waits every mark is clear (R105). -/
def MarksInv (s : State) : Prop :=
  (∀ c : AnalogCh, s.arbiter.waiting[c] = none) →
    (∀ c : AnalogCh, s.arbiter.marks[c] = false) ∧ s.arbiter.markC2 = false ∧ s.arbiter.markC3 = false

/-- The stamp 125 × c falls at the instant the cadence count reaches c, and the gate clocks since then are
within the tick, the instant of the next advance included (R82, R93, R126). -/
def ClockInv (s : State) : Prop :=
  s.clock.divider ≤ 2000 ∧
    s.clock.stamp = 125#32 * s.clock.cadence + BitVec.ofNat 32 (s.clock.divider / 16)

/-- The authority link is Link A or Link B, and is not barred (R167). -/
def AuthorityInv (s : State) : Prop := s.setup.authority ≠ .c ∧ s.barred s.setup.authority = false

/-- The order and the states of the contention lists: highest class first (R25); every claim in a state of R24
is in its list; and the states that R26 and section 1.5 give by place, gate and kind. -/
structure ListInv (s : State) : Prop where
  kinds : ∀ i c, s.claim i = some c → c.stateFits
  driveOrder : ∀ d, (s.driveList d).Pairwise fun i j => s.classOf j ≤ s.classOf i
  gateOrder : ∀ g, (s.gateList g).Pairwise fun i j => s.classOf j ≤ s.classOf i
  driveListed : ∀ i c d, s.claim i = some c → c.resource = .drive d → c.state.listed = true → i ∈ s.driveList d
  gateListed : ∀ i c g, s.claim i = some c → c.resource = .gate g → c.state = .active → i ∈ s.gateList g
  waiting : ∀ d h t, s.driveList d = h :: t → ∀ j ∈ t, ∀ c, s.claim j = some c → c.state = .standby
  headOpen : ∀ d h t c, s.driveList d = h :: t → s.claim h = some c → s.gateIsOpen d.parent = true →
    c.state = .inForce ∨ (c.state = .retiring ∧ t = [])
  headClosed : ∀ d h t c, s.driveList d = h :: t → s.claim h = some c → s.gateIsOpen d.parent = false →
    c.state = .suspended

/-- Each gate follows its votes and holds: OPEN exactly when the condition of R41 holds, its close pattern by
R49, a period end away from its supplier's period at most (R48), one hold per source at most (R51). -/
structure GateInv (s : State) : Prop where
  opens : ∀ g, s.gateIsOpen g = s.openCondition g
  close : ∀ g, (s.gates.get g).close = s.closeFor g
  period : ∀ g, s.gateIsOpen g = true →
    (s.gates.get g).staged.or (s.gates.get g).applied = (s.supplier g).map Prod.snd
  holds : ∀ g, ((s.gates.get g).holds.map TripHold.source).Nodup

/-- Claim records, periods, duties, compare counts and setup values, each within the range its table gives. -/
structure RangeInv (s : State) : Prop where
  claims : ∀ i c, s.claim i = some c → c.inRange
  periods : ∀ g p, (s.gates.get g).applied = some p ∨ (s.gates.get g).staged = some p → 160 ≤ p ∧ p ≤ 65535
  duties : ∀ d, (s.drives.get d).duty ≤ 1024 ∧ (s.drives.get d).compare ≤ 65535
  quotas : ∀ l, (s.setup.reach.get l).quota ≤ 48
  windows : ∀ c : AnalogCh, 1 ≤ s.setup.windows[c] ∧ s.setup.windows[c] ≤ 32
  filters : ∀ e : EdgeIn, s.inputs[e].filter ≤ 15 ∧ ∀ p, s.inputs[e].pending = some p → p.filter ≤ 15

/-- A notice entry is for a slot that its link owns (R19), and a SPENT claim's final notice is pending (R18). -/
structure NoticeInv (s : State) : Prop where
  owned : ∀ l e, e ∈ s.notices.get l → ∃ c, s.claim e.slot = some c ∧ c.owner = l
  spent : ∀ i c, s.claim i = some c → c.state = .spent → ∃ e ∈ s.notices.get c.owner, e.slot = i ∧ e.final = true

/-- Deadlines and end causes are as R13 and R1 give them. -/
def LifeInv (s : State) : Prop := ∀ i c, s.claim i = some c → c.lifeOk

/-- The requests for conversions (R86, R89, R104): each due list is in ascending slot order and names members of its
channel, a waiting request has at least one, and a free converter leaves no request waiting. -/
structure ArbiterInv (s : State) : Prop where
  waiting : ∀ (c : AnalogCh) r, s.arbiter.waiting[c] = some r →
    r.due ≠ [] ∧ r.due.Pairwise (· < ·) ∧ ∀ i ∈ r.due, i ∈ s.analogMembers c
  flight : ∀ f, s.arbiter.inFlight = some f →
    f.due.Pairwise (· < ·) ∧ ∀ i ∈ f.due, i ∈ s.analogMembers f.channel
  free : s.arbiter.inFlight = none → ∀ c : AnalogCh, s.arbiter.waiting[c] = none

end Sys2Proof.Machine
end

