-- ==== Sys2Proof/Certificates/Slice0/Obligations.lean ====
section
/-! DEFINITION. The statements for the provers, from the numbered rules of spec/. A statement of what a request does
holds for a link that can bring one (`State.canTake`): reset is not held and its CS has risen since the release. -/

open Sys2Proof Sys2Proof.Machine

/-! ### The queue, reset and time -/

/-- A step of a part with a command waiting is that command carried out on the state with the queue's rest. -/
def Obligations.StepTakesFrontCommand : Prop :=
  ∀ (c : Instr) (rest : List Instr) (s : State), s.pending = c :: rest →
    step s = exec c { s with pending := rest }

/-- Every command answers a next state, and leaves the commands behind it waiting as they were.
The model's choice for an empty queue (log entries 2 and 22): one gate clock passes. The stamp counter follows the
divider (R126), and an OPEN gate's counter counts, or stands at its last count where its wrap falls due. Time stands at
the instant of an event of time until its command is taken: the end of a cadence tick, moments of the count that wait, a
gate's wrap, a completion, the end of a filter time. While reset is held nothing happens. -/
def Obligations.EveryStepAnswersNext : Prop :=
  (∀ (c : Instr) (s : State), ∃ t, exec c s = .next t ∧ t.pending = s.pending) ∧
  (∀ s : State, s.pending = [] →
      (s.resetHeld = true → step s = .next s) ∧
      (s.resetHeld = false → StopInv s → ClockInv s →
        let due := s.clock.divider = 2000 ∨ s.clock.momentsWait = true ∨
          (∃ g, (s.gates.get g).isOpen = true ∧
            (s.gates.get g).applied.getD 1 ≤ (s.gates.get g).counter + (s.gates.get g).waited) ∨
          (∃ f, s.arbiter.inFlight = some f ∧
            (f.completesAt = s.clock.stamp ∨ 2 ^ 31 ≤ (f.completesAt - s.clock.stamp).toNat)) ∨
          ∃ (e : EdgeIn) (p : PendingChange), s.inputs[e].pending = some p ∧
            p.filter ≤ (s.clock.stamp - p.stamp).toNat
        (due → step s = .next s) ∧
        (¬due → ∃ t, step s = .next t ∧
          t = { s with clock := t.clock, gates := t.gates } ∧
          t.clock = ⟨s.clock.divider + 1, s.clock.cadence,
            125#32 * s.clock.cadence + BitVec.ofNat 32 ((s.clock.divider + 1) / 16), false⟩ ∧
          ∀ g, t.gates.get g =
            if (s.gates.get g).isOpen = false then s.gates.get g
            else if (s.gates.get g).counter < (s.gates.get g).applied.getD 1 - 1 then
              { s.gates.get g with counter := (s.gates.get g).counter + 1 }
            else { s.gates.get g with waited := 1 })))

/-- Power-on reset (R171): while it is held every drive pin is low, every ALERT released, MISO not driven, the bits
that a window has received are discarded (R152), and no request is taken; the release leaves the setup store's values,
samples AUTH, and starts both counts from 0. The model's choices: an event while reset is held, and a release when it
is not held, change nothing (log entry 3); the commands that wait stay through a reset (log entry 18). -/
def Obligations.ResetIsHeldAndReleased : Prop :=
  (∀ s : State, ∃ t, exec .powerOnReset s = .next t ∧ t.resetHeld = true ∧ t.pending = s.pending ∧
    (∀ d, t.drivePins d = (.low, .low)) ∧
    ∀ l, t.alertLow l = false ∧ t.received l = [] ∧ ∀ n, t.misoByte l n = none) ∧
  (∀ (c : Instr) (s : State), s.resetHeld = true → c ≠ .powerOnReset →
    (∀ auth pins csLow, c ≠ .resetRelease auth pins csLow) → exec c s = .next s) ∧
  (∀ (auth : Level) (pins : Vector Level 8) (csLow : PerLink Bool) (s : State), s.resetHeld = true →
    ∃ t, exec (.resetRelease auth pins csLow) s = .next t ∧ t.resetHeld = false ∧ t.pending = s.pending ∧
      t.setup.part = .config ∧
      t.setup.authority = (match auth with | .low => .a | .high => .b) ∧
      (∀ l, t.setup.reach.get l = ⟨0#3, 0#2, 0#12, 0#8, 0, 0⟩) ∧
      (∀ c : AnalogCh, t.setup.windows[c] = 4) ∧
      (∀ e : EdgeIn, t.inputs[e].filter = 2) ∧
      (∀ d, t.setup.polarity.get d = ⟨.activeHigh, .activeHigh⟩) ∧
      t.clock = ⟨0, 0#32, 0#32, false⟩) ∧
  ∀ auth pins csLow (s : State), s.resetHeld = false → exec (.resetRelease auth pins csLow) s = .next s

/-- The release of reset leaves every block empty (R23, R55, R81, R92, R107, R141, R152), each input at the level
of its pin, and a port whose CS is low waiting for CS to rise.
The state after reset is a release with the levels of log entry 1 (the model's choice), and every release
meets the invariants of the other statements. -/
def Obligations.ReleaseEmptiesEveryBlockAndMeetsInvariants : Prop :=
  (∀ (auth : Level) (pins : Vector Level 8) (csLow : PerLink Bool) (s : State), s.resetHeld = true →
      ∃ t, exec (.resetRelease auth pins csLow) s = .next t ∧
        (∀ i, t.claim i = none ∧ (t.handle i).gen = 0) ∧
        (∀ d, t.driveList d = []) ∧ (∀ g, t.gateList g = []) ∧ (∀ l, t.notices.get l = []) ∧
        (∀ g, t.gates.get g = ⟨false, 0, 0, none, none, .coast, []⟩ ∧ t.trips.get g = []) ∧
        (∀ d, t.drives.get d = ⟨.halted, 0, .coast, 0⟩) ∧
        (∀ c : AnalogCh, t.arbiter.waiting[c] = none ∧ t.arbiter.marks[c] = false) ∧
        t.arbiter.markC2 = false ∧ t.arbiter.markC3 = false ∧ t.arbiter.inFlight = none ∧
        (∀ e : EdgeIn, t.inputs[e].level = pins[e] ∧ t.inputs[e].pending = none ∧ t.sensitivity e = none) ∧
        ∀ l, t.ports.get l =
          ⟨if csLow.get l = true then .awaitRise else .between, none, none, false⟩) ∧
  (State.reset = State.released .low (Vector.replicate 8 .low) ⟨false, false, false⟩ ∧
    ∀ auth pins csLow, let s := State.released auth pins csLow
      StopInv s ∧ TableInv s ∧ ListInv s ∧ QuotaInv s ∧ TagInv s ∧ ConfigInv s ∧ MarksInv s ∧ ArbiterInv s ∧
        ClockInv s ∧ AuthorityInv s ∧ GateInv s ∧ RangeInv s ∧ LifeInv s ∧ NoticeInv s ∧ PortInv s)

/-! ### Windows and frames -/

/-- The fall of CS (R153, R157): the held response, or the empty frame, becomes the outgoing frame that MISO shows,
the port holds none, and no bit has been received. MISO shows the frame's bits, the most significant of each byte
first, one further after each bit received (R153). A port that waits for CS to rise after reset takes no fall, no
request and no refused frame; its CS's rise makes it wait for the next fall (R152), and at a port that does not wait
for one such a rise changes nothing (the model's choice, log entry 3). A frame goes out in a window alone, and in it
no response is held (R152), after every step; between windows MISO is not driven (R153). The bytes of a response frame
(R157, section 10.7): the empty frame is 00h 01h 00h 15h, a response without a body is its code, its result, length 0
and the check, a notice entry is a handle and two bytes of kinds, a report of the part state holds its encoded byte,
and each report of claims, holds and resources the bytes of its handles, links, resources and encoded fields, at
places the spec does not give (log entry 9), and no frame is longer than 31 bytes. -/
def Obligations.WindowsOfferHeldResponses : Prop :=
  (∀ (l : Link) (s : State), s.resetHeld = false → (s.ports.get l).window = .between →
      let r := (s.ports.get l).held.getD emptyFrame
      let t := s.setPort l ⟨.inWindow [], some r, none, (s.ports.get l).barred⟩
      exec (.windowBegin l) s = .next t ∧ ∀ n, t.misoByte l n = some ((responseBytes r).getD n 0x00#8)) ∧
  (∀ (l : Link) (s : State) (received : List Bool) (r : Response), s.resetHeld = false →
      (s.ports.get l).window = .inWindow received → (s.ports.get l).outgoing = some r →
      s.misoBit l = some (((responseBytes r).flatMap bitsOfByte).getD received.length false)) ∧
  (∀ (l : Link) (s : State), s.resetHeld = false → (s.ports.get l).window = .awaitRise →
      exec (.csRiseAfterReset l) s = .next (s.setPort l { s.ports.get l with window := .between })) ∧
  (∀ (l : Link) (s : State), s.resetHeld = false → (s.ports.get l).window ≠ .awaitRise →
      exec (.csRiseAfterReset l) s = .next s) ∧
  (∀ (l : Link) (s : State), s.resetHeld = false → (s.ports.get l).window = .awaitRise →
      ∀ (body : List Byte) (bits : List Bool), ∀ c ∈ [Instr.windowBegin l, .frameRefused l bits, .poll l body,
          .status l body, .trips l body, .list l body, .read l body, .lookup l body, .takeNotices l body,
          .openClaim l body, .amend l body, .renew l body, .renewAll l, .retire l body, .dropAll l body,
          .clearTrip l body, .testTrip l body, .pin l body, .evict l body, .admitLink l body, .setReach l body,
          .setAnalog l body, .setEdge l body, .setDrive l body, .lockSetup l body],
        exec c s = .next s) ∧
  ((∀ s t : State, PortInv s → step s = .next t → PortInv t) ∧
    ∀ (s : State) (l : Link) (n : Nat), PortInv s → (s.ports.get l).inWindow = false → s.misoByte l n = none) ∧
  (responseBytes emptyFrame = [0x00#8, 0x01#8, 0x00#8, 0x15#8] ∧
    (∀ (code : Byte) (r : Result), responseBytes ⟨code, r, .empty⟩ =
      [code, resultByte r, 0x00#8, crc8 [code, resultByte r, 0x00#8]]) ∧
    (∀ (code : Byte) (left : Nat) (h : Handle) (kinds : BitVec 16), left ≤ 48 →
      (responseBytes ⟨code, .ok, .notices left [(h, kinds)]⟩).take 8 =
        [code, 0x00#8, 0x05#8, BitVec.ofNat 8 left, BitVec.ofNat 8 h.slot.val, BitVec.ofNat 8 h.gen.val,
          kinds.extractLsb' 8 8, kinds.extractLsb' 0 8]) ∧
    ((∀ part n b f, partByte part ∈ replyBytes (.poll part n b f)) ∧
      (∀ count part l c m2 m3 f ls, partByte part ∈ replyBytes (.status count (.part part l c m2 m3 f ls))) ∧
      partByte .config = 0x00#8 ∧ partByte .run = 0x01#8) ∧
    (let handle := fun (h : Handle) => [BitVec.ofNat 8 h.slot.val, BitVec.ofNat 8 h.gen.val]
      let shows := fun (b : ReplyBody) (pieces : List (List Byte)) => ∀ p ∈ pieces, p <:+: replyBytes b
      (∀ h st, shows (.claim h st) [handle h, [stateByte st]] ∧ (replyBytes (.claim h st)).length = 3) ∧
      (∀ n es, ∀ e ∈ es.take 3,
        shows (.list n es) [handle e.handle, [linkByte e.owner], [stateByte e.state]] ∧
          ∀ v, e.vote = some v → shows (.list n es) [[v.byte]]) ∧
      (∀ n hs, ∀ h ∈ hs.take 6,
        shows (.trips n hs) [[h.source.resource.byte], [h.pattern.byte], [linkByte h.owner]]) ∧
      (∀ r : CommonReport, shows (.common r) [handle r.handle, [linkByte r.owner], [r.kind.byte], [r.resource.byte],
        [stateByte r.state], [if r.wantsSample = true then 0x01#8 else 0x00#8]]) ∧
      (∀ b left, shows (.body (.drive b left)) [[b.direction.byte]]) ∧
      (∀ b, shows (.body (.gate b)) [[b.vote.byte], [b.close.byte]]) ∧
      (∀ b, shows (.body (.asense b)) [[b.tripHigh.byte], [b.tripLow.byte], [b.pattern.byte]]) ∧
      (∀ b, shows (.body (.esense b)) [[b.mode.byte], [b.edge.byte], [b.active.byte], [b.target.byte],
        [b.pattern.byte]]) ∧
      (∀ count o a st close sup v w n, shows (.status count (.gate o a st close sup v w n)) [[close.byte]] ∧
        ∀ h, sup = some h → shows (.status count (.gate o a st close sup v w n)) [handle h]) ∧
      (∀ count ph du pa co h n se, shows (.status count (.drive ph du pa co (some h) n se)) [handle h]) ∧
      (∀ count part l conv m2 m3 f ls, shows (.status count (.part part l conv m2 m3 f ls)) [[linkByte l]] ∧
        ∀ c m, conv = some (c, m) →
          shows (.status count (.part part l conv m2 m3 f ls)) [[(Resource.analog c).byte]])) ∧
    (∀ r : Response, (∀ left es, r.body = .notices left es → es.length ≤ 6) → (responseBytes r).length ≤ 31) ∧
    ∀ b : List Byte, crc8 (b ++ [crc8 b]) = 0x00#8)

/-- The frame checks of R154, in their order, on the bits that a window has received by the rise of CS, whole bytes
and some bits after the last one: the first that fails gives the result, and the response carries the first byte, or
00h. Nothing outside the port changes. Bits that pass every check are taken as the request that the code table names,
with its body (R155, R165): the command of that request (the model's reading, log entry 7). The window's last bits
come with the command, after those received (the model's choice, log entry 8). A frame built of a code of the table, a
body and fill passes. -/
def Obligations.FrameChecksInOrder : Prop :=
  ∀ (bytes : List Byte) (rest : List Bool), rest.length < 8 →
    let bits := bytes.flatMap bitsOfByte ++ rest
    let len := (bytes.getD 1 0x00#8).toNat
    let fits := rest = [] ∧ 3 ≤ bytes.length ∧ bytes.length ≤ 31 ∧ len ≤ 28 ∧ 3 + len ≤ bytes.length
    let checked := bytes.getD (2 + len) 0x00#8 = crc8 (bytes.take (2 + len))
    let known := bytes.getD 0 0x00#8 ∈ requestCodes
    (¬fits → frameError bits = some .badFrame) ∧
    (fits → ¬checked → frameError bits = some .badCheck) ∧
    (fits → checked → ¬known → frameError bits = some .badRequest) ∧
    (fits → checked → known → frameError bits = none) ∧
    (∀ (l : Link) (s : State) (more : List Bool), s.canTake l → s.received l ++ more = bits →
      (∀ r, frameError bits = some r → exec (.frameRefused l more) s = .next
        (s.setPort l ⟨.between, none, some ⟨bytes.getD 0 0x00#8, r, .empty⟩, (s.ports.get l).barred⟩)) ∧
      (frameError bits = none →
        let body := (bytes.drop 2).take len
        let request : Option Instr :=
          match (bytes.getD 0 0x00#8).toNat with
          | 0x00 => some (.poll l body)
          | 0x01 => some (.status l body)
          | 0x02 => some (.trips l body)
          | 0x03 => some (.list l body)
          | 0x04 => some (.read l body)
          | 0x05 => some (.lookup l body)
          | 0x06 => some (.takeNotices l body)
          | 0x10 => some (.openClaim l body)
          | 0x11 => some (.amend l body)
          | 0x12 => some (if body = [] then .renewAll l else .renew l body)
          | 0x13 => some (.retire l body)
          | 0x14 => some (.dropAll l body)
          | 0x20 => some (.clearTrip l body)
          | 0x21 => some (.testTrip l body)
          | 0x30 => some (.pin l body)
          | 0x31 => some (.evict l body)
          | 0x32 => some (.admitLink l body)
          | 0x40 => some (.setReach l body)
          | 0x41 => some (.setAnalog l body)
          | 0x42 => some (.setEdge l body)
          | 0x43 => some (.setDrive l body)
          | 0x44 => some (.lockSetup l body)
          | _ => none
        ∃ c, request = some c ∧ exec (.frameRefused l more) s = exec c s)) ∧
    ∀ code body fill, code ∈ requestCodes → body.length + fill.length ≤ 28 →
      frameError ((requestFrame code body fill).flatMap bitsOfByte) = none

/-! ### Reports -/

/-- POLL (R160): four items, whatever its body, for any link, in CONFIG and in RUN; nothing but the held response
changes. -/
def Obligations.PollReportsFourItems : Prop :=
  ∀ (l : Link) (body : List Byte) (s : State), s.canTake l → body.length ≤ 28 →
    exec (.poll l body) s = .next (s.setPort l ⟨.between, none,
      some ⟨0x00#8, .ok, .poll s.setup.part (s.notices.get l).length (s.ports.get l).barred
        ((List.finRange 48).countP fun i => (s.claim i).isNone)⟩, (s.ports.get l).barred⟩)

/-- STATUS (R163 with R54, R80, R91, R106, R128): the cadence count and the items of the subject; any other subject,
or a body that is not one byte, is refused. The setup values among the items, in CONFIG and in RUN, are the model's
reading of R163's last sentence (log entry 15). -/
def Obligations.StatusReportsItsSubject : Prop :=
  ∀ (l : Link) (s : State), s.canTake l →
    let answer := fun (x : StatusItems) =>
      (Host.Outcome.next (s.holdResponse l ⟨0x01#8, .ok, .status s.clock.cadence x⟩) :
        Host.Outcome State Fault Refusal)
    (∀ g, exec (.status l [(Resource.gate g).byte]) s = answer
      (.gate (s.gates.get g).isOpen (s.gates.get g).applied (s.gates.get g).staged (s.gates.get g).close
        ((s.supplier g).map fun p => s.handle p.1)
        ((s.gateBodies g).countP fun b => decide (b.vote = .votesOpen))
        ((s.gateBodies g).countP fun b => decide (b.vote = .votesClosed)) (s.gates.get g).holds.length)) ∧
    (∀ d, exec (.status l [(Resource.drive d).byte]) s = answer
      (.drive (s.drives.get d).phase (s.drives.get d).duty (s.drives.get d).pattern (s.drives.get d).compare
        ((s.driveList d).head?.map s.handle) (s.driveList d).length
        (s.setup.polarity.get d))) ∧
    (∀ c : AnalogCh, exec (.status l [(Resource.analog c).byte]) s = answer
      (.analog (s.dueInterval c) (s.members (.analog c)).length
        (s.arbiter.waiting[c].map fun r => (r.moment, r.due.length))
        (s.arbiter.inFlight.any fun f => decide (f.channel = c)) (s.level c) s.arbiter.marks[c]
        s.setup.windows[c])) ∧
    (∀ e : EdgeIn, exec (.status l [(Resource.edge e).byte]) s = answer
      (.edge s.inputs[e].level s.inputs[e].pending.isSome (s.sensitivity e) (s.members (.edge e)).length
        s.inputs[e].filter)) ∧
    (exec (.status l [0xFF#8]) s = answer
      (.part s.setup.part s.setup.authority (s.arbiter.inFlight.map fun f => (f.channel, f.moment))
        s.arbiter.markC2 s.arbiter.markC3 ((List.finRange 48).countP fun i => (s.claim i).isNone)
        ⟨⟨s.barred .a, (s.notices.get .a).length, s.unpinnedCount .a⟩,
          ⟨s.barred .b, (s.notices.get .b).length, s.unpinnedCount .b⟩,
          ⟨s.barred .c, (s.notices.get .c).length, s.unpinnedCount .c⟩⟩)) ∧
    ∀ body : List Byte, body.length ≤ 28 →
      (body.length ≠ 1 ∨ (natAt body 0 ≠ 0xFF ∧ resourceOf? (natAt body 0) = none)) →
      exec (.status l body) s = .next (s.holdResponse l ⟨0x01#8, .badValue, .empty⟩)

/-- TRIPS (R164): the number of holds and up to six of them from a start index, in the list's order. -/
def Obligations.TripsReportsHolds : Prop :=
  ∀ (l : Link) (s : State), s.canTake l →
    (∀ g start, start ≤ 19 →
      exec (.trips l [(Resource.gate g).byte, numByte start]) s =
        .next (s.holdResponse l ⟨0x02#8, .ok,
          .trips (s.gates.get g).holds.length (((s.gates.get g).holds.drop start).take 6)⟩)) ∧
    ∀ body : List Byte, body.length ≤ 28 →
      (body.length ≠ 2 ∨ gateOf? (natAt body 0) = none ∨ 19 < natAt body 1) →
      exec (.trips l body) s = .next (s.holdResponse l ⟨0x02#8, .badValue, .empty⟩)

/-- LIST (R38): NOT_READY in CONFIG; in RUN, for any link, the number of claims on the resource and up to three
entries from the start index, in list order or, for a sense resource, in ascending slot order; COMPLETE claims are
left out; nothing but the held response changes. -/
def Obligations.ListReportsClaims : Prop :=
  ∀ (l : Link) (s : State), s.canTake l →
    (s.setup.part = .config → ∀ body : List Byte, body.length ≤ 28 →
      exec (.list l body) s = .next (s.holdResponse l ⟨0x03#8, .notReady, .empty⟩)) ∧
    (s.setup.part = .run →
      (∀ body : List Byte, body.length ≤ 28 →
        (resourceOf? (natAt body 0) = none ∨ body.length ≠ 2 ∨ 47 < natAt body 1) →
        exec (.list l body) s = .next (s.holdResponse l ⟨0x03#8, .badValue, .empty⟩)) ∧
      (∀ r start, start ≤ 47 → TableInv s →
        ∃ es, exec (.list l [r.byte, numByte start]) s =
            .next (s.holdResponse l ⟨0x03#8, .ok, .list (s.claimsOn r).length es⟩) ∧
          es.length ≤ 3 ∧
          ∀ n, n < 3 → es[n]? = ((s.claimsOn r)[start + n]?).bind fun i => (s.claim i).map fun c =>
            ⟨start + n, s.handle i, c.owner, c.cls, c.state, c.gateBody?.map GateBody.vote⟩)) ∧
    (∀ d, s.claimsOn (.drive d) = s.driveList d) ∧ (∀ g, s.claimsOn (.gate g) = s.gateList g) ∧
    (∀ r : Resource, r.kind = .asense ∨ r.kind = .esense →
      (s.claimsOn r).Pairwise (· < ·) ∧
      ∀ i, i ∈ s.claimsOn r ↔ ∃ c, s.claim i = some c ∧ c.resource = r ∧ c.state = .active) ∧
    (TableInv s → ∀ d i c, i ∈ s.claimsOn (.drive d) → s.claim i = some c → c.state ≠ .complete)

/-- READ (R22, R37, R80, R54, R117, R138): NOT_READY in CONFIG, STALE, and BAD_VALUE for a part above 2; the parts of
the report; and part 2 read by the owner, and by nobody else, clears the fresh flag with the missed count or
the overwrite flag.
What READ says of a claim's place and runtime (R37, R54, R80, R117, R138), by its kind and state. -/
def Obligations.ReadReportsPartsAndPlace : Prop :=
  (∀ (l : Link) (body : List Byte) (s : State), s.canTake l → body.length ≤ 28 →
      let answer := fun (t : State) (r : Result) (b : ReplyBody) =>
        (Host.Outcome.next (t.holdResponse l ⟨0x04#8, r, b⟩) : Host.Outcome State Fault Refusal)
      (s.setup.part = .config → exec (.read l body) s = answer s .notReady .empty) ∧
      (s.setup.part = .run → s.handleAt body 0 = none → exec (.read l body) s = answer s .stale .empty) ∧
      ∀ i c, s.setup.part = .run → s.handleAt body 0 = some i → s.claim i = some c →
        ((body.length ≠ 3 ∨ 2 < natAt body 2) → exec (.read l body) s = answer s .badValue .empty) ∧
        (body.length = 3 → natAt body 2 = 0 → exec (.read l body) s = answer s .ok
          (.common ⟨s.handle i, c.owner, c.kind, c.resource, c.tag, c.cls, c.state, c.hold,
            c.deadline.map fun t => t - s.clock.cadence, c.pinned, c.wantsSample, c.endCause, s.place i c⟩)) ∧
        (body.length = 3 → natAt body 2 = 1 → exec (.read l body) s = answer s .ok
          (.body (match c.payload with
            | .drive b left => .drive b left
            | .gate b => .gate b
            | .asense b _ => .asense b
            | .esense b _ => .esense b))) ∧
        (body.length = 3 → natAt body 2 = 2 → ∃ t, exec (.read l body) s = answer t .ok (.run (s.runReport i c)) ∧
          (l ≠ c.owner → t = s) ∧
          (l = c.owner →
            (∀ b r, c.payload = .asense b r →
              t = s.putClaim i { c with payload := .asense b { r with fresh := false, missed := 0 } }) ∧
            (∀ b r, c.payload = .esense b r →
              t = s.putClaim i { c with payload := .esense b { r with fresh := false, overwrite := false } }) ∧
            ((c.kind = .drive ∨ c.kind = .gate) → t = s)))) ∧
  (∀ (s : State) (i : SlotIx) (c : Claim), TableInv s → ListInv s → s.claim i = some c → c.inRange →
      (∀ d, c.resource = .drive d →
        (∀ n : Nat, (s.driveList d)[n]? = some i → s.place i c = ⟨some n, (s.driveList d).length, none⟩) ∧
        ((c.state = .complete ∨ c.state = .spent) → s.place i c = ⟨none, (s.driveList d).length, none⟩) ∧
        (s.head d = some i → s.runReport i c =
          .drive (some ⟨(s.drives.get d).phase, (s.drives.get d).duty, (s.drives.get d).pattern⟩)) ∧
        (s.head d ≠ some i → s.runReport i c = .drive none)) ∧
      (∀ g, c.resource = .gate g →
        s.runReport i c = .gate (s.gateIsOpen g) ∧
        (∀ n : Nat, c.state = .active → (s.gateList g)[n]? = some i → s.place i c =
          ⟨some n, (s.gateList g).length, some (decide ((s.supplier g).map Prod.fst = some i))⟩) ∧
        (c.state = .spent → s.place i c = ⟨none, (s.gateList g).length, none⟩)) ∧
      (∀ ch b r, c.resource = .analog ch → c.payload = .asense b r →
        s.place i c = ⟨none, (s.members (.analog ch)).length, none⟩ ∧
        s.runReport i c = .asense r (s.dueInterval ch)
          (match s.arbiter.waiting[ch] with | none => false | some q => decide (i ∈ q.due)) (s.level ch)) ∧
      (∀ (e : EdgeIn) b r, c.resource = .edge e → c.payload = .esense b r →
        s.place i c = ⟨none, (s.members (.edge e)).length, none⟩ ∧
        s.runReport i c = .esense r s.inputs[e].level (s.sensitivity e) (s.members (.edge e)).length))

/-- LOOKUP (R8): NOT_READY in CONFIG; in RUN the claim of the requesting link that carries the tag, in whatever
occupied state; NO_SUCH for a tag that is in no claim of the link, and for tag 0. No state changes but the held
response. -/
def Obligations.LookupFindsOwnTag : Prop :=
  ∀ (l : Link) (body : List Byte) (s : State), s.canTake l → body.length ≤ 28 →
    let tag := BitVec.ofNat 16 (be16At body 0)
    (s.setup.part = .config →
      exec (.lookup l body) s = .next (s.holdResponse l ⟨0x05#8, .notReady, .empty⟩)) ∧
    (s.setup.part = .run → body.length = 2 →
      (∀ i c, TagInv s → tag ≠ 0#16 → s.claim i = some c → c.owner = l → c.tag = tag →
        exec (.lookup l body) s = .next (s.holdResponse l ⟨0x05#8, .ok, .claim (s.handle i) c.state⟩)) ∧
      (s.tagFree l tag →
        exec (.lookup l body) s = .next (s.holdResponse l ⟨0x05#8, .noSuch, .empty⟩))) ∧
    (s.setup.part = .run → body.length ≠ 2 →
      exec (.lookup l body) s = .next (s.holdResponse l ⟨0x05#8, .badValue, .empty⟩))

/-- TAKE_NOTICES (R162, R3): up to six entries in ascending slot order, each with the handle as the slot holds it when
the request is taken; the entries are removed, and the slot of an entry with a final notice becomes FREE with
its generation advanced. Nothing else changes. -/
def Obligations.TakeNoticesRemovesEntries : Prop :=
  ∀ (l : Link) (s : State), s.canTake l →
    (TableInv s → ∃ t : State, exec (.takeNotices l []) s = .next (t.holdResponse l
        ⟨0x06#8, .ok, .notices ((s.notices.get l).length - 6)
          (((s.notices.get l).take 6).map fun e => (s.handle e.slot, e.kinds))⟩) ∧
      t = { s with slots := t.slots, notices := s.notices.set l ((s.notices.get l).drop 6) } ∧
      (s.notices.get l).Pairwise (fun x y => x.slot < y.slot) ∧
      (∀ e ∈ (s.notices.get l).take 6, e.final = true →
        t.claim e.slot = none ∧ (t.handle e.slot).gen = (s.handle e.slot).gen + 1) ∧
      (∀ i, (∀ e ∈ (s.notices.get l).take 6, e.final = true → e.slot ≠ i) → t.slots[i] = s.slots[i]) ∧
      (t.alertLow l = true ↔ 6 < (s.notices.get l).length)) ∧
    ∀ body : List Byte, body.length ≤ 28 → body ≠ [] →
      exec (.takeNotices l body) s = .next (s.holdResponse l ⟨0x06#8, .badValue, .empty⟩)

/-! ### Requests that open and change claims -/

/-- The checks of OPEN in the order of R4: the first that fails gives the result, and nothing but the held response
changes. The value step asks for a body that is the layout of R165 of fields in range. -/
def Obligations.OpenRefusedInOrder : Prop :=
  ∀ (l : Link) (body : List Byte) (s : State), s.canTake l → body.length ≤ 28 →
    let refused := fun (r : Result) =>
      exec (.openClaim l body) s = .next (s.holdResponse l ⟨0x10#8, r, .empty⟩)
    let reach := s.setup.reach.get l
    let count := (List.finRange 48).countP fun i =>
      (s.claim i).any fun c => decide (c.owner = l) && !c.pinned
    (s.setup.part = .config → refused .notReady) ∧
    (s.setup.part = .run → s.barred l = true → refused .barred) ∧
    (s.setup.part = .run → s.barred l = false →
      (resourceOf? (natAt body 0) = none → refused .badValue) ∧
      ∀ r, resourceOf? (natAt body 0) = some r →
        (reach.covers r = false → refused .outOfReach) ∧
        (reach.covers r = true → (∀ i, s.claim i ≠ none) → refused .noRoom) ∧
        (reach.covers r = true → (∃ i, s.claim i = none) →
          (reach.quota ≤ count → refused .quota) ∧
          (count < reach.quota → ¬s.tagFree l (openTag body) → refused .tagTaken) ∧
          (count < reach.quota → s.tagFree l (openTag body) →
            (¬∃ f : ClaimFields, f.inRange r ∧ body = openBytes r (openTag body) f) → refused .badValue)))

/-- An OPEN of a sense claim that passes every check (R5, R109, R130): the lowest FREE slot at the generation it had,
the record of R5 in state ACTIVE, the runtime's OPEN values, and the handle in the response. Nothing else
changes.
An OPEN of a DRIVE claim that passes every check (R5, R27): its record joins the channel's list, and the response
carries IN_FORCE or SUSPENDED by the gate if it became head, and STANDBY otherwise.
An OPEN of a GATE claim that passes every check (R5, R25, R35, R41): the ACTIVE record goes behind every entry of
its class or a higher one, and the gate evaluates its condition on the list as it then stands. -/
def Obligations.OpenTakesLowestFreeSlot : Prop :=
  (∀ (l : Link) (body : List Byte) (r : Resource) (i : SlotIx) (f : ClaimFields) (s : State),
      s.canTake l → body.length ≤ 28 → s.OpenPasses l body r i f →
      let record := fun (p : Payload) => ({
          owner := l, resource := r, tag := openTag body, cls := (s.setup.reach.get l).cls, state := .active,
          hold := f.hold, deadline := s.deadlineOf f.hold, pinned := false, wantsSample := f.wantsSample,
          endCause := none, payload := p } : Claim)
      let opened := fun (p : Payload) => exec (.openClaim l body) s =
        .next ((s.putClaim i (record p)).holdResponse l ⟨0x10#8, .ok, .claim (s.handle i) .active⟩)
      (∀ c b, r = .analog c → f.body = .asense b → opened (.asense b ⟨none, none, .inBand, 0, 0, false, 0⟩)) ∧
      (∀ (e : EdgeIn) b, r = .edge e → f.body = .esense b → opened
        (.esense b ⟨none, false, none, 0, none, 0, false, s.inputs[e].level, 0, false, false⟩))) ∧
  (∀ (l : Link) (body : List Byte) (d : Drive) (i : SlotIx) (f : ClaimFields) (b : DriveBody) (s : State),
      s.canTake l → body.length ≤ 28 → s.OpenPasses l body (.drive d) i f → f.body = .drive b →
      TableInv s → ListInv s →
      let record : Claim := {
        owner := l, resource := .drive d, tag := openTag body, cls := (s.setup.reach.get l).cls, state := .standby,
        hold := f.hold, deadline := s.deadlineOf f.hold, pinned := false, wantsSample := f.wantsSample,
        endCause := none, payload := .drive b b.burst }
      let t := (s.putClaim i record).join d i
      let st := if t.head d = some i then
        if s.gateIsOpen d.parent = true then ClaimState.inForce else .suspended else .standby
      exec (.openClaim l body) s = .next (t.holdResponse l ⟨0x10#8, .ok, .claim (s.handle i) st⟩) ∧
        (t.claim i).map Claim.state = some st) ∧
  (∀ (l : Link) (body : List Byte) (g : Gate) (i : SlotIx) (f : ClaimFields) (b : GateBody) (s : State),
      s.canTake l → body.length ≤ 28 → s.OpenPasses l body (.gate g) i f → f.body = .gate b →
      TableInv s → ListInv s →
      let cls := (s.setup.reach.get l).cls
      let record : Claim := {
        owner := l, resource := .gate g, tag := openTag body, cls := cls, state := .active,
        hold := f.hold, deadline := s.deadlineOf f.hold, pinned := false, wantsSample := f.wantsSample,
        endCause := none, payload := .gate b }
      let list := (s.gateList g).filter (fun j => decide (cls.val ≤ s.classOf j)) ++
        i :: (s.gateList g).filter fun j => decide (s.classOf j < cls.val)
      let joined : State := { s.putClaim i record with gateLists := s.gateLists.set g list }
      exec (.openClaim l body) s =
        .next ((joined.evalGate g).holdResponse l ⟨0x10#8, .ok, .claim (s.handle i) .active⟩))

/-- The bodies of OPEN and AMEND read as R165 lays them out, and nothing else is read: fields in range are read back
from their layout, and every body that is read is the layout of the fields it is read as. -/
def Obligations.ClaimBodiesReadAsLaidOut : Prop :=
  (∀ (r : Resource) (tag : BitVec 16) (f : ClaimFields), f.inRange r →
    resourceOf? (natAt (openBytes r tag f) 0) = some r ∧ openTag (openBytes r tag f) = tag ∧
      openFields? r (openBytes r tag f) = some f ∧ (openBytes r tag f).length ≤ 18) ∧
  (∀ (r : Resource) (body : List Byte) (f : ClaimFields),
    resourceOf? (natAt body 0) = some r → openFields? r body = some f →
      f.inRange r ∧ body = openBytes r (openTag body) f) ∧
  (∀ (r : Resource) (slot gen : Byte) (f : ClaimFields), f.inRange r →
    amendFields? r (amendBytes slot gen f) = some f ∧ kindOf? (natAt (amendBytes slot gen f) 2) = some r.kind ∧
      (amendBytes slot gen f).length ≤ 17) ∧
  ∀ (r : Resource) (body : List Byte) (f : ClaimFields),
    kindOf? (natAt body 2) = some r.kind → amendFields? r body = some f →
      f.inRange r ∧ body = amendBytes (byteAt body 0) (byteAt body 1) f

/-- The checks of AMEND, RENEW with one handle and RETIRE in the order of R9: the first that fails gives the result,
and nothing but the held response changes. -/
def Obligations.OwnerChecksInOrder : Prop :=
  ∀ (l : Link) (body : List Byte) (s : State) (mk : List Byte → Instr) (code : Byte),
    s.canTake l → body.length ≤ 28 →
    (mk = .amend l ∧ code = 0x11#8 ∨ body.length = 2 ∧ mk = .renew l ∧ code = 0x12#8 ∨
      body.length = 2 ∧ mk = .retire l ∧ code = 0x13#8) →
    let refused := fun (r : Result) => exec (mk body) s = .next (s.holdResponse l ⟨code, r, .empty⟩)
    (s.setup.part = .config → refused .notReady) ∧
    (s.setup.part = .run → s.handleAt body 0 = none → refused .stale) ∧
    ∀ i c, s.setup.part = .run → s.handleAt body 0 = some i → s.claim i = some c →
      (c.owner ≠ l → refused .notOwner) ∧
      (c.owner = l → c.pinned = true → refused .pinned) ∧
      (c.owner = l → c.pinned = false → (c.state = .retiring ∨ c.state = .spent) → refused .ended) ∧
      (mk = .amend l → c.owner = l → c.pinned = false → c.state ≠ .retiring → c.state ≠ .spent →
        (kindOf? (natAt body 2) ≠ some c.kind → refused .wrongKind) ∧
        (kindOf? (natAt body 2) = some c.kind → c.inRange →
          (¬∃ f : ClaimFields, f.inRange c.resource ∧ body = amendBytes (byteAt body 0) (byteAt body 1) f) →
          refused .badValue))

/-- A handle that names no claim is refused with STALE (R2): a slot number of 48 or above, a FREE slot, or another
generation. RENEW, RETIRE and PIN carry two bytes here. A RENEW whose body is neither empty nor two bytes long, and a
RETIRE and a PIN whose body is not two bytes long, are refused with BAD_VALUE (R165): their rules have no value step,
so their encoding is checked at the start of step 4 (R158), before the handle (log entry 13). -/
def Obligations.HandleAndLengthChecks : Prop :=
  (∀ (l : Link) (body : List Byte) (s : State), s.canTake l → body.length ≤ 28 → s.setup.part = .run →
      (∀ n i, s.handleAt body n = some i ↔
        (s.claim i).isSome = true ∧ natAt body n = i.val ∧ natAt body (n + 1) = (s.handle i).gen.val) ∧
      (s.handleAt body 0 = none →
        exec (.amend l body) s = .next (s.holdResponse l ⟨0x11#8, .stale, .empty⟩) ∧
        exec (.read l body) s = .next (s.holdResponse l ⟨0x04#8, .stale, .empty⟩) ∧
        (body.length = 2 →
          exec (.renew l body) s = .next (s.holdResponse l ⟨0x12#8, .stale, .empty⟩) ∧
          exec (.retire l body) s = .next (s.holdResponse l ⟨0x13#8, .stale, .empty⟩) ∧
          (l = s.setup.authority →
            exec (.pin l body) s = .next (s.holdResponse l ⟨0x30#8, .stale, .empty⟩))))) ∧
  (∀ (l : Link) (body : List Byte) (s : State), s.canTake l → body.length ≤ 28 → s.setup.part = .run →
      body.length ≠ 2 →
      (body ≠ [] → exec (.renew l body) s = .next (s.holdResponse l ⟨0x12#8, .badValue, .empty⟩)) ∧
      exec (.retire l body) s = .next (s.holdResponse l ⟨0x13#8, .badValue, .empty⟩) ∧
      (l = s.setup.authority → exec (.pin l body) s = .next (s.holdResponse l ⟨0x30#8, .badValue, .empty⟩)))

/-- An AMEND that changes a claim where it stands (R10, R34, R76, R119, R139): the new body, hold and wants SAMPLE, the
deadline anew, and the runtime as its block changes it; the state, the place and every other claim stay.
An AMEND of a COMPLETE drive claim joins it to its list again with its burst reloaded (R33); an AMEND of a gate
claim replaces its vote, period and close pattern in place, and the gate evaluates (R35, R41). -/
def Obligations.AmendReplacesBodyAndHold : Prop :=
  (∀ (l : Link) (body : List Byte) (i : SlotIx) (c : Claim) (f : ClaimFields) (s : State),
      s.canTake l → body.length ≤ 28 → s.OwnerPasses l body i c → c.inRange → f.inRange c.resource →
      body = amendBytes (byteAt body 0) (byteAt body 1) f →
      let amended := fun (p : Payload) => exec (.amend l body) s =
        .next ((s.putClaim i { c with
          hold := f.hold, deadline := s.deadlineOf f.hold, wantsSample := f.wantsSample, payload := p }).holdResponse
            l ⟨0x11#8, .ok, .state c.state⟩)
      (∀ ch b0 r b, c.resource = .analog ch → c.payload = .asense b0 r → f.body = .asense b →
        amended (.asense b { r with above := 0, below := 0 })) ∧
      (∀ (e : EdgeIn) b0 r b, c.resource = .edge e → c.payload = .esense b0 r → f.body = .esense b →
        (b.mode ≠ b0.mode → amended (.esense b
          ⟨none, false, none, 0, none, 0, false, s.inputs[e].level, 0, false, false⟩)) ∧
        (b.mode = b0.mode → b.mode ≠ .level → b.edge ≠ b0.edge → amended (.esense b
          { r with lastStamp := none, edgeSeen := false, running := 0, stallCount := 0, candidate := 0 })) ∧
        (b.mode = b0.mode → (b.mode = .level ∨ b.edge = b0.edge) →
          amended (.esense b { r with stallCount := 0, candidate := 0 }))) ∧
      (∀ d b0 left b, c.resource = .drive d → c.payload = .drive b0 left → f.body = .drive b →
        c.state ≠ .complete → amended (.drive b b.burst))) ∧
  (∀ (l : Link) (body : List Byte) (i : SlotIx) (c : Claim) (f : ClaimFields) (s : State),
      s.canTake l → body.length ≤ 28 → s.OwnerPasses l body i c → c.inRange → f.inRange c.resource →
      body = amendBytes (byteAt body 0) (byteAt body 1) f → TableInv s → ListInv s →
      let amended := fun (p : Payload) => s.putClaim i { c with
        hold := f.hold, deadline := s.deadlineOf f.hold, wantsSample := f.wantsSample, payload := p }
      (∀ d b, c.resource = .drive d → f.body = .drive b → c.state = .complete →
        let t := (amended (.drive b b.burst)).join d i
        let st := if t.head d = some i then
          if s.gateIsOpen d.parent = true then ClaimState.inForce else .suspended else .standby
        exec (.amend l body) s = .next (t.holdResponse l ⟨0x11#8, .ok, .state st⟩)) ∧
      (∀ g b, c.resource = .gate g → f.body = .gate b → c.state = .active →
        exec (.amend l body) s =
          .next (((amended (.gate b)).evalGate g).holdResponse l ⟨0x11#8, .ok, .state .active⟩)))

/-- RENEW with one handle (R11): the deadline anew from the claim's own hold, none for hold 0, and nothing else.
RENEW of all the link's claims (R12), which a RENEW with an empty body also is: NOT_READY in CONFIG; in RUN a new
deadline for each unpinned claim of the link with a nonzero hold that has not ended, nothing else, and their number
in the response. -/
def Obligations.RenewSetsDeadlines : Prop :=
  (∀ (l : Link) (body : List Byte) (i : SlotIx) (c : Claim) (s : State),
      s.canTake l → body.length = 2 → s.OwnerPasses l body i c →
      exec (.renew l body) s = .next ((s.putClaim i { c with
        deadline := if c.hold = 0 then none else some (s.clock.cadence + BitVec.ofNat 32 (80 * c.hold)) }).holdResponse
          l ⟨0x12#8, .ok, .empty⟩)) ∧
  (∀ (l : Link) (s : State), s.canTake l → exec (.renew l []) s = exec (.renewAll l) s ∧
      (s.setup.part = .config →
        exec (.renewAll l) s = .next (s.holdResponse l ⟨0x12#8, .notReady, .empty⟩)) ∧
      (s.setup.part = .run →
        let renewed := fun (c : Claim) => decide (c.owner = l) && !c.pinned && decide (c.hold ≠ 0) &&
          decide (c.state ∈ [ClaimState.standby, .inForce, .suspended, .complete, .active])
        ∃ t : State, exec (.renewAll l) s = .next (t.holdResponse l ⟨0x12#8, .ok,
            .count ((List.finRange 48).countP fun i => (s.claim i).any renewed)⟩) ∧
          t = { s with slots := t.slots } ∧
          ∀ i, t.handle i = s.handle i ∧ t.claim i = (s.claim i).map fun c =>
            if renewed c = true then
              { c with deadline := some (s.clock.cadence + BitVec.ofNat 32 (80 * c.hold)) } else c))

/-! ### The end of claims -/

/-- RETIRE of a claim that passes the checks ends it with cause RETIRE (R17), and a hold expiry ends it with cause
LAPSE (R14) when the count has reached the deadline; in the tick before it, the expiry brings the count to the deadline
for the table, and the moments of the scheduler and the edge unit at that value wait (R82, R84). A claim without a
deadline takes none, and one whose deadline lies further ahead, in the coming half of the count's range, is unchanged
(log entry 5). -/
def Obligations.RetireAndExpiryEndTheClaim : Prop :=
  (∀ (l : Link) (body : List Byte) (i : SlotIx) (c : Claim) (s : State),
    s.canTake l → body.length = 2 → s.OwnerPasses l body i c →
    let t := s.endClaims .retire [i]
    exec (.retire l body) s = .next (t.holdResponse l ⟨0x13#8, .ok,
      .state (match t.claim i with | some c' => c'.state | none => .spent)⟩)) ∧
  ∀ (i : SlotIx) (s : State), s.resetHeld = false →
    ((∀ c, s.claim i = some c → c.deadline = none) → exec (.holdExpiry i) s = .next s) ∧
    ∀ c t, s.claim i = some c → c.deadline = some t →
      ((s.clock.cadence - t).toNat < 2 ^ 31 → exec (.holdExpiry i) s = .next (s.endClaims .lapse [i])) ∧
      (t = s.clock.cadence + 1#32 → s.clock.momentsWait = false → ∃ u : State,
        exec (.holdExpiry i) s = .next (u.endClaims .lapse [i]) ∧ u = { s with clock := u.clock, gates := u.gates } ∧
          (ClockInv s → u.clock = ⟨0, t, 125#32 * t, true⟩) ∧
          ∀ g, u.gates.get g = GateUnit.run (2000 - s.clock.divider) (s.gates.get g)) ∧
      (2 ^ 31 ≤ (s.clock.cadence - t).toNat → (t ≠ s.clock.cadence + 1#32 ∨ s.clock.momentsWait = true) →
        exec (.holdExpiry i) s = .next s)

/-- Where a claim stands when it ends decides its outcome (R15, R16, R30, R89): a sense claim's demand leaves its
block, a gate claim leaves its list and the gate evaluates, a STANDBY entry or a head leaves its list, a COMPLETE
claim ends, and a head alone at a duty above 0 stays as RETIRING.
The end of a claim's course (R18, R3): SPENT with its final notice in the owner's set, or, if the owner is
barred, FREE with the generation advanced and no notice. Nothing else changes. -/
def Obligations.EndingFollowsPlaceAndCourse : Prop :=
  (∀ (s : State) (cause : EndCause) (i : SlotIx) (c : Claim), TableInv s → ListInv s → s.claim i = some c →
      let ended := (s.putClaim i { c with endCause := some cause, deadline := none }).finish i
      let t := s.endClaims cause [i]
      (∀ ch, c.resource = .analog ch → c.state = .active → t = ended.dropDemand ch i) ∧
      (∀ e, c.resource = .edge e → c.state = .active → t = ended) ∧
      (∀ g, c.resource = .gate g → c.state = .active →
        t = ({ ended with gateLists := s.gateLists.set g ((s.gateList g).filter fun j => decide (j ≠ i)) } :
          State).evalGate g) ∧
      (∀ d, c.resource = .drive d →
        (c.state = .complete → t = ended) ∧
        (c.state = .standby → s.head d ≠ some i →
          t = ended.changeList d (s.head d) ((s.driveList d).filter fun j => decide (j ≠ i))) ∧
        ((c.state = .inForce ∨ c.state = .suspended) → s.head d = some i →
          ((s.driveList d).length ≠ 1 ∨ (s.drives.get d).duty = 0 →
            t = ended.changeList d (some i) (s.driveList d).tail) ∧
          ((s.driveList d).length = 1 → (s.drives.get d).duty ≠ 0 →
            t = s.putClaim i { c with state := .retiring, endCause := some cause, deadline := none })))) ∧
  (∀ (s : State) (i : SlotIx) (c : Claim), s.claim i = some c →
      let t := s.finish i
      t = { s with slots := t.slots, notices := t.notices } ∧
      (∀ j, j ≠ i → t.slots[j] = s.slots[j]) ∧
      s.NoticesKept t (fun j => j = i) ∧ (∀ l, l ≠ c.owner → t.notices.get l = s.notices.get l) ∧
      (s.barred c.owner = true → t.notices = s.notices ∧ t.slots[i] = ⟨s.slots[i].gen + 1, none⟩) ∧
      (s.barred c.owner = false → t.slots[i] = ⟨s.slots[i].gen, some { c with state := .spent, deadline := none }⟩ ∧
        (c.state ≠ .spent → ∀ cause, c.endCause = some cause →
          t.noticed c.owner (match cause with | .retire => .retired | .lapse => .lapsed) i)))

/-- An ended analog claim leaves its channel's demand (R89, R102, R105): it is in no due list, a waiting request left
without claims is withdrawn, any other stays with its moment, a channel without members loses its mark, and the
last withdrawal clears every mark. -/
def Obligations.EndedDemandLeaves : Prop :=
  ∀ (s : State) (ch : AnalogCh) (i : SlotIx),
    let t := s.dropDemand ch i
    t = { s with arbiter := t.arbiter } ∧
    (∀ c : AnalogCh, c ≠ ch → t.arbiter.waiting[c] = s.arbiter.waiting[c]) ∧
    (s.members (.analog ch) = [] → t.arbiter.waiting[ch] = none ∧ t.arbiter.marks[ch] = false) ∧
    (s.members (.analog ch) ≠ [] →
      (s.arbiter.waiting[ch] = none → t.arbiter.waiting[ch] = none) ∧
      ∀ r, s.arbiter.waiting[ch] = some r →
        let due := r.due.filter fun j => decide (j ≠ i)
        t.arbiter.waiting[ch] = if due = [] then none else some ⟨r.moment, due⟩) ∧
    t.arbiter.inFlight = (s.arbiter.inFlight.map fun f =>
      if f.channel = ch then { f with due := f.due.filter fun j => decide (j ≠ i) } else f) ∧
    MarksInv t

/-- DROP_ALL (R172, R31): NOT_READY in CONFIG; in RUN it completes, and every claim of the link that is unpinned and
has not ended ends with cause RETIRE, to SPENT with RETIRED, to RETIRING, or, for a barred link, to FREE; their number
is in the response. No other claim ends: it keeps its end cause and deadline, or, RETIRING already, comes to the end
of its course where its gate closes (R45). No claim's fixed fields, no hold, no setup value and no clock changes.
Where several claims end at once (R31), each list becomes its survivors as one change: a head without survivors winds
down as RETIRING while the duty is above 0, and where the gate over the channel closes with them, a first survivor
that is RETIRING or whose burst is finished leaves too (R45). TAKEN goes to the claim that ends up first, if it was
not the head, and to no other, and never to a claim that is itself ending. -/
def Obligations.DropAllEndsOwnClaims : Prop :=
  (∀ (cause : EndCause) (ending : List SlotIx) (s : State), StopInv s → TableInv s → ListInv s →
      (∀ i ∈ ending, ∃ c, s.claim i = some c ∧ c.state.ongoing = true) →
      let t := s.endClaims cause ending
      let noNewTaken := fun (j : SlotIx) => ∀ l, ∀ e ∈ t.notices.get l, e.slot = j → e.has .taken = true →
        ∃ e' ∈ s.notices.get l, e'.slot = j ∧ e'.has .taken = true
      (∀ g, t.gateList g = (s.gateList g).filter fun j => decide (j ∉ ending)) ∧
      (∀ j ∈ ending, noNewTaken j) ∧
      ∀ d : Drive,
        let survivors := (s.driveList d).filter fun j => decide (j ∉ ending)
        let closes := s.gateIsOpen d.parent = true ∧ t.gateIsOpen d.parent = false
        (¬closes →
          (s.driveList d = [] ∨ survivors ≠ [] ∨ (s.drives.get d).duty = 0 → t.driveList d = survivors) ∧
          ∀ h tl c, s.driveList d = h :: tl → s.claim h = some c → survivors = [] → (s.drives.get d).duty ≠ 0 →
            t.driveList d = [h] ∧
            t.claim h = some { c with state := .retiring, endCause := some cause, deadline := none }) ∧
        (closes → t.driveList d = survivors ∨ ∃ h c, survivors = h :: t.driveList d ∧ s.claim h = some c ∧
          (c.state = .retiring ∨ c.burstFinished = true)) ∧
        (∀ h tl c, t.driveList d = h :: tl → s.head d ≠ some h → s.claim h = some c → s.barred c.owner = false →
          t.noticed c.owner .taken h) ∧
        ∀ j ∈ s.driveList d, (t.head d ≠ some j ∨ s.head d = some j) → noNewTaken j) ∧
  (∀ (l : Link) (s : State), s.canTake l → s.setup.part = .run → TableInv s → ListInv s →
      let ending := fun (c : Claim) => decide (c.owner = l) && !c.pinned &&
        decide (c.state ∈ [ClaimState.standby, .inForce, .suspended, .complete, .active])
      ∃ t : State, exec (.dropAll l []) s = .next (t.holdResponse l ⟨0x14#8, .ok,
          .count ((List.finRange 48).countP fun i => (s.claim i).any ending)⟩) ∧
        s.Descends t ∧
        (∀ i c, s.claim i = some c → ending c = true → c.inRange →
          (s.barred l = true ∧ t.claim i = none) ∨
          ∃ d, t.claim i = some d ∧ d.endCause = some .retire ∧ d.deadline = none ∧
            (d.state = .retiring ∨ (d.state = .spent ∧ s.barred l = false ∧ t.noticed l .retired i))) ∧
        (∀ i c, s.claim i = some c → ending c = false → s.StandsIn t i c) ∧
        (∀ g, (t.gates.get g).holds = (s.gates.get g).holds) ∧
        t.clock = s.clock ∧ t.setup = s.setup ∧ t.inputs = s.inputs ∧ t.trips = s.trips ∧ t.ports = s.ports) ∧
  ∀ (l : Link) (s : State), s.canTake l →
    (∀ body : List Byte, body.length ≤ 28 → s.setup.part = .config →
      exec (.dropAll l body) s = .next (s.holdResponse l ⟨0x14#8, .notReady, .empty⟩)) ∧
    ∀ body : List Byte, body.length ≤ 28 → s.setup.part = .run → body ≠ [] →
      exec (.dropAll l body) s = .next (s.holdResponse l ⟨0x14#8, .badValue, .empty⟩)

/-! ### Notices and contention lists -/

/-- A posting (R19): discarded when the owner is barred, when SAMPLE is not wanted, when the claim is SPENT; otherwise
merged into the owner's set under the slot, in an entry of its own or in the one that is there. Nothing else
changes, and the set stays in ascending slot order, one entry per slot. -/
def Obligations.PostingMergesIntoOwnersSet : Prop :=
  ∀ (s : State) (k : NoticeKind) (i : SlotIx) (c : Claim), TableInv s → s.claim i = some c →
    let t := s.post k i
    let discarded := s.barred c.owner = true ∨ (k = .sample ∧ c.wantsSample = false) ∨ c.state = .spent
    (discarded → t = s) ∧
    (¬discarded →
      t = { s with notices := t.notices } ∧
      (∀ l, l ≠ c.owner → t.notices.get l = s.notices.get l) ∧
      (∀ e : NoticeEntry, e.slot ≠ i → (e ∈ t.notices.get c.owner ↔ e ∈ s.notices.get c.owner)) ∧
      (∀ e ∈ s.notices.get c.owner, e.slot = i → ⟨i, e.kinds ||| k.bit⟩ ∈ t.notices.get c.owner) ∧
      ((∀ e ∈ s.notices.get c.owner, e.slot ≠ i) → ⟨i, k.bit⟩ ∈ t.notices.get c.owner) ∧
      (t.notices.get c.owner).Pairwise (fun x y => x.slot < y.slot) ∧
      (s.resetHeld = false → t.alertLow c.owner = true))

/-- A change of a drive channel's list (R26, R28): later entries STANDBY, the head IN_FORCE or SUSPENDED by the gate
unless it is RETIRING; TAKEN to a new head, OUTRANKED to an old head that is still in the list, nothing when the
head is the same; and the channel itself is not touched (R29). -/
def Obligations.ListChangeSettlesAndPosts : Prop :=
  ∀ (s : State) (d : Drive) (old : Option SlotIx) (l : List SlotIx), l.Nodup →
    (∀ j ∈ l, ∃ c, s.claim j = some c ∧ c.state ≠ .spent) →
    let t := s.changeList d old l
    let taken := match l.head? with
      | none => s
      | some h => s.post .taken h
    t = { s with slots := t.slots, driveLists := s.driveLists.set d l, notices := t.notices } ∧
    t.driveList d = l ∧ (∀ e, e ≠ d → t.driveList e = s.driveList e) ∧
    (∀ j, j ∉ l → t.slots[j] = s.slots[j]) ∧
    (∀ h tl c, l = h :: tl → s.claim h = some c → t.claim h = some (if c.state = .retiring then c else
      { c with state := if s.gateIsOpen d.parent = true then .inForce else .suspended })) ∧
    (∀ h tl, l = h :: tl → ∀ j ∈ tl, ∀ c, s.claim j = some c → t.claim j = some { c with state := .standby }) ∧
    (l.head? = old → t.notices = s.notices) ∧
    (l.head? ≠ old →
      ((∀ o, old = some o → o ∉ l) → t.notices = taken.notices) ∧
      ∀ o, old = some o → o ∈ l → t.notices = (taken.post .outranked o).notices)

/-- A join of a drive channel's list (R25, R27): what the list becomes, by what it held, and what becomes of a
RETIRING head and of a head whose burst is finished. The entry that becomes head is IN_FORCE or SUSPENDED by the gate
and is posted TAKEN, into an empty list too, and an old head that stays in the list is posted OUTRANKED (R26, R28);
every entry behind the head is STANDBY; no claim outside the list and no notice of another claim changes. -/
def Obligations.JoinFollowsWhatTheListHeld : Prop :=
  ∀ (s : State) (d : Drive) (i : SlotIx) (ci : Claim), TableInv s →
    (s.driveList d).Pairwise (fun x y => s.classOf y ≤ s.classOf x) → i ∉ s.driveList d →
    s.claim i = some ci → ci.resource = .drive d → (ci.state = .standby ∨ ci.state = .complete) →
    let t := s.join d i
    let placed := fun (l : List SlotIx) => l.filter (fun j => decide (ci.cls.val ≤ s.classOf j)) ++
      i :: l.filter fun j => decide (s.classOf j < ci.cls.val)
    let placedAsHead := fun (c : Claim) => if c.state = .retiring then c else
      { c with state := if s.gateIsOpen d.parent = true then .inForce else .suspended }
    let takesOver := fun (j : SlotIx) => ∀ cj, s.claim j = some cj →
      t.claim j = some (placedAsHead cj) ∧ (s.barred cj.owner = false → t.noticed cj.owner .taken j)
    t = { s with slots := t.slots, driveLists := t.driveLists, notices := t.notices } ∧
    t.drives = s.drives ∧ t.gates = s.gates ∧ (∀ e, e ≠ d → t.driveList e = s.driveList e) ∧
    (∀ j, j ≠ i → j ∉ s.driveList d → t.slots[j] = s.slots[j]) ∧
    (∀ h tl, t.driveList d = h :: tl → ∀ j ∈ tl, ∀ cj, s.claim j = some cj →
      t.claim j = some { cj with state := .standby }) ∧
    s.NoticesKept t (fun j => s.head d = some j ∨ t.head d = some j) ∧
    (s.driveList d = [] → t.driveList d = [i] ∧ takesOver i) ∧
    (∀ h tl c, s.driveList d = h :: tl → s.claim h = some c →
      (c.state = .retiring → t.driveList d = placed tl ∧ t.slots[h] = (s.finish h).slots[h] ∧
        ∀ j, (placed tl).head? = some j → takesOver j) ∧
      (c.state ≠ .retiring → c.burstFinished = true →
        t.driveList d = placed tl ∧ t.claim h = some { c with state := .complete } ∧
        (∀ j, (placed tl).head? = some j → takesOver j) ∧
        (s.barred c.owner = false → t.noticed c.owner .complete h)) ∧
      (c.state ≠ .retiring → c.burstFinished = false → ci.cls.val ≤ c.cls.val →
        t.driveList d = h :: placed tl ∧ t.head d = s.head d ∧ t.claim h = some (placedAsHead c) ∧
        t.notices = s.notices) ∧
      (c.state ≠ .retiring → c.burstFinished = false → c.cls.val < ci.cls.val →
        t.driveList d = i :: h :: tl ∧ takesOver i ∧
        (s.barred c.owner = false → t.noticed c.owner .outranked h)))

/-! ### Gates -/

/-- The open condition and the close pattern of a gate, from its votes and holds (R41, R49).
A gate whose open state does not change (R41, R48, R50): OPEN, it stages its supplier's period or cancels the
staging; CLOSED, its close pattern and its channels' pins follow. Nothing else changes, and nothing is posted. -/
def Obligations.GateConditionAndSteadyGate : Prop :=
  (∀ (s : State) (g : Gate),
      let voter := fun (i : SlotIx) (v : Vote) (p : StopPattern → Prop) =>
        ∃ c b, s.claim i = some c ∧ c.payload = .gate b ∧ b.vote = v ∧ p b.close
      (s.openCondition g = true ↔ (s.gates.get g).holds = [] ∧
        (¬∃ i ∈ s.gateList g, voter i .votesClosed fun _ => True) ∧
        ∃ i ∈ s.gateList g, voter i .votesOpen fun _ => True) ∧
      (s.closeFor g = .brake ↔ (∃ i ∈ s.gateList g, voter i .votesClosed fun p => p = .brake) ∨
        ∃ h ∈ (s.gates.get g).holds, h.pattern = .brake)) ∧
  (∀ (s : State) (g : Gate), s.gateIsOpen g = s.openCondition g →
      let t := s.evalGate g
      let u := s.gates.get g
      (∀ g', g' ≠ g → t.gates.get g' = s.gates.get g') ∧
      (s.gateIsOpen g = true → t = { s with gates := t.gates } ∧ ∃ i p, s.supplier g = some (i, p) ∧
        t.gates.get g = { u with staged := if u.applied = some p then none else some p, close := .coast }) ∧
      (s.gateIsOpen g = false → t = { s with gates := t.gates, drives := t.drives } ∧
        t.gates.get g = { u with close := s.closeFor g } ∧
        ∀ d : Drive, t.drives.get d = if d.parent = g then
          { s.drives.get d with pattern := (s.closeFor g).pins } else s.drives.get d))

/-- A gate whose condition no longer holds closes (R44, R45, R49): the counter and the staged period go, the applied
period stays, GATE_CLOSED is posted, and each child channel is HALTED at duty 0 under the close pattern, its head
SUSPENDED, at the end of its course, or COMPLETE. -/
def Obligations.GateCloses : Prop :=
  ∀ (s : State) (g : Gate), TableInv s → ListInv s → s.gateIsOpen g = true → s.openCondition g = false →
    let t := s.evalGate g
    let pattern := s.closeFor g
    t.gates.get g =
      { s.gates.get g with isOpen := false, counter := 0, waited := 0, staged := none, close := pattern } ∧
    (∀ g', g' ≠ g → t.gates.get g' = s.gates.get g') ∧ t.gateLists = s.gateLists ∧
    (∀ d : Drive, d.parent = g → t.drives.get d = ⟨.halted, 0, pattern.pins, 0⟩) ∧
    (∀ d : Drive, d.parent ≠ g → t.drives.get d = s.drives.get d ∧ t.driveList d = s.driveList d) ∧
    (∀ i ∈ s.gateList g, ∀ c, s.claim i = some c → s.barred c.owner = false →
      t.noticed c.owner .gateClosed i) ∧
    (∀ d h tl c, d.parent = g → s.driveList d = h :: tl → s.claim h = some c →
      (c.state = .retiring → t.driveList d = [] ∧ t.slots[h] = (s.finish h).slots[h]) ∧
      (c.state = .inForce → c.burstFinished = false →
        t.driveList d = h :: tl ∧ t.claim h = some { c with state := .suspended } ∧
        (∀ j ∈ tl, t.claim j = s.claim j) ∧
        (s.barred c.owner = false → t.noticed c.owner .suspended h)) ∧
      (c.state = .inForce → c.burstFinished = true →
        t.driveList d = tl ∧ t.claim h = some { c with state := .complete } ∧
        (s.barred c.owner = false → t.noticed c.owner .complete h)))

/-- A gate whose condition now holds opens (R42, R43): its supplier's period from a counter of 0, GATE_OPEN posted,
each child channel out of HALTED by its wanted and applied patterns, and its head from SUSPENDED to IN_FORCE with
RESUMED. -/
def Obligations.GateOpens : Prop :=
  ∀ (s : State) (g : Gate), TableInv s → ListInv s → s.gateIsOpen g = false → s.openCondition g = true →
    let t := s.evalGate g
    (∃ i p, s.supplier g = some (i, p) ∧
      t.gates.get g = ⟨true, 0, 0, some p, none, .coast, []⟩) ∧
    (∀ g', g' ≠ g → t.gates.get g' = s.gates.get g') ∧
    t.gateLists = s.gateLists ∧ t.driveLists = s.driveLists ∧
    (∀ i ∈ s.gateList g, ∀ c, s.claim i = some c → s.barred c.owner = false →
      t.noticed c.owner .gateOpen i) ∧
    (∀ d : Drive, d.parent ≠ g → t.drives.get d = s.drives.get d) ∧
    (∀ d : Drive, d.parent = g → s.driveList d = [] → t.drives.get d =
      { s.drives.get d with phase := if (s.drives.get d).pattern = .coast then .idle else .switching }) ∧
    (∀ d h tl c, d.parent = g → s.driveList d = h :: tl → s.claim h = some c →
      t.drives.get d = { s.drives.get d with
        phase := if c.direction = (s.drives.get d).pattern then .running else .switching } ∧
      t.claim h = some { c with state := .inForce } ∧
      (s.barred c.owner = false → t.noticed c.owner .resumed h))

/-! ### Trips -/

/-- A trip or a test trip taken by a gate (R52): a hold is added at the end of the list, or the hold for its source is
updated in its place, BRAKE if either asks BRAKE; and the gate is CLOSED after it.
TRIP_TAKEN (R143): a trip that waits for the gate becomes its hold, the authority link's when the carried owner is
barred, and TRIP is posted to the claim that raised it. The model's choices: of the trips that wait the oldest is taken
(log entry 10), TRIP is posted only while the slot still has the generation of the claim that raised it (log entry 29),
and with no trip waiting nothing happens (log entry 3). -/
def Obligations.TripsBecomeHolds : Prop :=
  (∀ (s : State) (g : Gate) (new : TripHold), ((s.gates.get g).holds.map TripHold.source).Nodup →
      let holds := if new.source ∈ (s.gates.get g).holds.map TripHold.source then
          (s.gates.get g).holds.map fun h => if h.source = new.source then
            { new with pattern := if h.pattern = .brake ∨ new.pattern = .brake then .brake else .coast } else h
        else (s.gates.get g).holds ++ [new]
      let t := s.takeHold g new
      t = (s.setGate g { s.gates.get g with holds := holds }).evalGate g ∧
      (t.gates.get g).holds = holds ∧ t.gateIsOpen g = false ∧ (holds.map TripHold.source).Nodup) ∧
  (∀ (g : Gate) (s : State), s.resetHeld = false →
      (s.trips.get g = [] → exec (.tripTaken g) s = .next s) ∧
      ∀ tr rest, s.trips.get g = tr :: rest →
        let owner := if s.barred tr.owner = true then s.setup.authority else tr.owner
        let t := ({ s with trips := s.trips.set g rest } : State).takeHold g ⟨tr.source, tr.cause, tr.pattern, owner⟩
        (t.slots[tr.raiser.slot].gen = tr.raiser.gen →
          exec (.tripTaken g) s = .next (t.post .trip tr.raiser.slot)) ∧
        (t.slots[tr.raiser.slot].gen ≠ tr.raiser.gen → exec (.tripTaken g) s = .next t))

/-- TEST_TRIP (R148): from the authority link in RUN, a trip with cause TEST, pattern BRAKE and owner the authority
link; the gate is CLOSED after it, and the response carries that and the number of holds. -/
def Obligations.TestTripHoldsTheGate : Prop :=
  ∀ (l : Link) (s : State), s.canTake l →
    (∀ body : List Byte, body.length ≤ 28 → s.setup.part = .run → l = s.setup.authority → holdBody? body = none →
      exec (.testTrip l body) s = .next (s.holdResponse l ⟨0x21#8, .badValue, .empty⟩)) ∧
    ∀ (g : Gate) (src : Source), s.setup.part = .run → l = s.setup.authority →
      let t := s.takeHold g ⟨src, .test, .brake, l⟩
      exec (.testTrip l [(Resource.gate g).byte, src.resource.byte]) s =
        .next (t.holdResponse l ⟨0x21#8, .ok, .gate false (t.gates.get g).holds.length⟩)

/-- CLEAR_TRIP (R145, R146, R147): the checks in order, and a hold removed with the gate evaluating its condition on
the holds that are left. -/
def Obligations.ClearTripChecksAndRemoves : Prop :=
  ∀ (l : Link) (s : State), s.canTake l →
    let answer := fun (t : State) (r : Result) (b : ReplyBody) =>
      (Host.Outcome.next (t.holdResponse l ⟨0x20#8, r, b⟩) : Host.Outcome State Fault Refusal)
    (∀ body : List Byte, body.length ≤ 28 → s.setup.part = .config →
      exec (.clearTrip l body) s = answer s .notReady .empty) ∧
    (∀ body : List Byte, body.length ≤ 28 → s.setup.part = .run →
      (body.length ≠ 2 ∨ gateOf? (natAt body 0) = none ∨ sourceOf? (natAt body 1) = none) →
      exec (.clearTrip l body) s = answer s .badValue .empty) ∧
    ∀ (g : Gate) (src : Source), s.setup.part = .run →
      let holds := (s.gates.get g).holds
      let req := Instr.clearTrip l [(Resource.gate g).byte, src.resource.byte]
      let standing := ∃ i c, s.claim i = some c ∧ c.state = .active ∧ c.resource = src.resource ∧
        ((∃ b r, c.payload = .asense b r ∧ r.band = .high ∧ b.tripHigh.includes g = true) ∨
          (∃ b r, c.payload = .asense b r ∧ r.band = .low ∧ b.tripLow.includes g = true) ∨
          (∃ b r, c.payload = .esense b r ∧ b.mode ≠ .level ∧ r.stalled = true ∧ b.target.includes g = true) ∨
          ∃ b r, c.payload = .esense b r ∧ b.mode = .level ∧ r.stable = b.active ∧ b.target.includes g = true)
      ((∀ h ∈ holds, h.source ≠ src) → exec req s = answer s .notHeld .empty) ∧
      ∀ h ∈ holds, h.source = src → (holds.map TripHold.source).Nodup →
        (l ≠ h.owner → l ≠ s.setup.authority → exec req s = answer s .notOwner (.holder h.owner)) ∧
        ((l = h.owner ∨ l = s.setup.authority) → standing →
          exec req s = answer s .stillActive (.holder h.owner)) ∧
        ((l = h.owner ∨ l = s.setup.authority) → ¬standing →
          let t := (s.setGate g
            { s.gates.get g with holds := holds.filter fun x => decide (x.source ≠ src) }).evalGate g
          exec req s = answer t .ok (.gate (t.gateIsOpen g) (holds.length - 1)))

/-! ### Authority and setup -/

/-- Steps 1 to 3 of R158: NOT_AUTHORITY for the authority link's requests from another link, LOCKED for setup in RUN,
NOT_READY in CONFIG; nothing but the held response changes. -/
def Obligations.AuthorityAndPartStateChecks : Prop :=
  ∀ (l : Link) (body : List Byte) (s : State), s.canTake l → body.length ≤ 28 →
    let refused := fun (c : Instr) (code : Byte) (r : Result) =>
      exec c s = .next (s.holdResponse l ⟨code, r, .empty⟩)
    (l ≠ s.setup.authority →
      refused (.setReach l body) 0x40#8 .notAuthority ∧ refused (.setAnalog l body) 0x41#8 .notAuthority ∧
      refused (.setEdge l body) 0x42#8 .notAuthority ∧ refused (.setDrive l body) 0x43#8 .notAuthority ∧
      refused (.lockSetup l body) 0x44#8 .notAuthority ∧ refused (.pin l body) 0x30#8 .notAuthority ∧
      refused (.evict l body) 0x31#8 .notAuthority ∧ refused (.admitLink l body) 0x32#8 .notAuthority ∧
      refused (.testTrip l body) 0x21#8 .notAuthority) ∧
    (l = s.setup.authority → s.setup.part = .run →
      refused (.setReach l body) 0x40#8 .locked ∧ refused (.setAnalog l body) 0x41#8 .locked ∧
      refused (.setEdge l body) 0x42#8 .locked ∧ refused (.setDrive l body) 0x43#8 .locked ∧
      refused (.lockSetup l body) 0x44#8 .locked) ∧
    (l = s.setup.authority → s.setup.part = .config →
      refused (.pin l body) 0x30#8 .notReady ∧ refused (.evict l body) 0x31#8 .notReady ∧
      refused (.admitLink l body) 0x32#8 .notReady ∧ refused (.testTrip l body) 0x21#8 .notReady) ∧
    (s.setup.part = .config →
      refused (.openClaim l body) 0x10#8 .notReady ∧ refused (.amend l body) 0x11#8 .notReady ∧
      refused (.renew l body) 0x12#8 .notReady ∧ refused (.retire l body) 0x13#8 .notReady ∧
      refused (.dropAll l body) 0x14#8 .notReady ∧ refused (.lookup l body) 0x05#8 .notReady ∧
      refused (.read l body) 0x04#8 .notReady ∧ refused (.list l body) 0x03#8 .notReady ∧
      refused (.clearTrip l body) 0x20#8 .notReady)

/-- PIN (R20): from the authority link in RUN, of a claim of any owner; ENDED for a claim that has ended; nothing for
one that is pinned; otherwise the claim is pinned and loses its deadline, and its owner's count of unpinned
slots falls by one. -/
def Obligations.PinTakesAnyLiveClaim : Prop :=
  ∀ (l : Link) (body : List Byte) (i : SlotIx) (c : Claim) (s : State),
    s.canTake l → body.length = 2 → l = s.setup.authority → s.setup.part = .run →
    s.handleAt body 0 = some i → s.claim i = some c →
    let answer := fun (t : State) (r : Result) =>
      (Host.Outcome.next (t.holdResponse l ⟨0x30#8, r, .empty⟩) : Host.Outcome State Fault Refusal)
    ((c.state = .retiring ∨ c.state = .spent) → exec (.pin l body) s = answer s .ended) ∧
    (c.state ≠ .retiring → c.state ≠ .spent → c.pinned = true → exec (.pin l body) s = answer s .ok) ∧
    (c.state ≠ .retiring → c.state ≠ .spent → c.pinned = false →
      let t := s.putClaim i { c with pinned := true, deadline := none }
      exec (.pin l body) s = answer t .ok ∧ t.unpinnedCount c.owner + 1 = s.unpinnedCount c.owner)

/-- EVICT (R173): BAD_VALUE for a link that is none or the authority link; otherwise the target is barred, its notice
set empty, its SPENT slots FREE, each of its unpinned claims that had not ended FREE with its generation advanced, or
RETIRING with end cause RETIRE and without a deadline, its pinned claims and its holds the authority link's, and the
three counts in the response. Its claims that are RETIRING already are left as they are, and no pinned claim and no
other link's claim ends: a RETIRING one comes to the end of its course where its gate closes (R45).
ADMIT (R175): from the authority link in RUN the link's barred mark is cleared, and nothing else changes. -/
def Obligations.EvictAndAdmit : Prop :=
  (∀ (l : Link) (s : State), s.canTake l → l = s.setup.authority → s.setup.part = .run →
      (∀ body : List Byte, body.length ≤ 28 →
        (body.length ≠ 1 ∨ 2 < natAt body 0 ∨ byteAt body 0 = linkByte l) →
        exec (.evict l body) s = .next (s.holdResponse l ⟨0x31#8, .badValue, .empty⟩)) ∧
      ∀ target : Link, target ≠ l → TableInv s → ListInv s → LifeInv s → TagInv s → AuthorityInv s →
        let ending := fun (c : Claim) => decide (c.owner = target) && !c.pinned && c.state.ongoing
        let holdsOf := fun (g : Gate) => (s.gates.get g).holds.countP fun h => decide (h.owner = target)
        ∃ t : State, exec (.evict l [linkByte target]) s = .next (t.holdResponse l ⟨0x31#8, .ok,
            .evicted ((List.finRange 48).countP fun i => (s.claim i).any ending)
              ((List.finRange 48).countP fun i => (s.claim i).any fun c => decide (c.owner = target) && c.pinned)
              (holdsOf .gt + holdsOf .gb)⟩) ∧
          t.barred target = true ∧ t.notices.get target = [] ∧ t.alertLow target = false ∧
          (∀ i c, s.claim i = some c → c.owner = target → c.state = .spent →
            t.slots[i] = ⟨s.slots[i].gen + 1, none⟩) ∧
          (∀ i c, s.claim i = some c → ending c = true → t.slots[i] = ⟨s.slots[i].gen + 1, none⟩ ∨
            ∃ d, t.claim i = some d ∧ c.Same d ∧ d.state = .retiring ∧ d.endCause = some .retire ∧
              d.deadline = none) ∧
          (∀ i c, t.claim i = some c → c.owner = target → c.state = .retiring ∧ c.pinned = false) ∧
          (∀ i c, s.claim i = some c → c.owner = target → c.state = .retiring → s.StandsIn t i c) ∧
          (∀ i c, s.claim i = some c → c.owner = target → c.pinned = true →
            ∃ d, t.claim i = some d ∧ d.owner = l ∧ d.resource = c.resource ∧ d.cls = c.cls ∧ d.hold = c.hold ∧
              d.pinned = true ∧ d.wantsSample = c.wantsSample ∧ d.payload.body = c.payload.body ∧
              d.endCause = c.endCause ∧ d.deadline = c.deadline ∧ d.state.ongoing = true ∧
              (s.tagFree l c.tag → d.tag = c.tag) ∧ (¬s.tagFree l c.tag → d.tag = 0#16) ∧
              t.noticed l .handover i) ∧
          (∀ i c, s.claim i = some c → c.owner ≠ target → s.StandsIn t i c) ∧
          (∀ g, (t.gates.get g).holds = (s.gates.get g).holds.map fun h =>
            if h.owner = target then { h with owner := l } else h) ∧
          t.setup = s.setup ∧ t.clock = s.clock ∧ t.inputs = s.inputs ∧ t.trips = s.trips) ∧
  (∀ (l : Link) (s : State), s.canTake l → l = s.setup.authority → s.setup.part = .run →
      (∀ body : List Byte, body.length ≤ 28 → (body.length ≠ 1 ∨ 2 < natAt body 0) →
        exec (.admitLink l body) s = .next (s.holdResponse l ⟨0x32#8, .badValue, .empty⟩)) ∧
      ∀ target : Link, exec (.admitLink l [linkByte target]) s =
        .next ((s.setPort target { s.ports.get target with barred := false }).holdResponse l ⟨0x32#8, .ok, .empty⟩))

/-- The setup requests from the authority link in CONFIG (R168, R169, R170): each layout with its values in range is
written, every other body is refused with BAD_VALUE, and LOCK_SETUP moves the part to RUN. -/
def Obligations.SetupRequestsWrite : Prop :=
  ∀ (l : Link) (s : State), s.canTake l → l = s.setup.authority → s.setup.part = .config →
    let ok := fun (c : Instr) (code : Byte) (t : State) =>
      exec c s = .next (t.holdResponse l ⟨code, .ok, .empty⟩)
    let refused := fun (c : Instr) (code : Byte) =>
      exec c s = .next (s.holdResponse l ⟨code, .badValue, .empty⟩)
    (∀ (t : Link) (m : Reach), m.quota ≤ 48 → ok (.setReach l (reachBytes t m)) 0x40#8
      { s with setup := { s.setup with reach := s.setup.reach.set t m } }) ∧
    (∀ (c : AnalogCh) w, 1 ≤ w → w ≤ 32 → ok (.setAnalog l [(Resource.analog c).byte, numByte w]) 0x41#8
      { s with setup := { s.setup with windows := s.setup.windows.set c w } }) ∧
    (∀ (e : EdgeIn) f, f ≤ 15 → ok (.setEdge l [(Resource.edge e).byte, numByte f]) 0x42#8
      { s with inputs := s.inputs.set e { s.inputs[e] with filter := f } }) ∧
    (∀ d ha hb, ok (.setDrive l [(Resource.drive d).byte, polarityByte ha, polarityByte hb]) 0x43#8
      { s with setup := { s.setup with polarity := s.setup.polarity.set d ⟨ha, hb⟩ } }) ∧
    ok (.lockSetup l []) 0x44#8 { s with setup := { s.setup with part := .run } } ∧
    ∀ body : List Byte, body.length ≤ 28 →
      ((¬∃ t m, m.quota ≤ 48 ∧ body = reachBytes t m) → refused (.setReach l body) 0x40#8) ∧
      ((¬∃ c w, 1 ≤ w ∧ w ≤ 32 ∧ body = [(Resource.analog c).byte, numByte w]) →
        refused (.setAnalog l body) 0x41#8) ∧
      ((¬∃ e f, f ≤ 15 ∧ body = [(Resource.edge e).byte, numByte f]) → refused (.setEdge l body) 0x42#8) ∧
      ((¬∃ d ha hb, body = [(Resource.drive d).byte, polarityByte ha, polarityByte hb]) →
        refused (.setDrive l body) 0x43#8) ∧
      (body ≠ [] → refused (.lockSetup l body) 0x44#8)

/-! ### Events of time and of pins -/

/-- A cadence advance (R82, R126): the count rises by one, the stamp counter stands at 125 times it, or, where an
expiry has brought the count to its value for the table (log entry 5), the count stands and the moments that waited
are taken; and the requests of the scheduler follow R86, R87, R89 and R104 for every channel: raised at a due moment,
retargeted with a miss and LATE for each claim of the due list overtaken, and, if the converter was free, one of them
granted by the grant decision on all of them (R99, R103). The gate counters run to the end of the tick, and no gate
unit, drive channel, list, input, port or setup value is touched otherwise. -/
def Obligations.CadenceAdvanceRaisesRequests : Prop :=
  ∀ s : State, s.resetHeld = false → TableInv s → ClockInv s → RangeInv s → ArbiterInv s →
    let now := if s.clock.momentsWait = true then s.clock.cadence else s.clock.cadence + 1#32
    let clock : Clock :=
      if s.clock.momentsWait = true then { s.clock with momentsWait := false } else ⟨0, now, 125#32 * now, false⟩
    let due := fun (c : AnalogCh) => (s.members (.analog c)).filter fun i =>
      (s.claim i).any fun cl => cl.analogBody?.any fun b => decide (2 ^ b.interval ∣ now.toNat)
    let isDue := fun (c : AnalogCh) => (s.dueInterval c).any fun k => decide (2 ^ k ∣ now.toNat)
    let request := fun (c : AnalogCh) => if isDue c = true then some ⟨now, due c⟩ else s.arbiter.waiting[c]
    let deciding : State := { s with
      clock := clock, arbiter := { s.arbiter with waiting := Vector.ofFn request } }
    let overtaken := fun (i : SlotIx) =>
      ∃ c q, isDue c = true ∧ s.arbiter.waiting[c] = some q ∧ i ∈ q.due
    let atEdgeMoment := fun (i : SlotIx) => ∃ cl b r, s.claim i = some cl ∧ cl.payload = .esense b r ∧
      cl.state = .active ∧ 2 ^ b.interval ∣ now.toNat
    ∃ t, exec .cadenceAdvance s = .next t ∧
      t.clock = clock ∧
      t = { s with clock := clock, gates := t.gates, slots := t.slots, notices := t.notices, arbiter := t.arbiter
                   trips := t.trips, draws := t.draws } ∧
      (∀ g, t.gates.get g = if s.clock.momentsWait = true then s.gates.get g else
        GateUnit.run (2000 - s.clock.divider) (s.gates.get g)) ∧
      s.SlotsKept t ∧ s.NoticesKept t (fun i => overtaken i ∨ atEdgeMoment i) ∧
      (s.arbiter.inFlight ≠ none → t.arbiter.inFlight = s.arbiter.inFlight ∧
        ∀ c : AnalogCh, t.arbiter.waiting[c] = request c) ∧
      (s.arbiter.inFlight = none → (∀ c, request c = none) → t.arbiter.inFlight = none) ∧
      (s.arbiter.inFlight = none → (∃ c, request c ≠ none) → t.arbiter = deciding.decideGrant.arbiter ∧
        ∃ (c : AnalogCh) (r : ConvRequest), request c = some r ∧
        t.arbiter.inFlight =
          some ⟨c, r.moment, r.due, clock.stamp + BitVec.ofNat 32 (s.setup.windows[c] + 2)⟩ ∧
        ∀ c' : AnalogCh, t.arbiter.waiting[c'] = if c' = c then none else request c') ∧
      (∀ (c : AnalogCh) i cl b r, s.claim i = some cl → cl.resource = .analog c → cl.payload = .asense b r →
        let missed := isDue c = true ∧ ∃ q, s.arbiter.waiting[c] = some q ∧ i ∈ q.due
        (missed → t.claim i = some { cl with payload := .asense b { r with missed := min 255 (r.missed + 1) } } ∧
          (s.barred cl.owner = false → t.noticed cl.owner .late i)) ∧
        (¬missed → t.claim i = some cl)) ∧
      (∀ i cl, s.claim i = some cl → (cl.kind = .drive ∨ cl.kind = .gate) → t.claim i = some cl)

/-- A cadence advance at the edge unit (R82, R83, R133 to R137): every ACTIVE edge claim whose code makes the new
count, or the count whose moments wait (log entry 5), its interval moment is worked by its mode, no other edge claim
changes, and the trips raised join those that wait for their gates, in an order that is left open (log entry 11). -/
def Obligations.CadenceAdvanceWorksEdgeMoments : Prop :=
  ∀ s : State, s.resetHeld = false →
    let now := if s.clock.momentsWait = true then s.clock.cadence else s.clock.cadence + 1#32
    let moment := fun (i : SlotIx) =>
      match s.claim i with
      | some ⟨owner, .edge e, _, _, .active, _, _, _, _, _, .esense b r⟩ =>
        if 2 ^ b.interval ∣ now.toNat then
          some (e, owner, b, edgeMoment b s.inputs[e].level r) else none
      | _ => none
    ∃ t, exec .cadenceAdvance s = .next t ∧ t.draws = s.draws + 1 ∧
      (∀ i cl (e : EdgeIn) b r, s.claim i = some cl → cl.resource = .edge e → cl.payload = .esense b r →
        (∀ m, moment i = some m → t.claim i = some { cl with payload := .esense b m.2.2.2.run } ∧
          ∀ k ∈ m.2.2.2.posts, s.barred cl.owner = false → (k = .sample → cl.wantsSample = true) →
            t.noticed cl.owner k i) ∧
        (moment i = none → t.claim i = some cl)) ∧
      ∀ g, ∃ raised : List Trip, t.trips.get g = s.trips.get g ++ raised ∧
        raised.Perm ((List.finRange 48).filterMap fun i =>
          (moment i).bind fun m => m.2.2.2.trip.bind fun cause =>
            if m.2.2.1.target.includes g = true then
              some ⟨.edge m.1, cause, m.2.2.1.pattern, m.2.1, s.handle i⟩ else none)

/-- A period end (R47, R48, R60, R66 to R72): at the instant at which the counter wraps the staged period is applied
and the counter begins again at 0; each child channel works its phase, and forms its compare count from the duty and the
period that this period end leaves; the other gate's counter has run on to that instant, and nothing else of the
other gate and its channels is touched. A CLOSED gate has no period end.
The model's choices: a wrap beyond the present cadence tick is not taken yet (log entries 3 and 4), and a period that
begins at a period end taken late has run for the clocks since its wrap (log entry 22). -/
def Obligations.PeriodEndWorksThePhases : Prop :=
  ∀ (g : Gate) (s : State), s.resetHeld = false →
    let u := s.gates.get g
    let left := u.applied.getD 1 - (u.counter + u.waited)
    let late := u.counter + u.waited - u.applied.getD 1
    (s.gateIsOpen g = false → exec (.periodEnd g) s = .next s) ∧
    (s.gateIsOpen g = true → 2000 < s.clock.divider + left → exec (.periodEnd g) s = .next s) ∧
    (s.gateIsOpen g = true → s.clock.divider + left ≤ 2000 → TableInv s → ∃ t, exec (.periodEnd g) s = .next t ∧
      (ClockInv s → t.clock = ⟨s.clock.divider + left, s.clock.cadence,
        125#32 * s.clock.cadence + BitVec.ofNat 32 ((s.clock.divider + left) / 16), s.clock.momentsWait⟩) ∧
      t.gates.get g = { u with
        counter := min late ((u.staged.or u.applied).getD 1 - 1)
        waited := late - ((u.staged.or u.applied).getD 1 - 1)
        applied := u.staged.or u.applied
        staged := none } ∧
      (∀ g', g' ≠ g →
        let v := s.gates.get g'
        let last := v.applied.getD 1 - 1
        t.gates.get g' = if v.isOpen = true then
          { v with counter := min (v.counter + v.waited + left) last, waited := v.counter + v.waited + left - last }
          else v) ∧
      (∀ d : Drive, d.parent ≠ g → t.drives.get d = s.drives.get d ∧ t.driveList d = s.driveList d) ∧
      ∀ d : Drive, d.parent = g →
        let ch := s.drives.get d
        let v := s.headView d
        let wanted := s.wanted d
        let up := moveToward (effectiveTarget v) (rampOf v) ch.duty
        let down := moveToward 0 (rampOf v) ch.duty
        let running := (if v = none ∧ up = 0 then Phase.idle else .running, up, ch.pattern)
        let winding := (if down = 0 then Phase.switching else .windingDown, down, ch.pattern)
        let worked : Phase × Nat × Pattern :=
          match ch.phase with
          | .halted => (.halted, ch.duty, ch.pattern)
          | .idle => if wanted ≠ ch.pattern then (.switching, ch.duty, ch.pattern)
            else if s.head d = none then (.idle, ch.duty, ch.pattern) else running
          | .running => if wanted ≠ ch.pattern then winding else running
          | .windingDown => if wanted = ch.pattern then running else winding
          | .switching => (.dwell, ch.duty, wanted)
          | .dwell => (if s.head d = none then .idle else .running, ch.duty, ch.pattern)
        t.drives.get d = ⟨worked.1, worked.2.1, worked.2.2,
          worked.2.1 * (t.gates.get g).applied.getD 0 / 1024⟩)

/-- The reports of a period end (R69, R74, R30, R32): a counted burst falls by one; a burst that finishes with other
entries in the list, a finished head alone at duty 0 and a RETIRING head at duty 0 leave the list, for COMPLETE or at
the end of their course; any other head stays. Where a burst finishes with other entries in the list, the next entry
becomes head, IN_FORCE, and is posted TAKEN (R28). No other claim's record and no other claim's notices change, and
neither do the requests, the inputs, the trips, the gate lists, the ports and the setup. -/
def Obligations.PeriodEndReports : Prop :=
  (∀ (g : Gate) (s t : State), TableInv s → ListInv s → exec (.periodEnd g) s = .next t →
    let isHead := fun (i : SlotIx) => ∃ e : Drive, e.parent = g ∧ (s.head e = some i ∨ t.head e = some i)
    t = { s with clock := t.clock, gates := t.gates, drives := t.drives, slots := t.slots
                 driveLists := t.driveLists, notices := t.notices } ∧
    (∀ i, ¬isHead i → t.slots[i] = s.slots[i]) ∧ s.NoticesKept t isHead) ∧
  ∀ (g : Gate) (d : Drive) (s t : State) (h : SlotIx) (tl : List SlotIx) (c : Claim) (b : DriveBody) (left : Nat),
    s.resetHeld = false → s.gateIsOpen g = true → d.parent = g → TableInv s → ListInv s →
    -- the gate's wrap lies within the present tick
    s.clock.divider + ((s.gates.get g).applied.getD 1 - ((s.gates.get g).counter + (s.gates.get g).waited)) ≤ 2000 →
    s.driveList d = h :: tl → s.claim h = some c → c.payload = .drive b left →
    exec (.periodEnd g) s = .next t →
    let ch := s.drives.get d
    let duty := (t.drives.get d).duty
    let finished := b.burst ≠ 0 ∧ left = 0
    -- worked as RUNNING, or as WINDING_DOWN
    let isRunning := (ch.phase = .running ∨ ch.phase = .windingDown ∨ ch.phase = .idle) ∧ s.wanted d = ch.pattern
    let isWinding := (ch.phase = .running ∨ ch.phase = .windingDown) ∧ s.wanted d ≠ ch.pattern
    let counts := isRunning ∧ c.state = .inForce ∧ b.burst ≠ 0 ∧ 0 < left ∧ 0 < duty
    let counted := { c with payload := .drive b (left - 1) }
    (counts → (left = 1 ∧ tl ≠ []) → t.driveList d = tl ∧
      t.claim h = some { counted with state := .complete } ∧
      (s.barred c.owner = false → t.noticed c.owner .complete h) ∧
      (∀ j rest cj, tl = j :: rest → s.claim j = some cj → t.claim j = some { cj with state := .inForce } ∧
        (s.barred cj.owner = false → t.noticed cj.owner .taken j))) ∧
    (counts → ¬(left = 1 ∧ tl ≠ []) → t.driveList d = h :: tl ∧ t.claim h = some counted) ∧
    ((isRunning ∨ isWinding) → duty = 0 → c.state = .retiring →
      t.driveList d = tl ∧ t.slots[h] = (s.finish h).slots[h]) ∧
    ((isRunning ∨ isWinding) → duty = 0 → c.state ≠ .retiring → finished → tl = [] → t.driveList d = [] ∧
      t.claim h = some { c with state := .complete } ∧
      (s.barred c.owner = false → t.noticed c.owner .complete h)) ∧
    (¬counts → ¬((isRunning ∨ isWinding) ∧ duty = 0 ∧ (c.state = .retiring ∨ (finished ∧ tl = []))) →
      t.driveList d = h :: tl ∧ t.claim h = some c)

/-- A completion (R96, R105, R110 to R114): each claim of the due list takes the value as a delivery, in slot order, its
trips join those that wait, the conversion is gone, and the converter takes the request that the grant decision gives
it (R103), or is free when none waits. The gate counters run to that instant, and nothing else is touched.
The model's choices: with no conversion in flight, or with one whose completion lies beyond the present cadence tick,
nothing happens (log entries 3 and 4), and time stands at the completion's stamp, from which the next conversion's
time is counted (log entry 22). -/
def Obligations.ConversionCompleteDelivers : Prop :=
  ∀ (value : BitVec 12) (s : State), s.resetHeld = false →
    (s.arbiter.inFlight = none → exec (.conversionComplete value) s = .next s) ∧
    ∀ f, s.arbiter.inFlight = some f →
      let ahead := (f.completesAt - s.clock.stamp).toNat
      let left := if ahead < 2 ^ 31 then ahead else 0
      (ClockInv s → 125 < s.clock.divider / 16 + left → exec (.conversionComplete value) s = .next s) ∧
      (ClockInv s → s.clock.divider / 16 + left ≤ 125 → TableInv s → RangeInv s → ArbiterInv s →
      let clocks := 16 * left - s.clock.divider % 16
      ∃ t, exec (.conversionComplete value) s = .next t ∧
        t = { s with clock := t.clock, gates := t.gates, slots := t.slots, notices := t.notices, arbiter := t.arbiter
                     trips := t.trips } ∧
        t.clock.stamp = s.clock.stamp + BitVec.ofNat 32 left ∧
        t.clock = { s.clock with divider := s.clock.divider + clocks, stamp := t.clock.stamp } ∧
        (∀ g, t.gates.get g = GateUnit.run clocks (s.gates.get g)) ∧
        s.SlotsKept t ∧ s.NoticesKept t (fun i => i ∈ f.due) ∧
        (∀ i cl b r, s.claim i = some cl → cl.payload = .asense b r →
          (i ∈ f.due → t.claim i = some { cl with payload := .asense b (analogDeliver b value.toNat r).run } ∧
            ∀ k ∈ (analogDeliver b value.toNat r).posts, s.barred cl.owner = false →
              (k = .sample → cl.wantsSample = true) → t.noticed cl.owner k i) ∧
          (i ∉ f.due → t.claim i = some cl)) ∧
        (∀ i cl, s.claim i = some cl → cl.kind ≠ .asense → t.claim i = some cl) ∧
        (∀ g, t.trips.get g = s.trips.get g ++ f.due.filterMap fun i => (s.claim i).bind fun cl =>
          match cl.payload with
          | .asense b r => (analogDeliver b value.toNat r).trip.bind fun cause =>
            if (b.targetFor cause).includes g = true then
              some ⟨.analog f.channel, cause, b.pattern, cl.owner, s.handle i⟩ else none
          | _ => none) ∧
        ((∀ c : AnalogCh, s.arbiter.waiting[c] = none) →
          t.arbiter = { s.arbiter with inFlight := none } ∧
          t.arbiter.inFlight = none ∧ ∀ c : AnalogCh, t.arbiter.waiting[c] = none) ∧
        ((∃ c : AnalogCh, s.arbiter.waiting[c] ≠ none) →
          t.arbiter = ({ s with clock := t.clock, arbiter := { s.arbiter with inFlight := none } } :
            State).decideGrant.arbiter ∧
          ∃ (c : AnalogCh) (r : ConvRequest), s.arbiter.waiting[c] = some r ∧
            t.arbiter.inFlight = some ⟨c, r.moment, r.due,
              t.clock.stamp + BitVec.ofNat 32 (s.setup.windows[c] + 2)⟩ ∧
            ∀ c' : AnalogCh, t.arbiter.waiting[c'] = if c' = c then none else s.arbiter.waiting[c']))

/-- A pin's change at its glitch filter (R127): away from the filtered level it records the stamp; back to it before
the filter time has passed it is forgotten; back to it later the change is accepted, and the pin's move is a new one;
and with a filter of 0 µs a move is accepted at once. An acceptance falls one filter time after the stamp (R127, R128):
it takes the filtered level over and hands the edge, with its stamp, to the PERIOD and COUNT claims that ask for it.
Time and the gate counters go forward to the instant of the event, and nothing else is touched.
The model's choices: a pin that is at the level already does not move (log entry 19), the stamp is that of the µs of the
tick that the command carries (log entry 22), and an input without a pending change, or with one whose filter time ends
beyond the present cadence tick, accepts nothing (log entries 3 and 4). -/
def Obligations.GlitchFilterAndAcceptedEdges : Prop :=
  ∀ (e : EdgeIn) (s : State), s.resetHeld = false →
    let x := s.inputs[e]
    let accepted := fun (u t : State) (stamp : Count32) =>
      let y := u.inputs[e]
      t = { u with inputs := u.inputs.set e ⟨y.level.flip, none, y.filter⟩, slots := t.slots, notices := t.notices } ∧
      u.SlotsKept t ∧
      u.NoticesKept t (fun i => ∃ cl b r, u.claim i = some cl ∧ cl.payload = .esense b r ∧ cl.resource = .edge e ∧
        cl.state = .active ∧ b.mode ≠ .level ∧ b.edge.takes y.level.flip = true) ∧
      ∀ i cl, u.claim i = some cl →
        (∀ b r, cl.payload = .esense b r → cl.resource = .edge e → cl.state = .active → b.mode ≠ .level →
          b.edge.takes y.level.flip = true →
          t.claim i = some { cl with payload := .esense b (edgeHanded b stamp r).run } ∧
          ∀ k ∈ (edgeHanded b stamp r).posts, u.barred cl.owner = false →
            (k = .sample → cl.wantsSample = true) → t.noticed cl.owner k i) ∧
        ((cl.resource ≠ .edge e ∨ cl.state ≠ .active ∨ ∀ b r, cl.payload = .esense b r →
          b.mode = .level ∨ b.edge.takes y.level.flip = false) → t.claim i = some cl)
    let passed := fun (clocks : Nat) (u : State) =>
      u = { s with clock := u.clock, gates := u.gates } ∧
      u.clock = { s.clock with
        divider := s.clock.divider + clocks
        stamp := s.clock.stamp + BitVec.ofNat 32 ((s.clock.divider + clocks) / 16 - s.clock.divider / 16) } ∧
      ∀ g, u.gates.get g = GateUnit.run clocks (s.gates.get g)
    (∀ (lvl : Level) (micros : Nat), micros < 125 →
      (x.pin = lvl → exec (.edgePinChange e lvl micros) s = .next s) ∧
      (x.pin ≠ lvl → ∃ u t, exec (.edgePinChange e lvl micros) s = .next t ∧
        passed (16 * micros - s.clock.divider) u ∧ t.clock = u.clock ∧
        (ClockInv s → s.clock.divider ≤ 16 * micros →
          u.clock.stamp = 125#32 * s.clock.cadence + BitVec.ofNat 32 micros) ∧
        (∀ p, x.pending = some p → (u.clock.stamp - p.stamp).toNat < p.filter →
          t = u.setInput e { x with pending := none }) ∧
        (x.pending = none → x.filter ≠ 0 →
          t = u.setInput e { x with pending := some ⟨u.clock.stamp, x.filter⟩ }) ∧
        (x.pending = none → x.filter = 0 → accepted u t u.clock.stamp) ∧
        ∀ p, x.pending = some p → p.filter ≤ (u.clock.stamp - p.stamp).toNat → ∃ v, accepted u v p.stamp ∧
          (x.filter ≠ 0 → t = v.setInput e ⟨x.level.flip, some ⟨u.clock.stamp, x.filter⟩, x.filter⟩) ∧
          (x.filter = 0 → accepted v t u.clock.stamp))) ∧
    (x.pending = none → exec (.acceptedEdge e) s = .next s) ∧
    ∀ p, x.pending = some p → ClockInv s →
      let left := p.filter - (s.clock.stamp - p.stamp).toNat
      (125 < s.clock.divider / 16 + left → exec (.acceptedEdge e) s = .next s) ∧
      (s.clock.divider / 16 + left ≤ 125 → ∃ u t, exec (.acceptedEdge e) s = .next t ∧
        passed (16 * left - s.clock.divider % 16) u ∧
        u.clock.stamp = s.clock.stamp + BitVec.ofNat 32 left ∧ accepted u t p.stamp)

/-! ### The arithmetic of duties, samples, edges and grants -/

/-- The effective target of a channel (R63) and its course toward a value by at most the ramp (R64), read from the
claim record of the present head. -/
def Obligations.EffectiveTargetAndRamp : Prop :=
  (∀ (s : State) (d : Drive) (v : HeadView), s.headView d = some v ↔
    ∃ c tl, s.driveList d = v.slot :: tl ∧ s.claim v.slot = some c ∧ c.state = v.state ∧
      c.payload = .drive v.body v.burstLeft) ∧
  effectiveTarget none = 0 ∧ rampOf none = 0 ∧
  (∀ v : HeadView, rampOf (some v) = v.body.ramp ∧
    let zero := v.state = .retiring ∨ (v.body.burst ≠ 0 ∧ v.burstLeft = 0) ∨ v.body.direction = .brake ∨
      v.body.direction = .coast
    (zero → effectiveTarget (some v) = 0) ∧ (¬zero → effectiveTarget (some v) = v.body.target)) ∧
  ∀ value ramp duty : Nat,
    (ramp = 0 → moveToward value ramp duty = value) ∧
    (ramp ≠ 0 → duty < value → moveToward value ramp duty = min value (duty + ramp)) ∧
    (ramp ≠ 0 → value < duty → moveToward value ramp duty = max value (duty - ramp)) ∧
    (duty = value → moveToward value ramp duty = duty)

/-- The smoothed value (R111): the raw value at the first delivery, and after that the old value plus the floor of the
gap over 2^s; it lies between the old value and the raw one, is the raw one for s = 0, stops short of a rising
input only by less than 2^s, and falls at every step toward a lower one. -/
def Obligations.SmoothingStep : Prop :=
  ∀ (s old raw : Nat), smooth s none raw = raw ∧
    (smooth s (some old) raw : Int) = old + Int.fdiv ((raw : Int) - old) (2 ^ s) ∧
    min old raw ≤ smooth s (some old) raw ∧ smooth s (some old) raw ≤ max old raw ∧
    smooth 0 (some old) raw = raw ∧
    (old ≤ raw → raw - old < 2 ^ s → smooth s (some old) raw = old) ∧
    (old ≤ raw → 2 ^ s ≤ raw - old → old < smooth s (some old) raw) ∧
    (raw < old → smooth s (some old) raw < old)

/-- A delivery to an ASENSE claim (R110, R112, R113, R114): raw value, fresh flag, SAMPLE, smoothed value, return to
the band, counters, and the entry into HIGH or LOW with BAND and a trip. -/
def Obligations.DeliveryWorksTheBand : Prop :=
  ∀ (b : AnalogBody) (raw : Nat) (r : AnalogRun), b.lowLimit ≤ b.highLimit →
    let o := analogDeliver b raw r
    let v := smooth b.smoothing r.smoothed raw
    let back := (r.band = .high ∧ (v : Int) ≤ max 0 ((b.highLimit : Int) - b.hysteresis)) ∨
      (r.band = .low ∧ min 4095 (b.lowLimit + b.hysteresis) ≤ v)
    let tested := r.band = .inBand ∨ back
    let stored := { r with raw := some raw, smoothed := some v, fresh := true }
    o.posts.head? = some .sample ∧
    (¬tested → o = ⟨stored, [.sample], none⟩) ∧
    (tested → (.band ∈ o.posts ↔ back ∨ o.trip ≠ none) ∧
      (b.highLimit < v → (b.debounce ≤ r.above + 1 →
          o.run = { stored with band := .high, above := 0, below := 0 } ∧ o.trip = some .high) ∧
        (r.above + 1 < b.debounce →
          o.run = { stored with band := .inBand, above := r.above + 1, below := 0 } ∧ o.trip = none)) ∧
      (v < b.lowLimit → (b.debounce ≤ r.below + 1 →
          o.run = { stored with band := .low, above := 0, below := 0 } ∧ o.trip = some .low) ∧
        (r.below + 1 < b.debounce →
          o.run = { stored with band := .inBand, above := 0, below := r.below + 1 } ∧ o.trip = none)) ∧
      (b.lowLimit ≤ v → v ≤ b.highLimit →
        o.run = { stored with band := .inBand, above := 0, below := 0 } ∧ o.trip = none))

/-- A qualifying edge at a PERIOD claim and at a COUNT claim (R131, R132, R134).
An interval moment of a PERIOD, a COUNT and a LEVEL claim (R131, R133, R134, R135), with the trips of R136: a stall,
the end of a stall, a settled level. -/
def Obligations.EdgeClaimsMeasureAndStall : Prop :=
  (∀ (b : EdgeBody) (stamp : Count32) (r : EdgeRun),
      let o := edgeHanded b stamp r
      let motion := if r.stalled = true then [NoticeKind.motion] else []
      o.trip = none ∧
      (b.mode = .period → r.lastStamp = none →
        o.run = { r with lastStamp := some stamp, stallCount := 0, edgeSeen := true, stalled := false } ∧
        o.posts = motion) ∧
      (b.mode = .period → ∀ last, r.lastStamp = some last →
        o.run = { r with
          lastStamp := some stamp, stallCount := 0, edgeSeen := true, stalled := false,
          lastPeriod := some (min 16777215 (max 1 (stamp - last).toNat)),
          overwrite := r.overwrite || r.fresh, fresh := true } ∧
        o.posts = (if r.fresh = true then [.overwrite, .sample] else [.sample]) ++ motion) ∧
      (b.mode = .count → o.run = { r with running := min 65535 (r.running + 1) } ∧ o.posts = [])) ∧
  (∀ (b : EdgeBody) (filtered : Level) (r : EdgeRun),
      let o := edgeMoment b filtered r
      let counted := min 255 (r.stallCount + 1)
      let stalls := b.stallLimit ≠ 0 ∧ b.stallLimit ≤ counted
      let measured := { r with overwrite := r.overwrite || r.fresh, fresh := true }
      let sample := if r.fresh = true then [NoticeKind.overwrite, .sample] else [.sample]
      (b.mode = .period →
        (r.edgeSeen = true → o = ⟨{ r with edgeSeen := false }, [], none⟩) ∧
        (r.edgeSeen = false → r.stalled = true → o = ⟨r, [], none⟩) ∧
        (r.edgeSeen = false → r.stalled = false → stalls →
          o = ⟨{ r with stallCount := counted, stalled := true, lastStamp := none }, [.motion], some .stall⟩) ∧
        (r.edgeSeen = false → r.stalled = false → ¬stalls → o = ⟨{ r with stallCount := counted }, [], none⟩)) ∧
      (b.mode = .count →
        (r.running = 0 → r.stalled = true →
          o = ⟨{ measured with window := some 0, running := 0 }, sample, none⟩) ∧
        (r.running = 0 → r.stalled = false → stalls →
          o = ⟨{ measured with window := some 0, running := 0, stallCount := counted, stalled := true },
            sample ++ [.motion], some .stall⟩) ∧
        (r.running = 0 → r.stalled = false → ¬stalls →
          o = ⟨{ measured with window := some 0, running := 0, stallCount := counted }, sample, none⟩) ∧
        (0 < r.running →
          o = ⟨{ measured with window := some r.running, running := 0, stallCount := 0, stalled := false },
            sample ++ (if r.stalled = true then [.motion] else []), none⟩)) ∧
      (b.mode = .level →
        (filtered = r.stable → o = ⟨{ r with candidate := 0 }, [], none⟩) ∧
        (filtered ≠ r.stable → r.candidate + 1 < b.debounce →
          o = ⟨{ r with candidate := r.candidate + 1 }, [], none⟩) ∧
        (filtered ≠ r.stable → b.debounce ≤ r.candidate + 1 →
          o = ⟨{ measured with stable := filtered, candidate := 0 }, .band :: sample,
            if filtered = b.active then some .level else none⟩)))

/-- The due moments of an interval code (R83): the counts that 2^k divides, a code's moments among those of every
smaller code, and the grid unbroken at the wrap of the count.
The merged demands of a resource's members: a channel's due interval is the smallest code (R85), its level the
lowest urgency (R100), an input's sensitivity the union of the edge fields of its PERIOD and COUNT claims (R128), a
gate's supplier the first entry that votes OPEN (R35). -/
def Obligations.DueMomentsAndMergedDemands : Prop :=
  (∀ (count : Count32) (k : Nat), k ≤ 10 →
      (dueAt count k = true ↔ 2 ^ k ∣ count.toNat) ∧
      (∀ j, j ≤ k → dueAt count k = true → dueAt count j = true) ∧
      dueAt (count + BitVec.ofNat 32 (2 ^ k)) k = dueAt count k ∧ dueAt 0#32 k = true) ∧
  (∀ s : State, RangeInv s →
      (∀ (c : AnalogCh), (s.members (.analog c) = [] → s.dueInterval c = none ∧ s.level c = none) ∧
        (s.members (.analog c) ≠ [] → ∃ k u, s.dueInterval c = some k ∧ s.level c = some u ∧
          (∃ i cl b r, i ∈ s.members (.analog c) ∧ s.claim i = some cl ∧ cl.payload = .asense b r ∧ b.interval = k) ∧
          (∃ i cl b r, i ∈ s.members (.analog c) ∧ s.claim i = some cl ∧ cl.payload = .asense b r ∧ b.urgency = u) ∧
          ∀ i cl b r, i ∈ s.members (.analog c) → s.claim i = some cl → cl.payload = .asense b r →
            k ≤ b.interval ∧ u ≤ b.urgency)) ∧
      (∀ (e : EdgeIn) (new : Level), ((s.sensitivity e).any fun sel => sel.takes new) = true ↔
        ∃ i cl b r, i ∈ s.members (.edge e) ∧ s.claim i = some cl ∧ cl.payload = .esense b r ∧
          b.mode ≠ .level ∧ b.edge.takes new = true) ∧
      ∀ (g : Gate) i p, s.supplier g = some (i, p) ↔
        ∃ before after, s.gateList g = before ++ i :: after ∧ s.offeredPeriod i = some p ∧
          ∀ j ∈ before, s.offeredPeriod j = none)

/-- The grant decision (R101, R103, R105): the lists by level with their chits; in a list the first requesting unmarked
member is taken and marked, and when every requesting member is marked the list's marks are cleared first; the decision
visits list 1, then list 2 if it took C2, then list 3 if it took C3, and grants the channel it comes to; and from clear
marks the requests are taken in the plain order of levels and channels. -/
def Obligations.GrantDecisionTakesMembers : Prop :=
  ∀ s : State,
    let atLevel := fun n => (allChannels.filter fun c => decide (s.level c = some n)).map Member.channel
    let v1 := s.visit 1
    let v2 := v1.2.visit 2
    let v3 := v2.2.visit 3
    (s.levelList 1 = atLevel 1 ++ [.c2] ∧ s.levelList 2 = atLevel 2 ++ [.c3] ∧ s.levelList 3 = atLevel 3) ∧
    (∀ n before m after, s.levelList n = before ++ m :: after →
      s.requesting m = true → Arbiter.marked s.arbiter m = false →
      (∀ x ∈ before, s.requesting x = false ∨ Arbiter.marked s.arbiter x = true) →
      s.visit n = (some m, { s with arbiter := Arbiter.setMark s.arbiter m true })) ∧
    (∀ n before m after, s.levelList n = before ++ m :: after → s.requesting m = true →
      (∀ x ∈ s.levelList n, s.requesting x = true → Arbiter.marked s.arbiter x = true) →
      (∀ x ∈ before, s.requesting x = false) →
      s.visit n = (some m, { s with
        arbiter := Arbiter.setMark ((s.levelList n).foldl (fun a x => Arbiter.setMark a x false) s.arbiter) m true })) ∧
    ((∀ c, v1.1 = some (.channel c) → s.decideGrant = v1.2.grant c) ∧
      (v1.1 = some .c2 → (∀ c, v2.1 = some (.channel c) → s.decideGrant = v2.2.grant c) ∧
        (v2.1 = some .c3 → ∀ c, v3.1 = some (.channel c) → s.decideGrant = v3.2.grant c))) ∧
    (∀ (c : AnalogCh) (r : ConvRequest), s.arbiter.waiting[c] = some r →
      let t := s.grant c
      t = { s with arbiter := t.arbiter } ∧ t.arbiter.waiting = s.arbiter.waiting.set c none ∧
      t.arbiter.inFlight =
        some ⟨c, r.moment, r.due, s.clock.stamp + BitVec.ofNat 32 (s.setup.windows[c] + 2)⟩ ∧
      ((∃ c' : AnalogCh, c' ≠ c ∧ s.arbiter.waiting[c'] ≠ none) →
        ∀ m, Arbiter.marked t.arbiter m = Arbiter.marked s.arbiter m) ∧
      ((∀ c' : AnalogCh, c' ≠ c → s.arbiter.waiting[c'] = none) → ∀ m, Arbiter.marked t.arbiter m = false)) ∧
    (∀ (c : AnalogCh) (r : ConvRequest) n, s.arbiter.waiting[c] = some r → s.level c = some n → 1 ≤ n → n ≤ 3 →
      (∀ m, Arbiter.marked s.arbiter m = false) →
      (∀ c' : AnalogCh, s.arbiter.waiting[c'] ≠ none → ∃ n', s.level c' = some n' ∧ (n < n' ∨ (n = n' ∧ c ≤ c'))) →
      s.decideGrant.arbiter.inFlight =
        some ⟨c, r.moment, r.due, s.clock.stamp + BitVec.ofNat 32 (s.setup.windows[c] + 2)⟩ ∧
      (∀ c' : AnalogCh, s.decideGrant.arbiter.waiting[c'] = if c' = c then none else s.arbiter.waiting[c']) ∧
      ((∀ c' : AnalogCh, c' ≠ c → s.arbiter.waiting[c'] = none) → ∀ m, Arbiter.marked s.decideGrant.arbiter m = false))

/-! ### What every step keeps -/

/-- A channel's duty (R65): it is 0 in HALTED, IDLE, SWITCHING and DWELL and under a CLOSED gate, in every state after
a step from such a state, and it rises only at a period end that leaves its channel RUNNING. -/
def Obligations.DutyIsZeroUnlessRunning : Prop :=
  (∀ s : State, StopInv s → ∀ d : Drive,
    ((s.drives.get d).phase ∈ [Phase.halted, .idle, .switching, .dwell] → (s.drives.get d).duty = 0) ∧
    (s.gateIsOpen d.parent = false → (s.drives.get d).duty = 0)) ∧
  (∀ s t : State, StopInv s → step s = .next t → StopInv t) ∧
  ∀ (c : Instr) (s t : State) (d : Drive), StopInv s → exec c s = .next t →
    (s.drives.get d).duty < (t.drives.get d).duty →
    c = .periodEnd d.parent ∧ (t.drives.get d).phase = .running

/-- A channel's applied pattern changes only at an event that leaves its duty at 0 (R59). Its HA and HB pins show that
pattern, with a pulse while the gate's counter is below the compare count (R59), each pin by its polarity (R61); a
SET_DRIVE takes effect at the pins at once, and both then rest at their inactive levels (R61). -/
def Obligations.PatternChangesOnlyAtZeroDuty : Prop :=
  (∀ (c : Instr) (s t : State) (d : Drive), StopInv s → exec c s = .next t →
    (t.drives.get d).pattern ≠ (s.drives.get d).pattern → (t.drives.get d).duty = 0) ∧
  let shown := fun (p : Polarity) (active : Bool) =>
    match p, active with
    | .activeHigh, true => Level.high
    | .activeHigh, false => .low
    | .activeLow, true => .low
    | .activeLow, false => .high
  (∀ (s : State) (d : Drive) (ha hb : Polarity), s.setup.polarity.get d = ⟨ha, hb⟩ →
    let pulse := decide ((s.gates.get d.parent).counter < (s.drives.get d).compare)
    ((s.drives.get d).pattern = .forward → s.drivePins d = (shown ha pulse, shown hb false)) ∧
    ((s.drives.get d).pattern = .reverse → s.drivePins d = (shown ha false, shown hb pulse)) ∧
    ((s.drives.get d).pattern = .brake → s.drivePins d = (shown ha true, shown hb true)) ∧
    ((s.drives.get d).pattern = .coast → s.drivePins d = (shown ha false, shown hb false))) ∧
  ∀ (l : Link) (s : State) (d : Drive) (ha hb : Polarity), s.canTake l → l = s.setup.authority →
    s.setup.part = .config → ConfigInv s → GateInv s → StopInv s →
    ∃ t, exec (.setDrive l [(Resource.drive d).byte, polarityByte ha, polarityByte hb]) s = .next t ∧
      t.drives = s.drives ∧ t.gates = s.gates ∧ t.drivePins d = (shown ha false, shown hb false)

/-- A claim carries its owner, resource, tag, class, hold, pin, wants SAMPLE and body unchanged through every event
that R1 does not name beside them: every claim after is the claim of its slot before, unless the command is OPEN,
AMEND, PIN or EVICT; and no command changes a claim's resource or class. A refused frame is one whose window's bits fail
a check: bits that pass them all are their request's command (FrameChecksInOrder). -/
def Obligations.ClaimFieldsChangeAtTheirEvents : Prop :=
  let noRequest := fun (c : Instr) (s : State) =>
    ∀ l more, c = .frameRefused l more → frameError (s.received l ++ more) ≠ none
  (∀ (c : Instr) (s t : State), exec c s = .next t → (∀ l body, c ≠ .openClaim l body) →
    (∀ l body, c ≠ .amend l body) → (∀ l body, c ≠ .pin l body) → (∀ l body, c ≠ .evict l body) →
    noRequest c s → s.Descends t) ∧
  ∀ (c : Instr) (s t : State), exec c s = .next t → ∀ i x y, s.claim i = some x → t.claim i = some y →
    y.resource = x.resource ∧ y.cls = x.cls ∧
    ((∀ l body, c ≠ .evict l body) → noRequest c s → y.owner = x.owner ∧ y.tag = x.tag) ∧
    ((∀ l body, c ≠ .amend l body) → noRequest c s →
      y.hold = x.hold ∧ y.wantsSample = x.wantsSample ∧ y.payload.body = x.payload.body) ∧
    ((∀ l body, c ≠ .pin l body) → noRequest c s → y.pinned = x.pinned)

/-- The contention lists and the notice sets agree with the slots (R24, R26, R18, R19, R161) after every step.
A notice entry stays one of a claim of its link (R19), and a SPENT claim's final notice stays pending (R18). -/
def Obligations.StepKeepsTableAndNotices : Prop :=
  (∀ s t : State, TableInv s → step s = .next t → TableInv t) ∧
  (∀ s t : State, TableInv s → NoticeInv s → step s = .next t → NoticeInv t)

/-- Every contention list stays in order of class, holds every claim of R24 and gives its entries the states of R26. -/
def Obligations.StepKeepsListOrderAndStates : Prop :=
  ∀ s t : State, StopInv s → TableInv s → ListInv s → step s = .next t → ListInv t

/-- No link owns more occupied, unpinned slots than its quota (R6), and no two claims of a link share a nonzero tag
(R7), after every step. -/
def Obligations.StepKeepsQuotasAndTags : Prop :=
  (∀ s t : State, QuotaInv s → step s = .next t → QuotaInv t) ∧
  ∀ s t : State, TagInv s → step s = .next t → TagInv t

/-- Deadlines and end causes stay as R13 and R1 give them, and no pinned claim ends (R21). -/
def Obligations.StepKeepsDeadlines : Prop :=
  ∀ s t : State, TableInv s → ListInv s → LifeInv s → step s = .next t → LifeInv t

/-- In CONFIG the part stays empty (R166), and in RUN the setup store's records change only by a reset (R170).
The stamp counter and the cadence count stay together (R126), and the authority link stays Link A or Link B, and
is not barred (R167). -/
def Obligations.ConfigSetupClocksAndAuthority : Prop :=
  ((∀ s t : State, ConfigInv s → step s = .next t → ConfigInv t) ∧
    ∀ (c : Instr) (s t : State), s.setup.part = .run → c ≠ .powerOnReset →
      exec c s = .next t → s.resetHeld = false →
      t.setup = s.setup ∧ ∀ e : EdgeIn, t.inputs[e].filter = s.inputs[e].filter) ∧
  ((∀ s t : State, ClockInv s → step s = .next t → ClockInv t) ∧
    ∀ s t : State, AuthorityInv s → step s = .next t → AuthorityInv t)

/-- The waiting-request set (R86, R89, R104, R105): due lists name members in slot order, a free converter leaves no
request waiting, and while none waits every mark is clear. -/
def Obligations.StepKeepsRequestsAndMarks : Prop :=
  (∀ s t : State, MarksInv s → step s = .next t → MarksInv t) ∧
  ∀ s t : State, TableInv s → RangeInv s → ArbiterInv s → step s = .next t → ArbiterInv t

/-- A gate is OPEN exactly while no hold, no CLOSED vote and at least one OPEN vote stand (R41), its close pattern is
that of R49, and its period is its supplier's from the next period end on (R48). -/
def Obligations.StepKeepsGatesWithVotes : Prop :=
  ∀ s t : State, TableInv s → GateInv s → step s = .next t → GateInv t

/-- Every field stays within the range its table gives: claim records, periods, duties, compare counts and setup values;
each gate's counter below its applied period (R39), at most 20 holds in each hold list (R51), and at most 2000 gate
clocks within a cadence tick (R93, log entry 22). -/
def Obligations.StepKeepsRanges : Prop :=
  (∀ s t : State, RangeInv s → step s = .next t → RangeInv t) ∧
  ∀ s t : State, RangeInv s → StopInv s → ClockInv s → TableInv s → GateInv s → step s = .next t →
    t.clock.divider ≤ 2000 ∧
    ∀ g, (t.gates.get g).counter ≤ (t.gates.get g).applied.getD 1 - 1 ∧ (t.gates.get g).counter ≤ 65534 ∧
      (t.gates.get g).holds.length ≤ 20
end

