-- ==== Sys2Proof/Laws/Bytes.lean ====
section
/-! SUPPORT. The bytes of section 10.7: reading back what the layouts write, and what each encoding is read from. -/

namespace Sys2Proof

theorem numByte_toNat {n : Nat} (h : n < 256) : (numByte n).toNat = n := by
  simp [numByte, Nat.mod_eq_of_lt h]

theorem numByte_toNat_self (b : Byte) : numByte b.toNat = b := by
  simp [numByte]

theorem be16_numBytes {n : Nat} (h : n < 65536) : be16 (numByte (n / 256)) (numByte (n % 256)) = n := by
  unfold be16
  rw [numByte_toNat (by omega), numByte_toNat (by omega)]
  omega

/-- The two bytes of a number are those of no other number. -/
theorem numBytes_inj {m n : Nat} (hm : m < 65536) (hn : n < 65536) (h : numBytes m = numBytes n) : m = n := by
  obtain ⟨h₁, h₂⟩ : numByte (m / 256) = numByte (n / 256) ∧ numByte (m % 256) = numByte (n % 256) := by
    simpa [numBytes] using h
  rw [← be16_numBytes hm, ← be16_numBytes hn, h₁, h₂]

/-- Two bytes are the two-byte number that they are read as. -/
theorem numBytes_be16 (hi lo : Byte) : numBytes (be16 hi lo) = [hi, lo] := by
  have h1 := hi.isLt
  have h2 := lo.isLt
  have e1 : be16 hi lo / 256 = hi.toNat := by unfold be16; omega
  have e2 : be16 hi lo % 256 = lo.toNat := by unfold be16; omega
  simp only [numBytes, e1, e2, numByte_toNat_self]

theorem be16_lt (hi lo : Byte) : be16 hi lo < 65536 := by
  have h1 := hi.isLt
  have h2 := lo.isLt
  unfold be16
  omega

end Sys2Proof

namespace Sys2Proof.Machine

@[simp] theorem byteAt_cons_zero (b : Byte) (bs : List Byte) : byteAt (b :: bs) 0 = b := rfl

@[simp] theorem byteAt_cons_succ (b : Byte) (bs : List Byte) (n : Nat) : byteAt (b :: bs) (n + 1) = byteAt bs n := rfl

theorem analogOf_some (n : Nat) (c : AnalogCh) : analogOf? n = some c ↔ n = 0x20 + c.val := by
  unfold analogOf?
  split
  · rename_i h
    simp only [Option.some.injEq, Fin.ext_iff]
    omega
  · rename_i h
    have := c.isLt
    simp only [reduceCtorEq, false_iff]
    omega

theorem edgeOf_some (n : Nat) (e : EdgeIn) : edgeOf? n = some e ↔ n = 0x30 + e.val := by
  unfold edgeOf?
  split
  · rename_i h
    simp only [Option.some.injEq, Fin.ext_iff]
    omega
  · rename_i h
    have := e.isLt
    simp only [reduceCtorEq, false_iff]
    omega

theorem gateOf_some (n : Nat) (g : Gate) : gateOf? n = some g ↔ n = (Resource.gate g).byte.toNat := by
  cases g
  all_goals
    constructor
    · intro h
      unfold gateOf? at h
      split at h <;> first | rfl | simp at h
    · intro h
      subst h
      rfl

theorem driveOf_some (n : Nat) (d : Drive) : driveOf? n = some d ↔ n = (Resource.drive d).byte.toNat := by
  cases d
  all_goals
    constructor
    · intro h
      unfold driveOf? at h
      split at h <;> first | rfl | simp at h
    · intro h
      subst h
      rfl

theorem Resource.analog_byte_toNat (c : AnalogCh) : (Resource.analog c).byte.toNat = 0x20 + c.val := by
  have := c.isLt
  simp only [Resource.byte, BitVec.toNat_ofNat]
  omega

theorem Resource.edge_byte_toNat (e : EdgeIn) : (Resource.edge e).byte.toNat = 0x30 + e.val := by
  have := e.isLt
  simp only [Resource.byte, BitVec.toNat_ofNat]
  omega

/-- A byte is a resource identifier exactly when it is the identifier of that resource (R165). -/
theorem resourceOf_some (n : Nat) (r : Resource) : resourceOf? n = some r ↔ n = r.byte.toNat := by
  have hg : ∀ g, gateOf? n = some g → n ≤ 1 := by
    intro g h
    rw [gateOf_some] at h
    subst h
    cases g <;> decide
  have hd : ∀ d, driveOf? n = some d → 0x10 ≤ n ∧ n ≤ 0x12 := by
    intro d h
    rw [driveOf_some] at h
    subst h
    cases d <;> decide
  have ha : ∀ c, analogOf? n = some c → 0x20 ≤ n ∧ n < 0x2C := by
    intro c h
    rw [analogOf_some] at h
    have := c.isLt
    omega
  have he : ∀ e, edgeOf? n = some e → 0x30 ≤ n := by
    intro e h
    rw [edgeOf_some] at h
    omega
  unfold resourceOf?
  constructor
  · intro h
    rcases hg' : gateOf? n with _ | g
    · rcases hd' : driveOf? n with _ | d
      · rcases ha' : analogOf? n with _ | c
        · rcases he' : edgeOf? n with _ | e
          · simp [hg', hd', ha', he'] at h
          · rw [hg', hd', ha', he'] at h
            cases h
            rw [Resource.edge_byte_toNat, ← edgeOf_some]
            exact he'
        · rw [hg', hd', ha'] at h
          cases h
          rw [Resource.analog_byte_toNat, ← analogOf_some]
          exact ha'
      · rw [hg', hd'] at h
        cases h
        rw [← driveOf_some]
        exact hd'
    · rw [hg'] at h
      cases h
      rw [← gateOf_some]
      exact hg'
  · intro h
    rcases r with g | d | c | e
    · rw [(gateOf_some n g).mpr h]
      rfl
    · have hb := hd d ((driveOf_some n d).mpr h)
      have h0 : gateOf? n = none := by
        rcases hx : gateOf? n with _ | x
        · rfl
        · have := hg x hx; omega
      rw [h0, (driveOf_some n d).mpr h]
      rfl
    · rw [Resource.analog_byte_toNat] at h
      have hb := ha c ((analogOf_some n c).mpr h)
      have h0 : gateOf? n = none := by
        rcases hx : gateOf? n with _ | x
        · rfl
        · have := hg x hx; omega
      have h1 : driveOf? n = none := by
        rcases hx : driveOf? n with _ | x
        · rfl
        · have := hd x hx; omega
      rw [h0, h1, (analogOf_some n c).mpr h]
      rfl
    · rw [Resource.edge_byte_toNat] at h
      have hb := he e ((edgeOf_some n e).mpr h)
      have h0 : gateOf? n = none := by
        rcases hx : gateOf? n with _ | x
        · rfl
        · have := hg x hx; omega
      have h1 : driveOf? n = none := by
        rcases hx : driveOf? n with _ | x
        · rfl
        · have := hd x hx; omega
      have h2 : analogOf? n = none := by
        rcases hx : analogOf? n with _ | x
        · rfl
        · have := ha x hx; omega
      rw [h0, h1, h2, (edgeOf_some n e).mpr h]
      rfl

/-- The source of a hold is read from the identifier of its resource (R145). -/
theorem sourceOf_some (n : Nat) (src : Source) : sourceOf? n = some src ↔ n = src.resource.byte.toNat := by
  rcases src with c | e
  · constructor
    · intro h
      unfold sourceOf? at h
      rcases ha : analogOf? n with _ | x
      · rw [ha] at h
        rcases he : edgeOf? n with _ | y <;> simp [he] at h
      · rw [ha] at h
        cases h
        rw [Source.resource, Resource.analog_byte_toNat]
        exact (analogOf_some n c).mp ha
    · intro h
      rw [Source.resource, Resource.analog_byte_toNat] at h
      unfold sourceOf?
      rw [(analogOf_some n c).mpr h]
      rfl
  · constructor
    · intro h
      unfold sourceOf? at h
      rcases ha : analogOf? n with _ | x
      · rw [ha] at h
        rcases he : edgeOf? n with _ | y
        · simp [he] at h
        · rw [he] at h
          cases h
          rw [Source.resource, Resource.edge_byte_toNat]
          exact (edgeOf_some n e).mp he
      · rw [ha] at h
        cases h
    · intro h
      rw [Source.resource, Resource.edge_byte_toNat] at h
      have ha : analogOf? n = none := by
        rcases hx : analogOf? n with _ | x
        · rfl
        · have := (analogOf_some n x).mp hx
          have := x.isLt
          omega
      unfold sourceOf?
      rw [ha, (edgeOf_some n e).mpr h]
      rfl

theorem linkOf_some (n : Nat) (l : Link) : linkOf? n = some l ↔ n = (linkByte l).toNat := by
  cases l
  all_goals
    constructor
    · intro h
      unfold linkOf? at h
      split at h <;> first | rfl | simp at h
    · intro h
      subst h
      rfl

theorem kindOf_some (n : Nat) (k : Kind) : kindOf? n = some k ↔ n = k.byte.toNat := by
  cases k
  all_goals
    constructor
    · intro h
      unfold kindOf? at h
      split at h <;> first | rfl | simp at h
    · intro h
      subst h
      rfl

theorem directionOf_some (n : Nat) (p : Pattern) : directionOf? n = some p ↔ n = p.byte.toNat := by
  cases p
  all_goals
    constructor
    · intro h
      unfold directionOf? at h
      split at h <;> first | rfl | simp at h
    · intro h
      subst h
      rfl

theorem voteOf_some (n : Nat) (v : Vote) : voteOf? n = some v ↔ n = v.byte.toNat := by
  cases v
  all_goals
    constructor
    · intro h
      unfold voteOf? at h
      split at h <;> first | rfl | simp at h
    · intro h
      subst h
      rfl

theorem stopPatternOf_some (n : Nat) (p : StopPattern) : stopPatternOf? n = some p ↔ n = p.byte.toNat := by
  cases p
  all_goals
    constructor
    · intro h
      unfold stopPatternOf? at h
      split at h <;> first | rfl | simp at h
    · intro h
      subst h
      rfl

theorem targetOf_some (n : Nat) (t : Target) : targetOf? n = some t ↔ n = t.byte.toNat := by
  cases t
  all_goals
    constructor
    · intro h
      unfold targetOf? at h
      split at h <;> first | rfl | simp at h
    · intro h
      subst h
      rfl

theorem modeOf_some (n : Nat) (m : Mode) : modeOf? n = some m ↔ n = m.byte.toNat := by
  cases m
  all_goals
    constructor
    · intro h
      unfold modeOf? at h
      split at h <;> first | rfl | simp at h
    · intro h
      subst h
      rfl

theorem edgeSelOf_some (n : Nat) (x : EdgeSel) : edgeSelOf? n = some x ↔ n = x.byte.toNat := by
  cases x
  all_goals
    constructor
    · intro h
      unfold edgeSelOf? at h
      split at h <;> first | rfl | simp at h
    · intro h
      subst h
      rfl

theorem levelOf_some (n : Nat) (x : Level) : levelOf? n = some x ↔ n = x.byte.toNat := by
  cases x
  all_goals
    constructor
    · intro h
      unfold levelOf? at h
      split at h <;> first | rfl | simp at h
    · intro h
      subst h
      rfl

theorem boolOf_some (n : Nat) (x : Bool) : boolOf? n = some x ↔ n = x.toNat := by
  cases x
  all_goals
    constructor
    · intro h
      unfold boolOf? at h
      split at h <;> first | rfl | simp at h
    · intro h
      subst h
      rfl

theorem polarityOf_some (n : Nat) (x : Polarity) : polarityOf? n = some x ↔ n = (polarityByte x).toNat := by
  cases x
  all_goals
    constructor
    · intro h
      unfold polarityOf? at h
      split at h <;> first | rfl | simp at h
    · intro h
      subst h
      rfl

theorem within_some (lo hi n m : Nat) : within? lo hi n = some m ↔ n = m ∧ lo ≤ n ∧ n ≤ hi := by
  unfold within?
  split
  · simp_all
  · rename_i h
    simp only [reduceCtorEq, false_iff]
    rintro ⟨-, h1, h2⟩
    exact h ⟨h1, h2⟩

/-! ### Bits of a window -/

theorem byteOfBits_bitsOfByte (b : Byte) :
    byteOfBits (b.getLsbD 7) (b.getLsbD 6) (b.getLsbD 5) (b.getLsbD 4) (b.getLsbD 3) (b.getLsbD 2) (b.getLsbD 1)
      (b.getLsbD 0) = b := by
  revert b
  decide +kernel

theorem bytesOfBits_short (rest : List Bool) (h : rest.length < 8) : bytesOfBits rest = [] := by
  unfold bytesOfBits
  split
  · simp only [List.length_cons] at h
    omega
  · rfl

/-- A window's whole bytes are read back from the bits they were sent as (R153). -/
theorem bytesOfBits_sent (bytes : List Byte) (rest : List Bool) (h : rest.length < 8) :
    bytesOfBits (bytes.flatMap bitsOfByte ++ rest) = bytes := by
  induction bytes with
  | nil => exact bytesOfBits_short rest h
  | cons b bs ih =>
    simp only [List.flatMap_cons, bitsOfByte, List.cons_append, List.nil_append, bytesOfBits]
    exact congrArg₂ _ (byteOfBits_bitsOfByte b) ih

/-- A bit of a frame stands in its byte, the most significant first; past the end every bit is 0 (R153). -/
theorem getD_sent (bytes : List Byte) (n : Nat) :
    (bytes.flatMap bitsOfByte).getD n false = (bytes.getD (n / 8) 0#8).getLsbD (7 - n % 8) := by
  induction bytes generalizing n with
  | nil => simp
  | cons b bs ih =>
    by_cases h : n < 8
    · rw [List.flatMap_cons, List.getD_append _ _ _ _ (by simpa [bitsOfByte] using h)]
      interval_cases n <;> rfl
    · obtain ⟨m, rfl⟩ : ∃ m, n = m + 8 := ⟨n - 8, by omega⟩
      rw [List.flatMap_cons, List.getD_append_right _ _ _ _ (by simp [bitsOfByte]),
        show m + 8 - (bitsOfByte b).length = m from by simp [bitsOfByte], ih,
        Nat.add_div_right _ (by decide), Nat.add_mod_right]
      rfl

/-- The bit that MISO shows is the outgoing frame's at the number of bits received (R153). -/
theorem State.misoBit_inWindow (s : State) (l : Link) (r : Response) (hs : s.resetHeld = false)
    (ho : (s.ports.get l).outgoing = some r) :
    s.misoBit l = some (((responseBytes r).flatMap bitsOfByte).getD (s.received l).length false) := by
  rw [getD_sent]
  simp [State.misoBit, State.misoByte, hs, ho]

/-! ### Response bodies -/

/-- What is woven is the pieces and what was there, nothing else. -/
theorem weave_perm (place : Nat → Nat) (ps there : List (List Byte)) :
    (weave place ps there).Perm (ps ++ there) := by
  induction ps generalizing place there with
  | nil => exact .refl _
  | cons p ps ih =>
    refine (ih _ _).trans (.trans ((List.perm_append_left_iff ps).mpr ?_) List.perm_middle)
    rw [List.perm_middle.congr_left, List.take_append_drop]

/-- Every encoded piece of a body stands whole among its bytes. -/
theorem piece_in_replyBytes {b : ReplyBody} {p : List Byte} (h : p ∈ ReplyBody.pieces b) : p <:+: replyBytes b := by
  have among (rest : List Byte) : p <:+: piecesAmong b rest := by
    obtain ⟨before, after, e⟩ := List.append_of_mem
      ((weave_perm (Config.encodedPlace b) _ (rest.map fun x => [x])).mem_iff.mpr (List.mem_append_left _ h))
    exact ⟨before.flatten, after.flatten, by simp [piecesAmong, e]⟩
  cases b <;> first | exact among _ | cases h

/-- A body's bytes among others are its pieces' bytes and theirs. -/
theorem piecesAmong_length (b : ReplyBody) (rest : List Byte) :
    (piecesAmong b rest).length = (ReplyBody.pieces b).flatten.length + rest.length := by
  rw [piecesAmong, ((weave_perm _ _ _).flatten).length_eq, List.flatten_append, List.length_append]
  simp [Function.comp_def]

end Sys2Proof.Machine
end

