-- ==== Sys2Proof/Laws/State.lean ====
section
/-! SUPPORT. What the plain updates of the state leave unchanged, field by field. -/

namespace Sys2Proof.Machine

@[simp] theorem State.updClaim_pending (s : State) (i : SlotIx) (f : Claim → Claim) : (s.updClaim i f).pending = s.pending := rfl
@[simp] theorem State.updClaim_draws (s : State) (i : SlotIx) (f : Claim → Claim) : (s.updClaim i f).draws = s.draws := rfl
@[simp] theorem State.updClaim_resetHeld (s : State) (i : SlotIx) (f : Claim → Claim) : (s.updClaim i f).resetHeld = s.resetHeld := rfl
@[simp] theorem State.updClaim_clock (s : State) (i : SlotIx) (f : Claim → Claim) : (s.updClaim i f).clock = s.clock := rfl
@[simp] theorem State.updClaim_setup (s : State) (i : SlotIx) (f : Claim → Claim) : (s.updClaim i f).setup = s.setup := rfl
@[simp] theorem State.updClaim_driveLists (s : State) (i : SlotIx) (f : Claim → Claim) : (s.updClaim i f).driveLists = s.driveLists := rfl
@[simp] theorem State.updClaim_gateLists (s : State) (i : SlotIx) (f : Claim → Claim) : (s.updClaim i f).gateLists = s.gateLists := rfl
@[simp] theorem State.updClaim_notices (s : State) (i : SlotIx) (f : Claim → Claim) : (s.updClaim i f).notices = s.notices := rfl
@[simp] theorem State.updClaim_gates (s : State) (i : SlotIx) (f : Claim → Claim) : (s.updClaim i f).gates = s.gates := rfl
@[simp] theorem State.updClaim_drives (s : State) (i : SlotIx) (f : Claim → Claim) : (s.updClaim i f).drives = s.drives := rfl
@[simp] theorem State.updClaim_arbiter (s : State) (i : SlotIx) (f : Claim → Claim) : (s.updClaim i f).arbiter = s.arbiter := rfl
@[simp] theorem State.updClaim_inputs (s : State) (i : SlotIx) (f : Claim → Claim) : (s.updClaim i f).inputs = s.inputs := rfl
@[simp] theorem State.updClaim_trips (s : State) (i : SlotIx) (f : Claim → Claim) : (s.updClaim i f).trips = s.trips := rfl
@[simp] theorem State.updClaim_ports (s : State) (i : SlotIx) (f : Claim → Claim) : (s.updClaim i f).ports = s.ports := rfl

@[simp] theorem State.putClaim_pending (s : State) (i : SlotIx) (c : Claim) : (s.putClaim i c).pending = s.pending := rfl
@[simp] theorem State.putClaim_draws (s : State) (i : SlotIx) (c : Claim) : (s.putClaim i c).draws = s.draws := rfl
@[simp] theorem State.putClaim_resetHeld (s : State) (i : SlotIx) (c : Claim) : (s.putClaim i c).resetHeld = s.resetHeld := rfl
@[simp] theorem State.putClaim_clock (s : State) (i : SlotIx) (c : Claim) : (s.putClaim i c).clock = s.clock := rfl
@[simp] theorem State.putClaim_setup (s : State) (i : SlotIx) (c : Claim) : (s.putClaim i c).setup = s.setup := rfl
@[simp] theorem State.putClaim_driveLists (s : State) (i : SlotIx) (c : Claim) : (s.putClaim i c).driveLists = s.driveLists := rfl
@[simp] theorem State.putClaim_gateLists (s : State) (i : SlotIx) (c : Claim) : (s.putClaim i c).gateLists = s.gateLists := rfl
@[simp] theorem State.putClaim_notices (s : State) (i : SlotIx) (c : Claim) : (s.putClaim i c).notices = s.notices := rfl
@[simp] theorem State.putClaim_gates (s : State) (i : SlotIx) (c : Claim) : (s.putClaim i c).gates = s.gates := rfl
@[simp] theorem State.putClaim_drives (s : State) (i : SlotIx) (c : Claim) : (s.putClaim i c).drives = s.drives := rfl
@[simp] theorem State.putClaim_arbiter (s : State) (i : SlotIx) (c : Claim) : (s.putClaim i c).arbiter = s.arbiter := rfl
@[simp] theorem State.putClaim_inputs (s : State) (i : SlotIx) (c : Claim) : (s.putClaim i c).inputs = s.inputs := rfl
@[simp] theorem State.putClaim_trips (s : State) (i : SlotIx) (c : Claim) : (s.putClaim i c).trips = s.trips := rfl
@[simp] theorem State.putClaim_ports (s : State) (i : SlotIx) (c : Claim) : (s.putClaim i c).ports = s.ports := rfl

@[simp] theorem State.freeSlot_pending (s : State) (i : SlotIx) : (s.freeSlot i).pending = s.pending := rfl
@[simp] theorem State.freeSlot_draws (s : State) (i : SlotIx) : (s.freeSlot i).draws = s.draws := rfl
@[simp] theorem State.freeSlot_resetHeld (s : State) (i : SlotIx) : (s.freeSlot i).resetHeld = s.resetHeld := rfl
@[simp] theorem State.freeSlot_clock (s : State) (i : SlotIx) : (s.freeSlot i).clock = s.clock := rfl
@[simp] theorem State.freeSlot_setup (s : State) (i : SlotIx) : (s.freeSlot i).setup = s.setup := rfl
@[simp] theorem State.freeSlot_driveLists (s : State) (i : SlotIx) : (s.freeSlot i).driveLists = s.driveLists := rfl
@[simp] theorem State.freeSlot_gateLists (s : State) (i : SlotIx) : (s.freeSlot i).gateLists = s.gateLists := rfl
@[simp] theorem State.freeSlot_notices (s : State) (i : SlotIx) : (s.freeSlot i).notices = s.notices := rfl
@[simp] theorem State.freeSlot_gates (s : State) (i : SlotIx) : (s.freeSlot i).gates = s.gates := rfl
@[simp] theorem State.freeSlot_drives (s : State) (i : SlotIx) : (s.freeSlot i).drives = s.drives := rfl
@[simp] theorem State.freeSlot_arbiter (s : State) (i : SlotIx) : (s.freeSlot i).arbiter = s.arbiter := rfl
@[simp] theorem State.freeSlot_inputs (s : State) (i : SlotIx) : (s.freeSlot i).inputs = s.inputs := rfl
@[simp] theorem State.freeSlot_trips (s : State) (i : SlotIx) : (s.freeSlot i).trips = s.trips := rfl
@[simp] theorem State.freeSlot_ports (s : State) (i : SlotIx) : (s.freeSlot i).ports = s.ports := rfl

@[simp] theorem State.received_reset (l : Link) : State.reset.received l = [] := by cases l <;> rfl

/-- A window's bits stand in its port (R152). -/
theorem State.received_of_inWindow {s : State} {l : Link} {bits : List Bool}
    (h : (s.ports.get l).window = .inWindow bits) : s.received l = bits := by
  simp [State.received, h]

/-- A port between windows has received nothing (R152). -/
theorem State.received_of_between {s : State} {l : Link} (h : (s.ports.get l).window = .between) :
    s.received l = [] := by
  simp [State.received, h]

@[simp] theorem State.setPort_pending (s : State) (l : Link) (p : Port) : (s.setPort l p).pending = s.pending := rfl
@[simp] theorem State.setPort_draws (s : State) (l : Link) (p : Port) : (s.setPort l p).draws = s.draws := rfl
@[simp] theorem State.setPort_resetHeld (s : State) (l : Link) (p : Port) : (s.setPort l p).resetHeld = s.resetHeld := rfl
@[simp] theorem State.setPort_clock (s : State) (l : Link) (p : Port) : (s.setPort l p).clock = s.clock := rfl
@[simp] theorem State.setPort_setup (s : State) (l : Link) (p : Port) : (s.setPort l p).setup = s.setup := rfl
@[simp] theorem State.setPort_slots (s : State) (l : Link) (p : Port) : (s.setPort l p).slots = s.slots := rfl
@[simp] theorem State.setPort_driveLists (s : State) (l : Link) (p : Port) : (s.setPort l p).driveLists = s.driveLists := rfl
@[simp] theorem State.setPort_gateLists (s : State) (l : Link) (p : Port) : (s.setPort l p).gateLists = s.gateLists := rfl
@[simp] theorem State.setPort_notices (s : State) (l : Link) (p : Port) : (s.setPort l p).notices = s.notices := rfl
@[simp] theorem State.setPort_gates (s : State) (l : Link) (p : Port) : (s.setPort l p).gates = s.gates := rfl
@[simp] theorem State.setPort_drives (s : State) (l : Link) (p : Port) : (s.setPort l p).drives = s.drives := rfl
@[simp] theorem State.setPort_arbiter (s : State) (l : Link) (p : Port) : (s.setPort l p).arbiter = s.arbiter := rfl
@[simp] theorem State.setPort_inputs (s : State) (l : Link) (p : Port) : (s.setPort l p).inputs = s.inputs := rfl
@[simp] theorem State.setPort_trips (s : State) (l : Link) (p : Port) : (s.setPort l p).trips = s.trips := rfl

@[simp] theorem State.holdResponse_pending (s : State) (l : Link) (r : Response) : (s.holdResponse l r).pending = s.pending := rfl
@[simp] theorem State.holdResponse_draws (s : State) (l : Link) (r : Response) : (s.holdResponse l r).draws = s.draws := rfl
@[simp] theorem State.holdResponse_resetHeld (s : State) (l : Link) (r : Response) : (s.holdResponse l r).resetHeld = s.resetHeld := rfl
@[simp] theorem State.holdResponse_clock (s : State) (l : Link) (r : Response) : (s.holdResponse l r).clock = s.clock := rfl
@[simp] theorem State.holdResponse_setup (s : State) (l : Link) (r : Response) : (s.holdResponse l r).setup = s.setup := rfl
@[simp] theorem State.holdResponse_slots (s : State) (l : Link) (r : Response) : (s.holdResponse l r).slots = s.slots := rfl
@[simp] theorem State.holdResponse_driveLists (s : State) (l : Link) (r : Response) : (s.holdResponse l r).driveLists = s.driveLists := rfl
@[simp] theorem State.holdResponse_gateLists (s : State) (l : Link) (r : Response) : (s.holdResponse l r).gateLists = s.gateLists := rfl
@[simp] theorem State.holdResponse_notices (s : State) (l : Link) (r : Response) : (s.holdResponse l r).notices = s.notices := rfl
@[simp] theorem State.holdResponse_gates (s : State) (l : Link) (r : Response) : (s.holdResponse l r).gates = s.gates := rfl
@[simp] theorem State.holdResponse_drives (s : State) (l : Link) (r : Response) : (s.holdResponse l r).drives = s.drives := rfl
@[simp] theorem State.holdResponse_arbiter (s : State) (l : Link) (r : Response) : (s.holdResponse l r).arbiter = s.arbiter := rfl
@[simp] theorem State.holdResponse_inputs (s : State) (l : Link) (r : Response) : (s.holdResponse l r).inputs = s.inputs := rfl
@[simp] theorem State.holdResponse_trips (s : State) (l : Link) (r : Response) : (s.holdResponse l r).trips = s.trips := rfl

@[simp] theorem State.post_pending (s : State) (k : NoticeKind) (i : SlotIx) : (s.post k i).pending = s.pending := rfl
@[simp] theorem State.post_draws (s : State) (k : NoticeKind) (i : SlotIx) : (s.post k i).draws = s.draws := rfl
@[simp] theorem State.post_resetHeld (s : State) (k : NoticeKind) (i : SlotIx) : (s.post k i).resetHeld = s.resetHeld := rfl
@[simp] theorem State.post_clock (s : State) (k : NoticeKind) (i : SlotIx) : (s.post k i).clock = s.clock := rfl
@[simp] theorem State.post_setup (s : State) (k : NoticeKind) (i : SlotIx) : (s.post k i).setup = s.setup := rfl
@[simp] theorem State.post_slots (s : State) (k : NoticeKind) (i : SlotIx) : (s.post k i).slots = s.slots := rfl
@[simp] theorem State.post_driveLists (s : State) (k : NoticeKind) (i : SlotIx) : (s.post k i).driveLists = s.driveLists := rfl
@[simp] theorem State.post_gateLists (s : State) (k : NoticeKind) (i : SlotIx) : (s.post k i).gateLists = s.gateLists := rfl
@[simp] theorem State.post_gates (s : State) (k : NoticeKind) (i : SlotIx) : (s.post k i).gates = s.gates := rfl
@[simp] theorem State.post_drives (s : State) (k : NoticeKind) (i : SlotIx) : (s.post k i).drives = s.drives := rfl
@[simp] theorem State.post_arbiter (s : State) (k : NoticeKind) (i : SlotIx) : (s.post k i).arbiter = s.arbiter := rfl
@[simp] theorem State.post_inputs (s : State) (k : NoticeKind) (i : SlotIx) : (s.post k i).inputs = s.inputs := rfl
@[simp] theorem State.post_trips (s : State) (k : NoticeKind) (i : SlotIx) : (s.post k i).trips = s.trips := rfl
@[simp] theorem State.post_ports (s : State) (k : NoticeKind) (i : SlotIx) : (s.post k i).ports = s.ports := rfl

@[simp] theorem State.setGate_pending (s : State) (g : Gate) (u : GateUnit) : (s.setGate g u).pending = s.pending := rfl
@[simp] theorem State.setGate_draws (s : State) (g : Gate) (u : GateUnit) : (s.setGate g u).draws = s.draws := rfl
@[simp] theorem State.setGate_resetHeld (s : State) (g : Gate) (u : GateUnit) : (s.setGate g u).resetHeld = s.resetHeld := rfl
@[simp] theorem State.setGate_clock (s : State) (g : Gate) (u : GateUnit) : (s.setGate g u).clock = s.clock := rfl
@[simp] theorem State.setGate_setup (s : State) (g : Gate) (u : GateUnit) : (s.setGate g u).setup = s.setup := rfl
@[simp] theorem State.setGate_slots (s : State) (g : Gate) (u : GateUnit) : (s.setGate g u).slots = s.slots := rfl
@[simp] theorem State.setGate_driveLists (s : State) (g : Gate) (u : GateUnit) : (s.setGate g u).driveLists = s.driveLists := rfl
@[simp] theorem State.setGate_gateLists (s : State) (g : Gate) (u : GateUnit) : (s.setGate g u).gateLists = s.gateLists := rfl
@[simp] theorem State.setGate_notices (s : State) (g : Gate) (u : GateUnit) : (s.setGate g u).notices = s.notices := rfl
@[simp] theorem State.setGate_drives (s : State) (g : Gate) (u : GateUnit) : (s.setGate g u).drives = s.drives := rfl
@[simp] theorem State.setGate_arbiter (s : State) (g : Gate) (u : GateUnit) : (s.setGate g u).arbiter = s.arbiter := rfl
@[simp] theorem State.setGate_inputs (s : State) (g : Gate) (u : GateUnit) : (s.setGate g u).inputs = s.inputs := rfl
@[simp] theorem State.setGate_trips (s : State) (g : Gate) (u : GateUnit) : (s.setGate g u).trips = s.trips := rfl
@[simp] theorem State.setGate_ports (s : State) (g : Gate) (u : GateUnit) : (s.setGate g u).ports = s.ports := rfl

@[simp] theorem State.setDrive_pending (s : State) (d : Drive) (c : DriveChannel) : (s.setDrive d c).pending = s.pending := rfl
@[simp] theorem State.setDrive_draws (s : State) (d : Drive) (c : DriveChannel) : (s.setDrive d c).draws = s.draws := rfl
@[simp] theorem State.setDrive_resetHeld (s : State) (d : Drive) (c : DriveChannel) : (s.setDrive d c).resetHeld = s.resetHeld := rfl
@[simp] theorem State.setDrive_clock (s : State) (d : Drive) (c : DriveChannel) : (s.setDrive d c).clock = s.clock := rfl
@[simp] theorem State.setDrive_setup (s : State) (d : Drive) (c : DriveChannel) : (s.setDrive d c).setup = s.setup := rfl
@[simp] theorem State.setDrive_slots (s : State) (d : Drive) (c : DriveChannel) : (s.setDrive d c).slots = s.slots := rfl
@[simp] theorem State.setDrive_driveLists (s : State) (d : Drive) (c : DriveChannel) : (s.setDrive d c).driveLists = s.driveLists := rfl
@[simp] theorem State.setDrive_gateLists (s : State) (d : Drive) (c : DriveChannel) : (s.setDrive d c).gateLists = s.gateLists := rfl
@[simp] theorem State.setDrive_notices (s : State) (d : Drive) (c : DriveChannel) : (s.setDrive d c).notices = s.notices := rfl
@[simp] theorem State.setDrive_gates (s : State) (d : Drive) (c : DriveChannel) : (s.setDrive d c).gates = s.gates := rfl
@[simp] theorem State.setDrive_arbiter (s : State) (d : Drive) (c : DriveChannel) : (s.setDrive d c).arbiter = s.arbiter := rfl
@[simp] theorem State.setDrive_inputs (s : State) (d : Drive) (c : DriveChannel) : (s.setDrive d c).inputs = s.inputs := rfl
@[simp] theorem State.setDrive_trips (s : State) (d : Drive) (c : DriveChannel) : (s.setDrive d c).trips = s.trips := rfl
@[simp] theorem State.setDrive_ports (s : State) (d : Drive) (c : DriveChannel) : (s.setDrive d c).ports = s.ports := rfl

@[simp] theorem State.setWaiting_pending (s : State) (c : AnalogCh) (r : Option ConvRequest) : (s.setWaiting c r).pending = s.pending := rfl
@[simp] theorem State.setWaiting_draws (s : State) (c : AnalogCh) (r : Option ConvRequest) : (s.setWaiting c r).draws = s.draws := rfl
@[simp] theorem State.setWaiting_resetHeld (s : State) (c : AnalogCh) (r : Option ConvRequest) : (s.setWaiting c r).resetHeld = s.resetHeld := rfl
@[simp] theorem State.setWaiting_clock (s : State) (c : AnalogCh) (r : Option ConvRequest) : (s.setWaiting c r).clock = s.clock := rfl
@[simp] theorem State.setWaiting_setup (s : State) (c : AnalogCh) (r : Option ConvRequest) : (s.setWaiting c r).setup = s.setup := rfl
@[simp] theorem State.setWaiting_slots (s : State) (c : AnalogCh) (r : Option ConvRequest) : (s.setWaiting c r).slots = s.slots := rfl
@[simp] theorem State.setWaiting_driveLists (s : State) (c : AnalogCh) (r : Option ConvRequest) : (s.setWaiting c r).driveLists = s.driveLists := rfl
@[simp] theorem State.setWaiting_gateLists (s : State) (c : AnalogCh) (r : Option ConvRequest) : (s.setWaiting c r).gateLists = s.gateLists := rfl
@[simp] theorem State.setWaiting_notices (s : State) (c : AnalogCh) (r : Option ConvRequest) : (s.setWaiting c r).notices = s.notices := rfl
@[simp] theorem State.setWaiting_gates (s : State) (c : AnalogCh) (r : Option ConvRequest) : (s.setWaiting c r).gates = s.gates := rfl
@[simp] theorem State.setWaiting_drives (s : State) (c : AnalogCh) (r : Option ConvRequest) : (s.setWaiting c r).drives = s.drives := rfl
@[simp] theorem State.setWaiting_inputs (s : State) (c : AnalogCh) (r : Option ConvRequest) : (s.setWaiting c r).inputs = s.inputs := rfl
@[simp] theorem State.setWaiting_trips (s : State) (c : AnalogCh) (r : Option ConvRequest) : (s.setWaiting c r).trips = s.trips := rfl
@[simp] theorem State.setWaiting_ports (s : State) (c : AnalogCh) (r : Option ConvRequest) : (s.setWaiting c r).ports = s.ports := rfl

@[simp] theorem State.setInput_pending (s : State) (e : EdgeIn) (x : EdgeInput) : (s.setInput e x).pending = s.pending := rfl
@[simp] theorem State.setInput_draws (s : State) (e : EdgeIn) (x : EdgeInput) : (s.setInput e x).draws = s.draws := rfl
@[simp] theorem State.setInput_resetHeld (s : State) (e : EdgeIn) (x : EdgeInput) : (s.setInput e x).resetHeld = s.resetHeld := rfl
@[simp] theorem State.setInput_clock (s : State) (e : EdgeIn) (x : EdgeInput) : (s.setInput e x).clock = s.clock := rfl
@[simp] theorem State.setInput_setup (s : State) (e : EdgeIn) (x : EdgeInput) : (s.setInput e x).setup = s.setup := rfl
@[simp] theorem State.setInput_slots (s : State) (e : EdgeIn) (x : EdgeInput) : (s.setInput e x).slots = s.slots := rfl
@[simp] theorem State.setInput_driveLists (s : State) (e : EdgeIn) (x : EdgeInput) : (s.setInput e x).driveLists = s.driveLists := rfl
@[simp] theorem State.setInput_gateLists (s : State) (e : EdgeIn) (x : EdgeInput) : (s.setInput e x).gateLists = s.gateLists := rfl
@[simp] theorem State.setInput_notices (s : State) (e : EdgeIn) (x : EdgeInput) : (s.setInput e x).notices = s.notices := rfl
@[simp] theorem State.setInput_gates (s : State) (e : EdgeIn) (x : EdgeInput) : (s.setInput e x).gates = s.gates := rfl
@[simp] theorem State.setInput_drives (s : State) (e : EdgeIn) (x : EdgeInput) : (s.setInput e x).drives = s.drives := rfl
@[simp] theorem State.setInput_arbiter (s : State) (e : EdgeIn) (x : EdgeInput) : (s.setInput e x).arbiter = s.arbiter := rfl
@[simp] theorem State.setInput_trips (s : State) (e : EdgeIn) (x : EdgeInput) : (s.setInput e x).trips = s.trips := rfl
@[simp] theorem State.setInput_ports (s : State) (e : EdgeIn) (x : EdgeInput) : (s.setInput e x).ports = s.ports := rfl

@[simp] theorem State.setSetup_pending (s : State) (x : Setup) : (s.setSetup x).pending = s.pending := rfl
@[simp] theorem State.setSetup_draws (s : State) (x : Setup) : (s.setSetup x).draws = s.draws := rfl
@[simp] theorem State.setSetup_resetHeld (s : State) (x : Setup) : (s.setSetup x).resetHeld = s.resetHeld := rfl
@[simp] theorem State.setSetup_clock (s : State) (x : Setup) : (s.setSetup x).clock = s.clock := rfl
@[simp] theorem State.setSetup_slots (s : State) (x : Setup) : (s.setSetup x).slots = s.slots := rfl
@[simp] theorem State.setSetup_driveLists (s : State) (x : Setup) : (s.setSetup x).driveLists = s.driveLists := rfl
@[simp] theorem State.setSetup_gateLists (s : State) (x : Setup) : (s.setSetup x).gateLists = s.gateLists := rfl
@[simp] theorem State.setSetup_notices (s : State) (x : Setup) : (s.setSetup x).notices = s.notices := rfl
@[simp] theorem State.setSetup_gates (s : State) (x : Setup) : (s.setSetup x).gates = s.gates := rfl
@[simp] theorem State.setSetup_drives (s : State) (x : Setup) : (s.setSetup x).drives = s.drives := rfl
@[simp] theorem State.setSetup_arbiter (s : State) (x : Setup) : (s.setSetup x).arbiter = s.arbiter := rfl
@[simp] theorem State.setSetup_inputs (s : State) (x : Setup) : (s.setSetup x).inputs = s.inputs := rfl
@[simp] theorem State.setSetup_trips (s : State) (x : Setup) : (s.setSetup x).trips = s.trips := rfl
@[simp] theorem State.setSetup_ports (s : State) (x : Setup) : (s.setSetup x).ports = s.ports := rfl

@[simp] theorem State.raiseTrip_pending (s : State) (g : Target) (t : Trip) : (s.raiseTrip g t).pending = s.pending := rfl
@[simp] theorem State.raiseTrip_draws (s : State) (g : Target) (t : Trip) : (s.raiseTrip g t).draws = s.draws := rfl
@[simp] theorem State.raiseTrip_resetHeld (s : State) (g : Target) (t : Trip) : (s.raiseTrip g t).resetHeld = s.resetHeld := rfl
@[simp] theorem State.raiseTrip_clock (s : State) (g : Target) (t : Trip) : (s.raiseTrip g t).clock = s.clock := rfl
@[simp] theorem State.raiseTrip_setup (s : State) (g : Target) (t : Trip) : (s.raiseTrip g t).setup = s.setup := rfl
@[simp] theorem State.raiseTrip_slots (s : State) (g : Target) (t : Trip) : (s.raiseTrip g t).slots = s.slots := rfl
@[simp] theorem State.raiseTrip_driveLists (s : State) (g : Target) (t : Trip) : (s.raiseTrip g t).driveLists = s.driveLists := rfl
@[simp] theorem State.raiseTrip_gateLists (s : State) (g : Target) (t : Trip) : (s.raiseTrip g t).gateLists = s.gateLists := rfl
@[simp] theorem State.raiseTrip_notices (s : State) (g : Target) (t : Trip) : (s.raiseTrip g t).notices = s.notices := rfl
@[simp] theorem State.raiseTrip_gates (s : State) (g : Target) (t : Trip) : (s.raiseTrip g t).gates = s.gates := rfl
@[simp] theorem State.raiseTrip_drives (s : State) (g : Target) (t : Trip) : (s.raiseTrip g t).drives = s.drives := rfl
@[simp] theorem State.raiseTrip_arbiter (s : State) (g : Target) (t : Trip) : (s.raiseTrip g t).arbiter = s.arbiter := rfl
@[simp] theorem State.raiseTrip_inputs (s : State) (g : Target) (t : Trip) : (s.raiseTrip g t).inputs = s.inputs := rfl
@[simp] theorem State.raiseTrip_ports (s : State) (g : Target) (t : Trip) : (s.raiseTrip g t).ports = s.ports := rfl

@[simp] theorem State.runCounters_pending (s : State) (n : Nat) : (s.runCounters n).pending = s.pending := rfl
@[simp] theorem State.runCounters_draws (s : State) (n : Nat) : (s.runCounters n).draws = s.draws := rfl
@[simp] theorem State.runCounters_resetHeld (s : State) (n : Nat) : (s.runCounters n).resetHeld = s.resetHeld := rfl
@[simp] theorem State.runCounters_clock (s : State) (n : Nat) : (s.runCounters n).clock = s.clock := rfl
@[simp] theorem State.runCounters_setup (s : State) (n : Nat) : (s.runCounters n).setup = s.setup := rfl
@[simp] theorem State.runCounters_slots (s : State) (n : Nat) : (s.runCounters n).slots = s.slots := rfl
@[simp] theorem State.runCounters_driveLists (s : State) (n : Nat) : (s.runCounters n).driveLists = s.driveLists := rfl
@[simp] theorem State.runCounters_gateLists (s : State) (n : Nat) : (s.runCounters n).gateLists = s.gateLists := rfl
@[simp] theorem State.runCounters_notices (s : State) (n : Nat) : (s.runCounters n).notices = s.notices := rfl
@[simp] theorem State.runCounters_drives (s : State) (n : Nat) : (s.runCounters n).drives = s.drives := rfl
@[simp] theorem State.runCounters_arbiter (s : State) (n : Nat) : (s.runCounters n).arbiter = s.arbiter := rfl
@[simp] theorem State.runCounters_inputs (s : State) (n : Nat) : (s.runCounters n).inputs = s.inputs := rfl
@[simp] theorem State.runCounters_trips (s : State) (n : Nat) : (s.runCounters n).trips = s.trips := rfl
@[simp] theorem State.runCounters_ports (s : State) (n : Nat) : (s.runCounters n).ports = s.ports := rfl

@[simp] theorem State.passClocks_pending (s : State) (n : Nat) : (s.passClocks n).pending = s.pending := rfl
@[simp] theorem State.passClocks_draws (s : State) (n : Nat) : (s.passClocks n).draws = s.draws := rfl
@[simp] theorem State.passClocks_resetHeld (s : State) (n : Nat) : (s.passClocks n).resetHeld = s.resetHeld := rfl
@[simp] theorem State.passClocks_setup (s : State) (n : Nat) : (s.passClocks n).setup = s.setup := rfl
@[simp] theorem State.passClocks_slots (s : State) (n : Nat) : (s.passClocks n).slots = s.slots := rfl
@[simp] theorem State.passClocks_driveLists (s : State) (n : Nat) : (s.passClocks n).driveLists = s.driveLists := rfl
@[simp] theorem State.passClocks_gateLists (s : State) (n : Nat) : (s.passClocks n).gateLists = s.gateLists := rfl
@[simp] theorem State.passClocks_notices (s : State) (n : Nat) : (s.passClocks n).notices = s.notices := rfl
@[simp] theorem State.passClocks_drives (s : State) (n : Nat) : (s.passClocks n).drives = s.drives := rfl
@[simp] theorem State.passClocks_arbiter (s : State) (n : Nat) : (s.passClocks n).arbiter = s.arbiter := rfl
@[simp] theorem State.passClocks_inputs (s : State) (n : Nat) : (s.passClocks n).inputs = s.inputs := rfl
@[simp] theorem State.passClocks_trips (s : State) (n : Nat) : (s.passClocks n).trips = s.trips := rfl
@[simp] theorem State.passClocks_ports (s : State) (n : Nat) : (s.passClocks n).ports = s.ports := rfl

@[simp] theorem State.passToMicro_pending (s : State) (n : Nat) : (s.passToMicro n).pending = s.pending := rfl
@[simp] theorem State.passToMicro_draws (s : State) (n : Nat) : (s.passToMicro n).draws = s.draws := rfl
@[simp] theorem State.passToMicro_resetHeld (s : State) (n : Nat) : (s.passToMicro n).resetHeld = s.resetHeld := rfl
@[simp] theorem State.passToMicro_setup (s : State) (n : Nat) : (s.passToMicro n).setup = s.setup := rfl
@[simp] theorem State.passToMicro_slots (s : State) (n : Nat) : (s.passToMicro n).slots = s.slots := rfl
@[simp] theorem State.passToMicro_driveLists (s : State) (n : Nat) : (s.passToMicro n).driveLists = s.driveLists := rfl
@[simp] theorem State.passToMicro_gateLists (s : State) (n : Nat) : (s.passToMicro n).gateLists = s.gateLists := rfl
@[simp] theorem State.passToMicro_notices (s : State) (n : Nat) : (s.passToMicro n).notices = s.notices := rfl
@[simp] theorem State.passToMicro_drives (s : State) (n : Nat) : (s.passToMicro n).drives = s.drives := rfl
@[simp] theorem State.passToMicro_arbiter (s : State) (n : Nat) : (s.passToMicro n).arbiter = s.arbiter := rfl
@[simp] theorem State.passToMicro_inputs (s : State) (n : Nat) : (s.passToMicro n).inputs = s.inputs := rfl
@[simp] theorem State.passToMicro_trips (s : State) (n : Nat) : (s.passToMicro n).trips = s.trips := rfl
@[simp] theorem State.passToMicro_ports (s : State) (n : Nat) : (s.passToMicro n).ports = s.ports := rfl

@[simp] theorem State.nextTick_pending (w : Bool) (s : State) : (s.nextTick w).pending = s.pending := rfl
@[simp] theorem State.nextTick_draws (w : Bool) (s : State) : (s.nextTick w).draws = s.draws := rfl
@[simp] theorem State.nextTick_resetHeld (w : Bool) (s : State) : (s.nextTick w).resetHeld = s.resetHeld := rfl
@[simp] theorem State.nextTick_setup (w : Bool) (s : State) : (s.nextTick w).setup = s.setup := rfl
@[simp] theorem State.nextTick_slots (w : Bool) (s : State) : (s.nextTick w).slots = s.slots := rfl
@[simp] theorem State.nextTick_driveLists (w : Bool) (s : State) : (s.nextTick w).driveLists = s.driveLists := rfl
@[simp] theorem State.nextTick_gateLists (w : Bool) (s : State) : (s.nextTick w).gateLists = s.gateLists := rfl
@[simp] theorem State.nextTick_notices (w : Bool) (s : State) : (s.nextTick w).notices = s.notices := rfl
@[simp] theorem State.nextTick_drives (w : Bool) (s : State) : (s.nextTick w).drives = s.drives := rfl
@[simp] theorem State.nextTick_arbiter (w : Bool) (s : State) : (s.nextTick w).arbiter = s.arbiter := rfl
@[simp] theorem State.nextTick_inputs (w : Bool) (s : State) : (s.nextTick w).inputs = s.inputs := rfl
@[simp] theorem State.nextTick_trips (w : Bool) (s : State) : (s.nextTick w).trips = s.trips := rfl
@[simp] theorem State.nextTick_ports (w : Bool) (s : State) : (s.nextTick w).ports = s.ports := rfl

@[simp] theorem State.takeCount_pending (s : State) : (s.takeCount).pending = s.pending := by
  unfold State.takeCount; split <;> rfl
@[simp] theorem State.takeCount_draws (s : State) : (s.takeCount).draws = s.draws := by
  unfold State.takeCount; split <;> rfl
@[simp] theorem State.takeCount_resetHeld (s : State) : (s.takeCount).resetHeld = s.resetHeld := by
  unfold State.takeCount; split <;> rfl
@[simp] theorem State.takeCount_setup (s : State) : (s.takeCount).setup = s.setup := by
  unfold State.takeCount; split <;> rfl
@[simp] theorem State.takeCount_slots (s : State) : (s.takeCount).slots = s.slots := by
  unfold State.takeCount; split <;> rfl
@[simp] theorem State.takeCount_driveLists (s : State) : (s.takeCount).driveLists = s.driveLists := by
  unfold State.takeCount; split <;> rfl
@[simp] theorem State.takeCount_gateLists (s : State) : (s.takeCount).gateLists = s.gateLists := by
  unfold State.takeCount; split <;> rfl
@[simp] theorem State.takeCount_notices (s : State) : (s.takeCount).notices = s.notices := by
  unfold State.takeCount; split <;> rfl
@[simp] theorem State.takeCount_drives (s : State) : (s.takeCount).drives = s.drives := by
  unfold State.takeCount; split <;> rfl
@[simp] theorem State.takeCount_arbiter (s : State) : (s.takeCount).arbiter = s.arbiter := by
  unfold State.takeCount; split <;> rfl
@[simp] theorem State.takeCount_inputs (s : State) : (s.takeCount).inputs = s.inputs := by
  unfold State.takeCount; split <;> rfl
@[simp] theorem State.takeCount_trips (s : State) : (s.takeCount).trips = s.trips := by
  unfold State.takeCount; split <;> rfl
@[simp] theorem State.takeCount_ports (s : State) : (s.takeCount).ports = s.ports := by
  unfold State.takeCount; split <;> rfl

@[simp] theorem State.beginEnd_pending (s : State) (i : SlotIx) (e : EndCause) : (s.beginEnd i e).pending = s.pending := rfl
@[simp] theorem State.beginEnd_draws (s : State) (i : SlotIx) (e : EndCause) : (s.beginEnd i e).draws = s.draws := rfl
@[simp] theorem State.beginEnd_resetHeld (s : State) (i : SlotIx) (e : EndCause) : (s.beginEnd i e).resetHeld = s.resetHeld := rfl
@[simp] theorem State.beginEnd_clock (s : State) (i : SlotIx) (e : EndCause) : (s.beginEnd i e).clock = s.clock := rfl
@[simp] theorem State.beginEnd_setup (s : State) (i : SlotIx) (e : EndCause) : (s.beginEnd i e).setup = s.setup := rfl
@[simp] theorem State.beginEnd_driveLists (s : State) (i : SlotIx) (e : EndCause) : (s.beginEnd i e).driveLists = s.driveLists := rfl
@[simp] theorem State.beginEnd_gateLists (s : State) (i : SlotIx) (e : EndCause) : (s.beginEnd i e).gateLists = s.gateLists := rfl
@[simp] theorem State.beginEnd_notices (s : State) (i : SlotIx) (e : EndCause) : (s.beginEnd i e).notices = s.notices := rfl
@[simp] theorem State.beginEnd_gates (s : State) (i : SlotIx) (e : EndCause) : (s.beginEnd i e).gates = s.gates := rfl
@[simp] theorem State.beginEnd_drives (s : State) (i : SlotIx) (e : EndCause) : (s.beginEnd i e).drives = s.drives := rfl
@[simp] theorem State.beginEnd_arbiter (s : State) (i : SlotIx) (e : EndCause) : (s.beginEnd i e).arbiter = s.arbiter := rfl
@[simp] theorem State.beginEnd_inputs (s : State) (i : SlotIx) (e : EndCause) : (s.beginEnd i e).inputs = s.inputs := rfl
@[simp] theorem State.beginEnd_trips (s : State) (i : SlotIx) (e : EndCause) : (s.beginEnd i e).trips = s.trips := rfl
@[simp] theorem State.beginEnd_ports (s : State) (i : SlotIx) (e : EndCause) : (s.beginEnd i e).ports = s.ports := rfl

@[simp] theorem State.completeClaim_pending (s : State) (i : SlotIx) : (s.completeClaim i).pending = s.pending := rfl
@[simp] theorem State.completeClaim_draws (s : State) (i : SlotIx) : (s.completeClaim i).draws = s.draws := rfl
@[simp] theorem State.completeClaim_resetHeld (s : State) (i : SlotIx) : (s.completeClaim i).resetHeld = s.resetHeld := rfl
@[simp] theorem State.completeClaim_clock (s : State) (i : SlotIx) : (s.completeClaim i).clock = s.clock := rfl
@[simp] theorem State.completeClaim_setup (s : State) (i : SlotIx) : (s.completeClaim i).setup = s.setup := rfl
@[simp] theorem State.completeClaim_driveLists (s : State) (i : SlotIx) : (s.completeClaim i).driveLists = s.driveLists := rfl
@[simp] theorem State.completeClaim_gateLists (s : State) (i : SlotIx) : (s.completeClaim i).gateLists = s.gateLists := rfl
@[simp] theorem State.completeClaim_gates (s : State) (i : SlotIx) : (s.completeClaim i).gates = s.gates := rfl
@[simp] theorem State.completeClaim_drives (s : State) (i : SlotIx) : (s.completeClaim i).drives = s.drives := rfl
@[simp] theorem State.completeClaim_arbiter (s : State) (i : SlotIx) : (s.completeClaim i).arbiter = s.arbiter := rfl
@[simp] theorem State.completeClaim_inputs (s : State) (i : SlotIx) : (s.completeClaim i).inputs = s.inputs := rfl
@[simp] theorem State.completeClaim_trips (s : State) (i : SlotIx) : (s.completeClaim i).trips = s.trips := rfl
@[simp] theorem State.completeClaim_ports (s : State) (i : SlotIx) : (s.completeClaim i).ports = s.ports := rfl

@[simp] theorem State.renewClaim_pending (s : State) (i : SlotIx) : (s.renewClaim i).pending = s.pending := rfl
@[simp] theorem State.renewClaim_draws (s : State) (i : SlotIx) : (s.renewClaim i).draws = s.draws := rfl
@[simp] theorem State.renewClaim_resetHeld (s : State) (i : SlotIx) : (s.renewClaim i).resetHeld = s.resetHeld := rfl
@[simp] theorem State.renewClaim_clock (s : State) (i : SlotIx) : (s.renewClaim i).clock = s.clock := rfl
@[simp] theorem State.renewClaim_setup (s : State) (i : SlotIx) : (s.renewClaim i).setup = s.setup := rfl
@[simp] theorem State.renewClaim_driveLists (s : State) (i : SlotIx) : (s.renewClaim i).driveLists = s.driveLists := rfl
@[simp] theorem State.renewClaim_gateLists (s : State) (i : SlotIx) : (s.renewClaim i).gateLists = s.gateLists := rfl
@[simp] theorem State.renewClaim_notices (s : State) (i : SlotIx) : (s.renewClaim i).notices = s.notices := rfl
@[simp] theorem State.renewClaim_gates (s : State) (i : SlotIx) : (s.renewClaim i).gates = s.gates := rfl
@[simp] theorem State.renewClaim_drives (s : State) (i : SlotIx) : (s.renewClaim i).drives = s.drives := rfl
@[simp] theorem State.renewClaim_arbiter (s : State) (i : SlotIx) : (s.renewClaim i).arbiter = s.arbiter := rfl
@[simp] theorem State.renewClaim_inputs (s : State) (i : SlotIx) : (s.renewClaim i).inputs = s.inputs := rfl
@[simp] theorem State.renewClaim_trips (s : State) (i : SlotIx) : (s.renewClaim i).trips = s.trips := rfl
@[simp] theorem State.renewClaim_ports (s : State) (i : SlotIx) : (s.renewClaim i).ports = s.ports := rfl

@[simp] theorem State.stagePeriod_pending (s : State) (g : Gate) : (s.stagePeriod g).pending = s.pending := rfl
@[simp] theorem State.stagePeriod_draws (s : State) (g : Gate) : (s.stagePeriod g).draws = s.draws := rfl
@[simp] theorem State.stagePeriod_resetHeld (s : State) (g : Gate) : (s.stagePeriod g).resetHeld = s.resetHeld := rfl
@[simp] theorem State.stagePeriod_clock (s : State) (g : Gate) : (s.stagePeriod g).clock = s.clock := rfl
@[simp] theorem State.stagePeriod_setup (s : State) (g : Gate) : (s.stagePeriod g).setup = s.setup := rfl
@[simp] theorem State.stagePeriod_slots (s : State) (g : Gate) : (s.stagePeriod g).slots = s.slots := rfl
@[simp] theorem State.stagePeriod_driveLists (s : State) (g : Gate) : (s.stagePeriod g).driveLists = s.driveLists := rfl
@[simp] theorem State.stagePeriod_gateLists (s : State) (g : Gate) : (s.stagePeriod g).gateLists = s.gateLists := rfl
@[simp] theorem State.stagePeriod_notices (s : State) (g : Gate) : (s.stagePeriod g).notices = s.notices := rfl
@[simp] theorem State.stagePeriod_drives (s : State) (g : Gate) : (s.stagePeriod g).drives = s.drives := rfl
@[simp] theorem State.stagePeriod_arbiter (s : State) (g : Gate) : (s.stagePeriod g).arbiter = s.arbiter := rfl
@[simp] theorem State.stagePeriod_inputs (s : State) (g : Gate) : (s.stagePeriod g).inputs = s.inputs := rfl
@[simp] theorem State.stagePeriod_trips (s : State) (g : Gate) : (s.stagePeriod g).trips = s.trips := rfl
@[simp] theorem State.stagePeriod_ports (s : State) (g : Gate) : (s.stagePeriod g).ports = s.ports := rfl

@[simp] theorem State.formCompare_pending (s : State) (d : Drive) : (s.formCompare d).pending = s.pending := rfl
@[simp] theorem State.formCompare_draws (s : State) (d : Drive) : (s.formCompare d).draws = s.draws := rfl
@[simp] theorem State.formCompare_resetHeld (s : State) (d : Drive) : (s.formCompare d).resetHeld = s.resetHeld := rfl
@[simp] theorem State.formCompare_clock (s : State) (d : Drive) : (s.formCompare d).clock = s.clock := rfl
@[simp] theorem State.formCompare_setup (s : State) (d : Drive) : (s.formCompare d).setup = s.setup := rfl
@[simp] theorem State.formCompare_slots (s : State) (d : Drive) : (s.formCompare d).slots = s.slots := rfl
@[simp] theorem State.formCompare_driveLists (s : State) (d : Drive) : (s.formCompare d).driveLists = s.driveLists := rfl
@[simp] theorem State.formCompare_gateLists (s : State) (d : Drive) : (s.formCompare d).gateLists = s.gateLists := rfl
@[simp] theorem State.formCompare_notices (s : State) (d : Drive) : (s.formCompare d).notices = s.notices := rfl
@[simp] theorem State.formCompare_gates (s : State) (d : Drive) : (s.formCompare d).gates = s.gates := rfl
@[simp] theorem State.formCompare_arbiter (s : State) (d : Drive) : (s.formCompare d).arbiter = s.arbiter := rfl
@[simp] theorem State.formCompare_inputs (s : State) (d : Drive) : (s.formCompare d).inputs = s.inputs := rfl
@[simp] theorem State.formCompare_trips (s : State) (d : Drive) : (s.formCompare d).trips = s.trips := rfl
@[simp] theorem State.formCompare_ports (s : State) (d : Drive) : (s.formCompare d).ports = s.ports := rfl

@[simp] theorem State.missMoment_pending (s : State) (i : SlotIx) : (s.missMoment i).pending = s.pending := rfl
@[simp] theorem State.missMoment_draws (s : State) (i : SlotIx) : (s.missMoment i).draws = s.draws := rfl
@[simp] theorem State.missMoment_resetHeld (s : State) (i : SlotIx) : (s.missMoment i).resetHeld = s.resetHeld := rfl
@[simp] theorem State.missMoment_clock (s : State) (i : SlotIx) : (s.missMoment i).clock = s.clock := rfl
@[simp] theorem State.missMoment_setup (s : State) (i : SlotIx) : (s.missMoment i).setup = s.setup := rfl
@[simp] theorem State.missMoment_driveLists (s : State) (i : SlotIx) : (s.missMoment i).driveLists = s.driveLists := rfl
@[simp] theorem State.missMoment_gateLists (s : State) (i : SlotIx) : (s.missMoment i).gateLists = s.gateLists := rfl
@[simp] theorem State.missMoment_gates (s : State) (i : SlotIx) : (s.missMoment i).gates = s.gates := rfl
@[simp] theorem State.missMoment_drives (s : State) (i : SlotIx) : (s.missMoment i).drives = s.drives := rfl
@[simp] theorem State.missMoment_arbiter (s : State) (i : SlotIx) : (s.missMoment i).arbiter = s.arbiter := rfl
@[simp] theorem State.missMoment_inputs (s : State) (i : SlotIx) : (s.missMoment i).inputs = s.inputs := rfl
@[simp] theorem State.missMoment_trips (s : State) (i : SlotIx) : (s.missMoment i).trips = s.trips := rfl
@[simp] theorem State.missMoment_ports (s : State) (i : SlotIx) : (s.missMoment i).ports = s.ports := rfl

@[simp] theorem State.handOverPinned_pending (s : State) (i : SlotIx) : (s.handOverPinned i).pending = s.pending := rfl
@[simp] theorem State.handOverPinned_draws (s : State) (i : SlotIx) : (s.handOverPinned i).draws = s.draws := rfl
@[simp] theorem State.handOverPinned_resetHeld (s : State) (i : SlotIx) : (s.handOverPinned i).resetHeld = s.resetHeld := rfl
@[simp] theorem State.handOverPinned_clock (s : State) (i : SlotIx) : (s.handOverPinned i).clock = s.clock := rfl
@[simp] theorem State.handOverPinned_setup (s : State) (i : SlotIx) : (s.handOverPinned i).setup = s.setup := rfl
@[simp] theorem State.handOverPinned_driveLists (s : State) (i : SlotIx) : (s.handOverPinned i).driveLists = s.driveLists := rfl
@[simp] theorem State.handOverPinned_gateLists (s : State) (i : SlotIx) : (s.handOverPinned i).gateLists = s.gateLists := rfl
@[simp] theorem State.handOverPinned_gates (s : State) (i : SlotIx) : (s.handOverPinned i).gates = s.gates := rfl
@[simp] theorem State.handOverPinned_drives (s : State) (i : SlotIx) : (s.handOverPinned i).drives = s.drives := rfl
@[simp] theorem State.handOverPinned_arbiter (s : State) (i : SlotIx) : (s.handOverPinned i).arbiter = s.arbiter := rfl
@[simp] theorem State.handOverPinned_inputs (s : State) (i : SlotIx) : (s.handOverPinned i).inputs = s.inputs := rfl
@[simp] theorem State.handOverPinned_trips (s : State) (i : SlotIx) : (s.handOverPinned i).trips = s.trips := rfl
@[simp] theorem State.handOverPinned_ports (s : State) (i : SlotIx) : (s.handOverPinned i).ports = s.ports := rfl

@[simp] theorem State.passHolds_pending (s : State) (l : Link) : (s.passHolds l).pending = s.pending := rfl
@[simp] theorem State.passHolds_draws (s : State) (l : Link) : (s.passHolds l).draws = s.draws := rfl
@[simp] theorem State.passHolds_resetHeld (s : State) (l : Link) : (s.passHolds l).resetHeld = s.resetHeld := rfl
@[simp] theorem State.passHolds_clock (s : State) (l : Link) : (s.passHolds l).clock = s.clock := rfl
@[simp] theorem State.passHolds_setup (s : State) (l : Link) : (s.passHolds l).setup = s.setup := rfl
@[simp] theorem State.passHolds_slots (s : State) (l : Link) : (s.passHolds l).slots = s.slots := rfl
@[simp] theorem State.passHolds_driveLists (s : State) (l : Link) : (s.passHolds l).driveLists = s.driveLists := rfl
@[simp] theorem State.passHolds_gateLists (s : State) (l : Link) : (s.passHolds l).gateLists = s.gateLists := rfl
@[simp] theorem State.passHolds_notices (s : State) (l : Link) : (s.passHolds l).notices = s.notices := rfl
@[simp] theorem State.passHolds_drives (s : State) (l : Link) : (s.passHolds l).drives = s.drives := rfl
@[simp] theorem State.passHolds_arbiter (s : State) (l : Link) : (s.passHolds l).arbiter = s.arbiter := rfl
@[simp] theorem State.passHolds_inputs (s : State) (l : Link) : (s.passHolds l).inputs = s.inputs := rfl
@[simp] theorem State.passHolds_trips (s : State) (l : Link) : (s.passHolds l).trips = s.trips := rfl
@[simp] theorem State.passHolds_ports (s : State) (l : Link) : (s.passHolds l).ports = s.ports := rfl

end Sys2Proof.Machine
end

