-- ==== Sys2Proof/Laws/Frames.lean ====
section
/-! SUPPORT. What the operations of the blocks leave unchanged, field by field. -/

namespace Sys2Proof.Machine

/-- What holds of a state, and stays so at every step of a fold, holds at the fold's end. -/
theorem foldl_holds {α : Type} {P : State → Prop} {work : State → α → State} {start : State}
    (keeps : ∀ now x, P now → P (work now x)) (xs : List α) (begins : P start) : P (xs.foldl work start) :=
  List.foldlRecOn xs work begins fun now holds x _ => keeps now x holds

/-- What every step of a fold over states leaves, the fold leaves. -/
theorem foldl_keeps {β : Type} (field : State → β) {α : Type} (work : State → α → State)
    (leaves : ∀ now x, field (work now x) = field now) (xs : List α) (start : State) :
    field (xs.foldl work start) = field start :=
  foldl_holds (P := fun now => field now = field start) (fun now x => (leaves now x).trans) xs rfl

@[simp] theorem State.postEach_pending (s : State) (k : NoticeKind) (is : List SlotIx) : (s.postEach k is).pending = s.pending := foldl_keeps State.pending _ (fun _ _ => by simp) _ _
@[simp] theorem State.postEach_draws (s : State) (k : NoticeKind) (is : List SlotIx) : (s.postEach k is).draws = s.draws := foldl_keeps State.draws _ (fun _ _ => by simp) _ _
@[simp] theorem State.postEach_resetHeld (s : State) (k : NoticeKind) (is : List SlotIx) : (s.postEach k is).resetHeld = s.resetHeld := foldl_keeps State.resetHeld _ (fun _ _ => by simp) _ _
@[simp] theorem State.postEach_clock (s : State) (k : NoticeKind) (is : List SlotIx) : (s.postEach k is).clock = s.clock := foldl_keeps State.clock _ (fun _ _ => by simp) _ _
@[simp] theorem State.postEach_setup (s : State) (k : NoticeKind) (is : List SlotIx) : (s.postEach k is).setup = s.setup := foldl_keeps State.setup _ (fun _ _ => by simp) _ _
@[simp] theorem State.postEach_slots (s : State) (k : NoticeKind) (is : List SlotIx) : (s.postEach k is).slots = s.slots := foldl_keeps State.slots _ (fun _ _ => by simp) _ _
@[simp] theorem State.postEach_driveLists (s : State) (k : NoticeKind) (is : List SlotIx) : (s.postEach k is).driveLists = s.driveLists := foldl_keeps State.driveLists _ (fun _ _ => by simp) _ _
@[simp] theorem State.postEach_gateLists (s : State) (k : NoticeKind) (is : List SlotIx) : (s.postEach k is).gateLists = s.gateLists := foldl_keeps State.gateLists _ (fun _ _ => by simp) _ _
@[simp] theorem State.postEach_gates (s : State) (k : NoticeKind) (is : List SlotIx) : (s.postEach k is).gates = s.gates := foldl_keeps State.gates _ (fun _ _ => by simp) _ _
@[simp] theorem State.postEach_drives (s : State) (k : NoticeKind) (is : List SlotIx) : (s.postEach k is).drives = s.drives := foldl_keeps State.drives _ (fun _ _ => by simp) _ _
@[simp] theorem State.postEach_arbiter (s : State) (k : NoticeKind) (is : List SlotIx) : (s.postEach k is).arbiter = s.arbiter := foldl_keeps State.arbiter _ (fun _ _ => by simp) _ _
@[simp] theorem State.postEach_inputs (s : State) (k : NoticeKind) (is : List SlotIx) : (s.postEach k is).inputs = s.inputs := foldl_keeps State.inputs _ (fun _ _ => by simp) _ _
@[simp] theorem State.postEach_trips (s : State) (k : NoticeKind) (is : List SlotIx) : (s.postEach k is).trips = s.trips := foldl_keeps State.trips _ (fun _ _ => by simp) _ _
@[simp] theorem State.postEach_ports (s : State) (k : NoticeKind) (is : List SlotIx) : (s.postEach k is).ports = s.ports := foldl_keeps State.ports _ (fun _ _ => by simp) _ _

@[simp] theorem State.postAll_pending (s : State) (ks : List NoticeKind) (i : SlotIx) : (s.postAll ks i).pending = s.pending := foldl_keeps State.pending _ (fun _ _ => by simp) _ _
@[simp] theorem State.postAll_draws (s : State) (ks : List NoticeKind) (i : SlotIx) : (s.postAll ks i).draws = s.draws := foldl_keeps State.draws _ (fun _ _ => by simp) _ _
@[simp] theorem State.postAll_resetHeld (s : State) (ks : List NoticeKind) (i : SlotIx) : (s.postAll ks i).resetHeld = s.resetHeld := foldl_keeps State.resetHeld _ (fun _ _ => by simp) _ _
@[simp] theorem State.postAll_clock (s : State) (ks : List NoticeKind) (i : SlotIx) : (s.postAll ks i).clock = s.clock := foldl_keeps State.clock _ (fun _ _ => by simp) _ _
@[simp] theorem State.postAll_setup (s : State) (ks : List NoticeKind) (i : SlotIx) : (s.postAll ks i).setup = s.setup := foldl_keeps State.setup _ (fun _ _ => by simp) _ _
@[simp] theorem State.postAll_slots (s : State) (ks : List NoticeKind) (i : SlotIx) : (s.postAll ks i).slots = s.slots := foldl_keeps State.slots _ (fun _ _ => by simp) _ _
@[simp] theorem State.postAll_driveLists (s : State) (ks : List NoticeKind) (i : SlotIx) : (s.postAll ks i).driveLists = s.driveLists := foldl_keeps State.driveLists _ (fun _ _ => by simp) _ _
@[simp] theorem State.postAll_gateLists (s : State) (ks : List NoticeKind) (i : SlotIx) : (s.postAll ks i).gateLists = s.gateLists := foldl_keeps State.gateLists _ (fun _ _ => by simp) _ _
@[simp] theorem State.postAll_gates (s : State) (ks : List NoticeKind) (i : SlotIx) : (s.postAll ks i).gates = s.gates := foldl_keeps State.gates _ (fun _ _ => by simp) _ _
@[simp] theorem State.postAll_drives (s : State) (ks : List NoticeKind) (i : SlotIx) : (s.postAll ks i).drives = s.drives := foldl_keeps State.drives _ (fun _ _ => by simp) _ _
@[simp] theorem State.postAll_arbiter (s : State) (ks : List NoticeKind) (i : SlotIx) : (s.postAll ks i).arbiter = s.arbiter := foldl_keeps State.arbiter _ (fun _ _ => by simp) _ _
@[simp] theorem State.postAll_inputs (s : State) (ks : List NoticeKind) (i : SlotIx) : (s.postAll ks i).inputs = s.inputs := foldl_keeps State.inputs _ (fun _ _ => by simp) _ _
@[simp] theorem State.postAll_trips (s : State) (ks : List NoticeKind) (i : SlotIx) : (s.postAll ks i).trips = s.trips := foldl_keeps State.trips _ (fun _ _ => by simp) _ _
@[simp] theorem State.postAll_ports (s : State) (ks : List NoticeKind) (i : SlotIx) : (s.postAll ks i).ports = s.ports := foldl_keeps State.ports _ (fun _ _ => by simp) _ _

@[simp] theorem State.finish_pending (s : State) (i : SlotIx) : (s.finish i).pending = s.pending := by
  unfold State.finish
  repeat' split
  all_goals simp
@[simp] theorem State.finish_draws (s : State) (i : SlotIx) : (s.finish i).draws = s.draws := by
  unfold State.finish
  repeat' split
  all_goals simp
@[simp] theorem State.finish_resetHeld (s : State) (i : SlotIx) : (s.finish i).resetHeld = s.resetHeld := by
  unfold State.finish
  repeat' split
  all_goals simp
@[simp] theorem State.finish_clock (s : State) (i : SlotIx) : (s.finish i).clock = s.clock := by
  unfold State.finish
  repeat' split
  all_goals simp
@[simp] theorem State.finish_setup (s : State) (i : SlotIx) : (s.finish i).setup = s.setup := by
  unfold State.finish
  repeat' split
  all_goals simp
@[simp] theorem State.finish_driveLists (s : State) (i : SlotIx) : (s.finish i).driveLists = s.driveLists := by
  unfold State.finish
  repeat' split
  all_goals simp
@[simp] theorem State.finish_gateLists (s : State) (i : SlotIx) : (s.finish i).gateLists = s.gateLists := by
  unfold State.finish
  repeat' split
  all_goals simp
@[simp] theorem State.finish_gates (s : State) (i : SlotIx) : (s.finish i).gates = s.gates := by
  unfold State.finish
  repeat' split
  all_goals simp
@[simp] theorem State.finish_drives (s : State) (i : SlotIx) : (s.finish i).drives = s.drives := by
  unfold State.finish
  repeat' split
  all_goals simp
@[simp] theorem State.finish_arbiter (s : State) (i : SlotIx) : (s.finish i).arbiter = s.arbiter := by
  unfold State.finish
  repeat' split
  all_goals simp
@[simp] theorem State.finish_inputs (s : State) (i : SlotIx) : (s.finish i).inputs = s.inputs := by
  unfold State.finish
  repeat' split
  all_goals simp
@[simp] theorem State.finish_trips (s : State) (i : SlotIx) : (s.finish i).trips = s.trips := by
  unfold State.finish
  repeat' split
  all_goals simp
@[simp] theorem State.finish_ports (s : State) (i : SlotIx) : (s.finish i).ports = s.ports := by
  unfold State.finish
  repeat' split
  all_goals simp

@[simp] theorem State.settle_pending (s : State) (d : Drive) : (s.settle d).pending = s.pending := by
  unfold State.settle
  split
  · rfl
  · simp only [State.updClaim_pending]
    rw [foldl_keeps State.pending]
    simp
@[simp] theorem State.settle_draws (s : State) (d : Drive) : (s.settle d).draws = s.draws := by
  unfold State.settle
  split
  · rfl
  · simp only [State.updClaim_draws]
    rw [foldl_keeps State.draws]
    simp
@[simp] theorem State.settle_resetHeld (s : State) (d : Drive) : (s.settle d).resetHeld = s.resetHeld := by
  unfold State.settle
  split
  · rfl
  · simp only [State.updClaim_resetHeld]
    rw [foldl_keeps State.resetHeld]
    simp
@[simp] theorem State.settle_clock (s : State) (d : Drive) : (s.settle d).clock = s.clock := by
  unfold State.settle
  split
  · rfl
  · simp only [State.updClaim_clock]
    rw [foldl_keeps State.clock]
    simp
@[simp] theorem State.settle_setup (s : State) (d : Drive) : (s.settle d).setup = s.setup := by
  unfold State.settle
  split
  · rfl
  · simp only [State.updClaim_setup]
    rw [foldl_keeps State.setup]
    simp
@[simp] theorem State.settle_driveLists (s : State) (d : Drive) : (s.settle d).driveLists = s.driveLists := by
  unfold State.settle
  split
  · rfl
  · simp only [State.updClaim_driveLists]
    rw [foldl_keeps State.driveLists]
    simp
@[simp] theorem State.settle_gateLists (s : State) (d : Drive) : (s.settle d).gateLists = s.gateLists := by
  unfold State.settle
  split
  · rfl
  · simp only [State.updClaim_gateLists]
    rw [foldl_keeps State.gateLists]
    simp
@[simp] theorem State.settle_notices (s : State) (d : Drive) : (s.settle d).notices = s.notices := by
  unfold State.settle
  split
  · rfl
  · simp only [State.updClaim_notices]
    rw [foldl_keeps State.notices]
    simp
@[simp] theorem State.settle_gates (s : State) (d : Drive) : (s.settle d).gates = s.gates := by
  unfold State.settle
  split
  · rfl
  · simp only [State.updClaim_gates]
    rw [foldl_keeps State.gates]
    simp
@[simp] theorem State.settle_drives (s : State) (d : Drive) : (s.settle d).drives = s.drives := by
  unfold State.settle
  split
  · rfl
  · simp only [State.updClaim_drives]
    rw [foldl_keeps State.drives]
    simp
@[simp] theorem State.settle_arbiter (s : State) (d : Drive) : (s.settle d).arbiter = s.arbiter := by
  unfold State.settle
  split
  · rfl
  · simp only [State.updClaim_arbiter]
    rw [foldl_keeps State.arbiter]
    simp
@[simp] theorem State.settle_inputs (s : State) (d : Drive) : (s.settle d).inputs = s.inputs := by
  unfold State.settle
  split
  · rfl
  · simp only [State.updClaim_inputs]
    rw [foldl_keeps State.inputs]
    simp
@[simp] theorem State.settle_trips (s : State) (d : Drive) : (s.settle d).trips = s.trips := by
  unfold State.settle
  split
  · rfl
  · simp only [State.updClaim_trips]
    rw [foldl_keeps State.trips]
    simp
@[simp] theorem State.settle_ports (s : State) (d : Drive) : (s.settle d).ports = s.ports := by
  unfold State.settle
  split
  · rfl
  · simp only [State.updClaim_ports]
    rw [foldl_keeps State.ports]
    simp

@[simp] theorem State.announce_pending (s : State) (d : Drive) (old : Option SlotIx) : (s.announce d old).pending = s.pending := by
  unfold State.announce
  repeat' split
  all_goals simp
@[simp] theorem State.announce_draws (s : State) (d : Drive) (old : Option SlotIx) : (s.announce d old).draws = s.draws := by
  unfold State.announce
  repeat' split
  all_goals simp
@[simp] theorem State.announce_resetHeld (s : State) (d : Drive) (old : Option SlotIx) : (s.announce d old).resetHeld = s.resetHeld := by
  unfold State.announce
  repeat' split
  all_goals simp
@[simp] theorem State.announce_clock (s : State) (d : Drive) (old : Option SlotIx) : (s.announce d old).clock = s.clock := by
  unfold State.announce
  repeat' split
  all_goals simp
@[simp] theorem State.announce_setup (s : State) (d : Drive) (old : Option SlotIx) : (s.announce d old).setup = s.setup := by
  unfold State.announce
  repeat' split
  all_goals simp
@[simp] theorem State.announce_slots (s : State) (d : Drive) (old : Option SlotIx) : (s.announce d old).slots = s.slots := by
  unfold State.announce
  repeat' split
  all_goals simp
@[simp] theorem State.announce_driveLists (s : State) (d : Drive) (old : Option SlotIx) : (s.announce d old).driveLists = s.driveLists := by
  unfold State.announce
  repeat' split
  all_goals simp
@[simp] theorem State.announce_gateLists (s : State) (d : Drive) (old : Option SlotIx) : (s.announce d old).gateLists = s.gateLists := by
  unfold State.announce
  repeat' split
  all_goals simp
@[simp] theorem State.announce_gates (s : State) (d : Drive) (old : Option SlotIx) : (s.announce d old).gates = s.gates := by
  unfold State.announce
  repeat' split
  all_goals simp
@[simp] theorem State.announce_drives (s : State) (d : Drive) (old : Option SlotIx) : (s.announce d old).drives = s.drives := by
  unfold State.announce
  repeat' split
  all_goals simp
@[simp] theorem State.announce_arbiter (s : State) (d : Drive) (old : Option SlotIx) : (s.announce d old).arbiter = s.arbiter := by
  unfold State.announce
  repeat' split
  all_goals simp
@[simp] theorem State.announce_inputs (s : State) (d : Drive) (old : Option SlotIx) : (s.announce d old).inputs = s.inputs := by
  unfold State.announce
  repeat' split
  all_goals simp
@[simp] theorem State.announce_trips (s : State) (d : Drive) (old : Option SlotIx) : (s.announce d old).trips = s.trips := by
  unfold State.announce
  repeat' split
  all_goals simp
@[simp] theorem State.announce_ports (s : State) (d : Drive) (old : Option SlotIx) : (s.announce d old).ports = s.ports := by
  unfold State.announce
  repeat' split
  all_goals simp

@[simp] theorem State.changeList_pending (s : State) (d : Drive) (old : Option SlotIx) (l : List SlotIx) : (s.changeList d old l).pending = s.pending := by simp [State.changeList]
@[simp] theorem State.changeList_draws (s : State) (d : Drive) (old : Option SlotIx) (l : List SlotIx) : (s.changeList d old l).draws = s.draws := by simp [State.changeList]
@[simp] theorem State.changeList_resetHeld (s : State) (d : Drive) (old : Option SlotIx) (l : List SlotIx) : (s.changeList d old l).resetHeld = s.resetHeld := by simp [State.changeList]
@[simp] theorem State.changeList_clock (s : State) (d : Drive) (old : Option SlotIx) (l : List SlotIx) : (s.changeList d old l).clock = s.clock := by simp [State.changeList]
@[simp] theorem State.changeList_setup (s : State) (d : Drive) (old : Option SlotIx) (l : List SlotIx) : (s.changeList d old l).setup = s.setup := by simp [State.changeList]
@[simp] theorem State.changeList_gateLists (s : State) (d : Drive) (old : Option SlotIx) (l : List SlotIx) : (s.changeList d old l).gateLists = s.gateLists := by simp [State.changeList]
@[simp] theorem State.changeList_gates (s : State) (d : Drive) (old : Option SlotIx) (l : List SlotIx) : (s.changeList d old l).gates = s.gates := by simp [State.changeList]
@[simp] theorem State.changeList_drives (s : State) (d : Drive) (old : Option SlotIx) (l : List SlotIx) : (s.changeList d old l).drives = s.drives := by simp [State.changeList]
@[simp] theorem State.changeList_arbiter (s : State) (d : Drive) (old : Option SlotIx) (l : List SlotIx) : (s.changeList d old l).arbiter = s.arbiter := by simp [State.changeList]
@[simp] theorem State.changeList_inputs (s : State) (d : Drive) (old : Option SlotIx) (l : List SlotIx) : (s.changeList d old l).inputs = s.inputs := by simp [State.changeList]
@[simp] theorem State.changeList_trips (s : State) (d : Drive) (old : Option SlotIx) (l : List SlotIx) : (s.changeList d old l).trips = s.trips := by simp [State.changeList]
@[simp] theorem State.changeList_ports (s : State) (d : Drive) (old : Option SlotIx) (l : List SlotIx) : (s.changeList d old l).ports = s.ports := by simp [State.changeList]

@[simp] theorem State.join_pending (s : State) (d : Drive) (i : SlotIx) : (s.join d i).pending = s.pending := by
  unfold State.join
  repeat' split
  all_goals simp
@[simp] theorem State.join_draws (s : State) (d : Drive) (i : SlotIx) : (s.join d i).draws = s.draws := by
  unfold State.join
  repeat' split
  all_goals simp
@[simp] theorem State.join_resetHeld (s : State) (d : Drive) (i : SlotIx) : (s.join d i).resetHeld = s.resetHeld := by
  unfold State.join
  repeat' split
  all_goals simp
@[simp] theorem State.join_clock (s : State) (d : Drive) (i : SlotIx) : (s.join d i).clock = s.clock := by
  unfold State.join
  repeat' split
  all_goals simp
@[simp] theorem State.join_setup (s : State) (d : Drive) (i : SlotIx) : (s.join d i).setup = s.setup := by
  unfold State.join
  repeat' split
  all_goals simp
@[simp] theorem State.join_gateLists (s : State) (d : Drive) (i : SlotIx) : (s.join d i).gateLists = s.gateLists := by
  unfold State.join
  repeat' split
  all_goals simp
@[simp] theorem State.join_gates (s : State) (d : Drive) (i : SlotIx) : (s.join d i).gates = s.gates := by
  unfold State.join
  repeat' split
  all_goals simp
@[simp] theorem State.join_drives (s : State) (d : Drive) (i : SlotIx) : (s.join d i).drives = s.drives := by
  unfold State.join
  repeat' split
  all_goals simp
@[simp] theorem State.join_arbiter (s : State) (d : Drive) (i : SlotIx) : (s.join d i).arbiter = s.arbiter := by
  unfold State.join
  repeat' split
  all_goals simp
@[simp] theorem State.join_inputs (s : State) (d : Drive) (i : SlotIx) : (s.join d i).inputs = s.inputs := by
  unfold State.join
  repeat' split
  all_goals simp
@[simp] theorem State.join_trips (s : State) (d : Drive) (i : SlotIx) : (s.join d i).trips = s.trips := by
  unfold State.join
  repeat' split
  all_goals simp
@[simp] theorem State.join_ports (s : State) (d : Drive) (i : SlotIx) : (s.join d i).ports = s.ports := by
  unfold State.join
  repeat' split
  all_goals simp

@[simp] theorem State.haltChannel_pending (s : State) (d : Drive) (p : StopPattern) : (s.haltChannel d p).pending = s.pending := by
  unfold State.haltChannel
  dsimp only
  repeat' split
  all_goals simp
@[simp] theorem State.haltChannel_draws (s : State) (d : Drive) (p : StopPattern) : (s.haltChannel d p).draws = s.draws := by
  unfold State.haltChannel
  dsimp only
  repeat' split
  all_goals simp
@[simp] theorem State.haltChannel_resetHeld (s : State) (d : Drive) (p : StopPattern) : (s.haltChannel d p).resetHeld = s.resetHeld := by
  unfold State.haltChannel
  dsimp only
  repeat' split
  all_goals simp
@[simp] theorem State.haltChannel_clock (s : State) (d : Drive) (p : StopPattern) : (s.haltChannel d p).clock = s.clock := by
  unfold State.haltChannel
  dsimp only
  repeat' split
  all_goals simp
@[simp] theorem State.haltChannel_setup (s : State) (d : Drive) (p : StopPattern) : (s.haltChannel d p).setup = s.setup := by
  unfold State.haltChannel
  dsimp only
  repeat' split
  all_goals simp
@[simp] theorem State.haltChannel_gateLists (s : State) (d : Drive) (p : StopPattern) : (s.haltChannel d p).gateLists = s.gateLists := by
  unfold State.haltChannel
  dsimp only
  repeat' split
  all_goals simp
@[simp] theorem State.haltChannel_gates (s : State) (d : Drive) (p : StopPattern) : (s.haltChannel d p).gates = s.gates := by
  unfold State.haltChannel
  dsimp only
  repeat' split
  all_goals simp
@[simp] theorem State.haltChannel_arbiter (s : State) (d : Drive) (p : StopPattern) : (s.haltChannel d p).arbiter = s.arbiter := by
  unfold State.haltChannel
  dsimp only
  repeat' split
  all_goals simp
@[simp] theorem State.haltChannel_inputs (s : State) (d : Drive) (p : StopPattern) : (s.haltChannel d p).inputs = s.inputs := by
  unfold State.haltChannel
  dsimp only
  repeat' split
  all_goals simp
@[simp] theorem State.haltChannel_trips (s : State) (d : Drive) (p : StopPattern) : (s.haltChannel d p).trips = s.trips := by
  unfold State.haltChannel
  dsimp only
  repeat' split
  all_goals simp
@[simp] theorem State.haltChannel_ports (s : State) (d : Drive) (p : StopPattern) : (s.haltChannel d p).ports = s.ports := by
  unfold State.haltChannel
  dsimp only
  repeat' split
  all_goals simp

@[simp] theorem State.releaseChannel_pending (s : State) (d : Drive) : (s.releaseChannel d).pending = s.pending := by
  unfold State.releaseChannel
  dsimp only
  repeat' split
  all_goals simp
@[simp] theorem State.releaseChannel_draws (s : State) (d : Drive) : (s.releaseChannel d).draws = s.draws := by
  unfold State.releaseChannel
  dsimp only
  repeat' split
  all_goals simp
@[simp] theorem State.releaseChannel_resetHeld (s : State) (d : Drive) : (s.releaseChannel d).resetHeld = s.resetHeld := by
  unfold State.releaseChannel
  dsimp only
  repeat' split
  all_goals simp
@[simp] theorem State.releaseChannel_clock (s : State) (d : Drive) : (s.releaseChannel d).clock = s.clock := by
  unfold State.releaseChannel
  dsimp only
  repeat' split
  all_goals simp
@[simp] theorem State.releaseChannel_setup (s : State) (d : Drive) : (s.releaseChannel d).setup = s.setup := by
  unfold State.releaseChannel
  dsimp only
  repeat' split
  all_goals simp
@[simp] theorem State.releaseChannel_driveLists (s : State) (d : Drive) : (s.releaseChannel d).driveLists = s.driveLists := by
  unfold State.releaseChannel
  dsimp only
  repeat' split
  all_goals simp
@[simp] theorem State.releaseChannel_gateLists (s : State) (d : Drive) : (s.releaseChannel d).gateLists = s.gateLists := by
  unfold State.releaseChannel
  dsimp only
  repeat' split
  all_goals simp
@[simp] theorem State.releaseChannel_gates (s : State) (d : Drive) : (s.releaseChannel d).gates = s.gates := by
  unfold State.releaseChannel
  dsimp only
  repeat' split
  all_goals simp
@[simp] theorem State.releaseChannel_arbiter (s : State) (d : Drive) : (s.releaseChannel d).arbiter = s.arbiter := by
  unfold State.releaseChannel
  dsimp only
  repeat' split
  all_goals simp
@[simp] theorem State.releaseChannel_inputs (s : State) (d : Drive) : (s.releaseChannel d).inputs = s.inputs := by
  unfold State.releaseChannel
  dsimp only
  repeat' split
  all_goals simp
@[simp] theorem State.releaseChannel_trips (s : State) (d : Drive) : (s.releaseChannel d).trips = s.trips := by
  unfold State.releaseChannel
  dsimp only
  repeat' split
  all_goals simp
@[simp] theorem State.releaseChannel_ports (s : State) (d : Drive) : (s.releaseChannel d).ports = s.ports := by
  unfold State.releaseChannel
  dsimp only
  repeat' split
  all_goals simp

@[simp] theorem State.closeGate_pending (s : State) (g : Gate) : (s.closeGate g).pending = s.pending := by
  unfold State.closeGate
  dsimp only
  rw [foldl_keeps State.pending]
  all_goals simp
@[simp] theorem State.closeGate_draws (s : State) (g : Gate) : (s.closeGate g).draws = s.draws := by
  unfold State.closeGate
  dsimp only
  rw [foldl_keeps State.draws]
  all_goals simp
@[simp] theorem State.closeGate_resetHeld (s : State) (g : Gate) : (s.closeGate g).resetHeld = s.resetHeld := by
  unfold State.closeGate
  dsimp only
  rw [foldl_keeps State.resetHeld]
  all_goals simp
@[simp] theorem State.closeGate_clock (s : State) (g : Gate) : (s.closeGate g).clock = s.clock := by
  unfold State.closeGate
  dsimp only
  rw [foldl_keeps State.clock]
  all_goals simp
@[simp] theorem State.closeGate_setup (s : State) (g : Gate) : (s.closeGate g).setup = s.setup := by
  unfold State.closeGate
  dsimp only
  rw [foldl_keeps State.setup]
  all_goals simp
@[simp] theorem State.closeGate_gateLists (s : State) (g : Gate) : (s.closeGate g).gateLists = s.gateLists := by
  unfold State.closeGate
  dsimp only
  rw [foldl_keeps State.gateLists]
  all_goals simp
@[simp] theorem State.closeGate_arbiter (s : State) (g : Gate) : (s.closeGate g).arbiter = s.arbiter := by
  unfold State.closeGate
  dsimp only
  rw [foldl_keeps State.arbiter]
  all_goals simp
@[simp] theorem State.closeGate_inputs (s : State) (g : Gate) : (s.closeGate g).inputs = s.inputs := by
  unfold State.closeGate
  dsimp only
  rw [foldl_keeps State.inputs]
  all_goals simp
@[simp] theorem State.closeGate_trips (s : State) (g : Gate) : (s.closeGate g).trips = s.trips := by
  unfold State.closeGate
  dsimp only
  rw [foldl_keeps State.trips]
  all_goals simp
@[simp] theorem State.closeGate_ports (s : State) (g : Gate) : (s.closeGate g).ports = s.ports := by
  unfold State.closeGate
  dsimp only
  rw [foldl_keeps State.ports]
  all_goals simp

@[simp] theorem State.openGate_pending (s : State) (g : Gate) : (s.openGate g).pending = s.pending := by
  unfold State.openGate
  dsimp only
  rw [foldl_keeps State.pending]
  all_goals simp
@[simp] theorem State.openGate_draws (s : State) (g : Gate) : (s.openGate g).draws = s.draws := by
  unfold State.openGate
  dsimp only
  rw [foldl_keeps State.draws]
  all_goals simp
@[simp] theorem State.openGate_resetHeld (s : State) (g : Gate) : (s.openGate g).resetHeld = s.resetHeld := by
  unfold State.openGate
  dsimp only
  rw [foldl_keeps State.resetHeld]
  all_goals simp
@[simp] theorem State.openGate_clock (s : State) (g : Gate) : (s.openGate g).clock = s.clock := by
  unfold State.openGate
  dsimp only
  rw [foldl_keeps State.clock]
  all_goals simp
@[simp] theorem State.openGate_setup (s : State) (g : Gate) : (s.openGate g).setup = s.setup := by
  unfold State.openGate
  dsimp only
  rw [foldl_keeps State.setup]
  all_goals simp
@[simp] theorem State.openGate_driveLists (s : State) (g : Gate) : (s.openGate g).driveLists = s.driveLists := by
  unfold State.openGate
  dsimp only
  rw [foldl_keeps State.driveLists]
  all_goals simp
@[simp] theorem State.openGate_gateLists (s : State) (g : Gate) : (s.openGate g).gateLists = s.gateLists := by
  unfold State.openGate
  dsimp only
  rw [foldl_keeps State.gateLists]
  all_goals simp
@[simp] theorem State.openGate_arbiter (s : State) (g : Gate) : (s.openGate g).arbiter = s.arbiter := by
  unfold State.openGate
  dsimp only
  rw [foldl_keeps State.arbiter]
  all_goals simp
@[simp] theorem State.openGate_inputs (s : State) (g : Gate) : (s.openGate g).inputs = s.inputs := by
  unfold State.openGate
  dsimp only
  rw [foldl_keeps State.inputs]
  all_goals simp
@[simp] theorem State.openGate_trips (s : State) (g : Gate) : (s.openGate g).trips = s.trips := by
  unfold State.openGate
  dsimp only
  rw [foldl_keeps State.trips]
  all_goals simp
@[simp] theorem State.openGate_ports (s : State) (g : Gate) : (s.openGate g).ports = s.ports := by
  unfold State.openGate
  dsimp only
  rw [foldl_keeps State.ports]
  all_goals simp

@[simp] theorem State.rePattern_pending (s : State) (g : Gate) : (s.rePattern g).pending = s.pending := by
  unfold State.rePattern
  dsimp only
  rw [foldl_keeps State.pending]
  all_goals simp
@[simp] theorem State.rePattern_draws (s : State) (g : Gate) : (s.rePattern g).draws = s.draws := by
  unfold State.rePattern
  dsimp only
  rw [foldl_keeps State.draws]
  all_goals simp
@[simp] theorem State.rePattern_resetHeld (s : State) (g : Gate) : (s.rePattern g).resetHeld = s.resetHeld := by
  unfold State.rePattern
  dsimp only
  rw [foldl_keeps State.resetHeld]
  all_goals simp
@[simp] theorem State.rePattern_clock (s : State) (g : Gate) : (s.rePattern g).clock = s.clock := by
  unfold State.rePattern
  dsimp only
  rw [foldl_keeps State.clock]
  all_goals simp
@[simp] theorem State.rePattern_setup (s : State) (g : Gate) : (s.rePattern g).setup = s.setup := by
  unfold State.rePattern
  dsimp only
  rw [foldl_keeps State.setup]
  all_goals simp
@[simp] theorem State.rePattern_slots (s : State) (g : Gate) : (s.rePattern g).slots = s.slots := by
  unfold State.rePattern
  dsimp only
  rw [foldl_keeps State.slots]
  all_goals simp
@[simp] theorem State.rePattern_driveLists (s : State) (g : Gate) : (s.rePattern g).driveLists = s.driveLists := by
  unfold State.rePattern
  dsimp only
  rw [foldl_keeps State.driveLists]
  all_goals simp
@[simp] theorem State.rePattern_gateLists (s : State) (g : Gate) : (s.rePattern g).gateLists = s.gateLists := by
  unfold State.rePattern
  dsimp only
  rw [foldl_keeps State.gateLists]
  all_goals simp
@[simp] theorem State.rePattern_notices (s : State) (g : Gate) : (s.rePattern g).notices = s.notices := by
  unfold State.rePattern
  dsimp only
  rw [foldl_keeps State.notices]
  all_goals simp
@[simp] theorem State.rePattern_arbiter (s : State) (g : Gate) : (s.rePattern g).arbiter = s.arbiter := by
  unfold State.rePattern
  dsimp only
  rw [foldl_keeps State.arbiter]
  all_goals simp
@[simp] theorem State.rePattern_inputs (s : State) (g : Gate) : (s.rePattern g).inputs = s.inputs := by
  unfold State.rePattern
  dsimp only
  rw [foldl_keeps State.inputs]
  all_goals simp
@[simp] theorem State.rePattern_trips (s : State) (g : Gate) : (s.rePattern g).trips = s.trips := by
  unfold State.rePattern
  dsimp only
  rw [foldl_keeps State.trips]
  all_goals simp
@[simp] theorem State.rePattern_ports (s : State) (g : Gate) : (s.rePattern g).ports = s.ports := by
  unfold State.rePattern
  dsimp only
  rw [foldl_keeps State.ports]
  all_goals simp

@[simp] theorem State.evalGate_pending (s : State) (g : Gate) : (s.evalGate g).pending = s.pending := by
  unfold State.evalGate
  repeat' split
  all_goals simp
@[simp] theorem State.evalGate_draws (s : State) (g : Gate) : (s.evalGate g).draws = s.draws := by
  unfold State.evalGate
  repeat' split
  all_goals simp
@[simp] theorem State.evalGate_resetHeld (s : State) (g : Gate) : (s.evalGate g).resetHeld = s.resetHeld := by
  unfold State.evalGate
  repeat' split
  all_goals simp
@[simp] theorem State.evalGate_clock (s : State) (g : Gate) : (s.evalGate g).clock = s.clock := by
  unfold State.evalGate
  repeat' split
  all_goals simp
@[simp] theorem State.evalGate_setup (s : State) (g : Gate) : (s.evalGate g).setup = s.setup := by
  unfold State.evalGate
  repeat' split
  all_goals simp
@[simp] theorem State.evalGate_gateLists (s : State) (g : Gate) : (s.evalGate g).gateLists = s.gateLists := by
  unfold State.evalGate
  repeat' split
  all_goals simp
@[simp] theorem State.evalGate_arbiter (s : State) (g : Gate) : (s.evalGate g).arbiter = s.arbiter := by
  unfold State.evalGate
  repeat' split
  all_goals simp
@[simp] theorem State.evalGate_inputs (s : State) (g : Gate) : (s.evalGate g).inputs = s.inputs := by
  unfold State.evalGate
  repeat' split
  all_goals simp
@[simp] theorem State.evalGate_trips (s : State) (g : Gate) : (s.evalGate g).trips = s.trips := by
  unfold State.evalGate
  repeat' split
  all_goals simp
@[simp] theorem State.evalGate_ports (s : State) (g : Gate) : (s.evalGate g).ports = s.ports := by
  unfold State.evalGate
  repeat' split
  all_goals simp

@[simp] theorem State.takeHold_pending (s : State) (g : Gate) (h : TripHold) : (s.takeHold g h).pending = s.pending := by simp [State.takeHold]
@[simp] theorem State.takeHold_draws (s : State) (g : Gate) (h : TripHold) : (s.takeHold g h).draws = s.draws := by simp [State.takeHold]
@[simp] theorem State.takeHold_resetHeld (s : State) (g : Gate) (h : TripHold) : (s.takeHold g h).resetHeld = s.resetHeld := by simp [State.takeHold]
@[simp] theorem State.takeHold_clock (s : State) (g : Gate) (h : TripHold) : (s.takeHold g h).clock = s.clock := by simp [State.takeHold]
@[simp] theorem State.takeHold_setup (s : State) (g : Gate) (h : TripHold) : (s.takeHold g h).setup = s.setup := by simp [State.takeHold]
@[simp] theorem State.takeHold_gateLists (s : State) (g : Gate) (h : TripHold) : (s.takeHold g h).gateLists = s.gateLists := by simp [State.takeHold]
@[simp] theorem State.takeHold_arbiter (s : State) (g : Gate) (h : TripHold) : (s.takeHold g h).arbiter = s.arbiter := by simp [State.takeHold]
@[simp] theorem State.takeHold_inputs (s : State) (g : Gate) (h : TripHold) : (s.takeHold g h).inputs = s.inputs := by simp [State.takeHold]
@[simp] theorem State.takeHold_trips (s : State) (g : Gate) (h : TripHold) : (s.takeHold g h).trips = s.trips := by simp [State.takeHold]
@[simp] theorem State.takeHold_ports (s : State) (g : Gate) (h : TripHold) : (s.takeHold g h).ports = s.ports := by simp [State.takeHold]

@[simp] theorem State.removeHold_pending (s : State) (g : Gate) (src : Source) : (s.removeHold g src).pending = s.pending := by simp [State.removeHold]
@[simp] theorem State.removeHold_draws (s : State) (g : Gate) (src : Source) : (s.removeHold g src).draws = s.draws := by simp [State.removeHold]
@[simp] theorem State.removeHold_resetHeld (s : State) (g : Gate) (src : Source) : (s.removeHold g src).resetHeld = s.resetHeld := by simp [State.removeHold]
@[simp] theorem State.removeHold_clock (s : State) (g : Gate) (src : Source) : (s.removeHold g src).clock = s.clock := by simp [State.removeHold]
@[simp] theorem State.removeHold_setup (s : State) (g : Gate) (src : Source) : (s.removeHold g src).setup = s.setup := by simp [State.removeHold]
@[simp] theorem State.removeHold_gateLists (s : State) (g : Gate) (src : Source) : (s.removeHold g src).gateLists = s.gateLists := by simp [State.removeHold]
@[simp] theorem State.removeHold_arbiter (s : State) (g : Gate) (src : Source) : (s.removeHold g src).arbiter = s.arbiter := by simp [State.removeHold]
@[simp] theorem State.removeHold_inputs (s : State) (g : Gate) (src : Source) : (s.removeHold g src).inputs = s.inputs := by simp [State.removeHold]
@[simp] theorem State.removeHold_trips (s : State) (g : Gate) (src : Source) : (s.removeHold g src).trips = s.trips := by simp [State.removeHold]
@[simp] theorem State.removeHold_ports (s : State) (g : Gate) (src : Source) : (s.removeHold g src).ports = s.ports := by simp [State.removeHold]

@[simp] theorem State.headCompletes_pending (s : State) (d : Drive) (h : SlotIx) : (s.headCompletes d h).pending = s.pending := by simp [State.headCompletes]
@[simp] theorem State.headCompletes_draws (s : State) (d : Drive) (h : SlotIx) : (s.headCompletes d h).draws = s.draws := by simp [State.headCompletes]
@[simp] theorem State.headCompletes_resetHeld (s : State) (d : Drive) (h : SlotIx) : (s.headCompletes d h).resetHeld = s.resetHeld := by simp [State.headCompletes]
@[simp] theorem State.headCompletes_clock (s : State) (d : Drive) (h : SlotIx) : (s.headCompletes d h).clock = s.clock := by simp [State.headCompletes]
@[simp] theorem State.headCompletes_setup (s : State) (d : Drive) (h : SlotIx) : (s.headCompletes d h).setup = s.setup := by simp [State.headCompletes]
@[simp] theorem State.headCompletes_gateLists (s : State) (d : Drive) (h : SlotIx) : (s.headCompletes d h).gateLists = s.gateLists := by simp [State.headCompletes]
@[simp] theorem State.headCompletes_gates (s : State) (d : Drive) (h : SlotIx) : (s.headCompletes d h).gates = s.gates := by simp [State.headCompletes]
@[simp] theorem State.headCompletes_drives (s : State) (d : Drive) (h : SlotIx) : (s.headCompletes d h).drives = s.drives := by simp [State.headCompletes]
@[simp] theorem State.headCompletes_arbiter (s : State) (d : Drive) (h : SlotIx) : (s.headCompletes d h).arbiter = s.arbiter := by simp [State.headCompletes]
@[simp] theorem State.headCompletes_inputs (s : State) (d : Drive) (h : SlotIx) : (s.headCompletes d h).inputs = s.inputs := by simp [State.headCompletes]
@[simp] theorem State.headCompletes_trips (s : State) (d : Drive) (h : SlotIx) : (s.headCompletes d h).trips = s.trips := by simp [State.headCompletes]
@[simp] theorem State.headCompletes_ports (s : State) (d : Drive) (h : SlotIx) : (s.headCompletes d h).ports = s.ports := by simp [State.headCompletes]

@[simp] theorem State.headFinishes_pending (s : State) (d : Drive) (h : SlotIx) : (s.headFinishes d h).pending = s.pending := by simp [State.headFinishes]
@[simp] theorem State.headFinishes_draws (s : State) (d : Drive) (h : SlotIx) : (s.headFinishes d h).draws = s.draws := by simp [State.headFinishes]
@[simp] theorem State.headFinishes_resetHeld (s : State) (d : Drive) (h : SlotIx) : (s.headFinishes d h).resetHeld = s.resetHeld := by simp [State.headFinishes]
@[simp] theorem State.headFinishes_clock (s : State) (d : Drive) (h : SlotIx) : (s.headFinishes d h).clock = s.clock := by simp [State.headFinishes]
@[simp] theorem State.headFinishes_setup (s : State) (d : Drive) (h : SlotIx) : (s.headFinishes d h).setup = s.setup := by simp [State.headFinishes]
@[simp] theorem State.headFinishes_gateLists (s : State) (d : Drive) (h : SlotIx) : (s.headFinishes d h).gateLists = s.gateLists := by simp [State.headFinishes]
@[simp] theorem State.headFinishes_gates (s : State) (d : Drive) (h : SlotIx) : (s.headFinishes d h).gates = s.gates := by simp [State.headFinishes]
@[simp] theorem State.headFinishes_drives (s : State) (d : Drive) (h : SlotIx) : (s.headFinishes d h).drives = s.drives := by simp [State.headFinishes]
@[simp] theorem State.headFinishes_arbiter (s : State) (d : Drive) (h : SlotIx) : (s.headFinishes d h).arbiter = s.arbiter := by simp [State.headFinishes]
@[simp] theorem State.headFinishes_inputs (s : State) (d : Drive) (h : SlotIx) : (s.headFinishes d h).inputs = s.inputs := by simp [State.headFinishes]
@[simp] theorem State.headFinishes_trips (s : State) (d : Drive) (h : SlotIx) : (s.headFinishes d h).trips = s.trips := by simp [State.headFinishes]
@[simp] theorem State.headFinishes_ports (s : State) (d : Drive) (h : SlotIx) : (s.headFinishes d h).ports = s.ports := by simp [State.headFinishes]

@[simp] theorem State.reportAtZero_pending (s : State) (d : Drive) (v : HeadView) : (s.reportAtZero d v).pending = s.pending := by
  unfold State.reportAtZero
  repeat' split
  all_goals simp
@[simp] theorem State.reportAtZero_draws (s : State) (d : Drive) (v : HeadView) : (s.reportAtZero d v).draws = s.draws := by
  unfold State.reportAtZero
  repeat' split
  all_goals simp
@[simp] theorem State.reportAtZero_resetHeld (s : State) (d : Drive) (v : HeadView) : (s.reportAtZero d v).resetHeld = s.resetHeld := by
  unfold State.reportAtZero
  repeat' split
  all_goals simp
@[simp] theorem State.reportAtZero_clock (s : State) (d : Drive) (v : HeadView) : (s.reportAtZero d v).clock = s.clock := by
  unfold State.reportAtZero
  repeat' split
  all_goals simp
@[simp] theorem State.reportAtZero_setup (s : State) (d : Drive) (v : HeadView) : (s.reportAtZero d v).setup = s.setup := by
  unfold State.reportAtZero
  repeat' split
  all_goals simp
@[simp] theorem State.reportAtZero_gateLists (s : State) (d : Drive) (v : HeadView) : (s.reportAtZero d v).gateLists = s.gateLists := by
  unfold State.reportAtZero
  repeat' split
  all_goals simp
@[simp] theorem State.reportAtZero_gates (s : State) (d : Drive) (v : HeadView) : (s.reportAtZero d v).gates = s.gates := by
  unfold State.reportAtZero
  repeat' split
  all_goals simp
@[simp] theorem State.reportAtZero_drives (s : State) (d : Drive) (v : HeadView) : (s.reportAtZero d v).drives = s.drives := by
  unfold State.reportAtZero
  repeat' split
  all_goals simp
@[simp] theorem State.reportAtZero_arbiter (s : State) (d : Drive) (v : HeadView) : (s.reportAtZero d v).arbiter = s.arbiter := by
  unfold State.reportAtZero
  repeat' split
  all_goals simp
@[simp] theorem State.reportAtZero_inputs (s : State) (d : Drive) (v : HeadView) : (s.reportAtZero d v).inputs = s.inputs := by
  unfold State.reportAtZero
  repeat' split
  all_goals simp
@[simp] theorem State.reportAtZero_trips (s : State) (d : Drive) (v : HeadView) : (s.reportAtZero d v).trips = s.trips := by
  unfold State.reportAtZero
  repeat' split
  all_goals simp
@[simp] theorem State.reportAtZero_ports (s : State) (d : Drive) (v : HeadView) : (s.reportAtZero d v).ports = s.ports := by
  unfold State.reportAtZero
  repeat' split
  all_goals simp

@[simp] theorem State.workRunning_pending (s : State) (d : Drive) (v : Option HeadView) : (s.workRunning d v).pending = s.pending := by
  unfold State.workRunning
  dsimp only
  repeat' split
  all_goals simp
@[simp] theorem State.workRunning_draws (s : State) (d : Drive) (v : Option HeadView) : (s.workRunning d v).draws = s.draws := by
  unfold State.workRunning
  dsimp only
  repeat' split
  all_goals simp
@[simp] theorem State.workRunning_resetHeld (s : State) (d : Drive) (v : Option HeadView) : (s.workRunning d v).resetHeld = s.resetHeld := by
  unfold State.workRunning
  dsimp only
  repeat' split
  all_goals simp
@[simp] theorem State.workRunning_clock (s : State) (d : Drive) (v : Option HeadView) : (s.workRunning d v).clock = s.clock := by
  unfold State.workRunning
  dsimp only
  repeat' split
  all_goals simp
@[simp] theorem State.workRunning_setup (s : State) (d : Drive) (v : Option HeadView) : (s.workRunning d v).setup = s.setup := by
  unfold State.workRunning
  dsimp only
  repeat' split
  all_goals simp
@[simp] theorem State.workRunning_gateLists (s : State) (d : Drive) (v : Option HeadView) : (s.workRunning d v).gateLists = s.gateLists := by
  unfold State.workRunning
  dsimp only
  repeat' split
  all_goals simp
@[simp] theorem State.workRunning_gates (s : State) (d : Drive) (v : Option HeadView) : (s.workRunning d v).gates = s.gates := by
  unfold State.workRunning
  dsimp only
  repeat' split
  all_goals simp
@[simp] theorem State.workRunning_arbiter (s : State) (d : Drive) (v : Option HeadView) : (s.workRunning d v).arbiter = s.arbiter := by
  unfold State.workRunning
  dsimp only
  repeat' split
  all_goals simp
@[simp] theorem State.workRunning_inputs (s : State) (d : Drive) (v : Option HeadView) : (s.workRunning d v).inputs = s.inputs := by
  unfold State.workRunning
  dsimp only
  repeat' split
  all_goals simp
@[simp] theorem State.workRunning_trips (s : State) (d : Drive) (v : Option HeadView) : (s.workRunning d v).trips = s.trips := by
  unfold State.workRunning
  dsimp only
  repeat' split
  all_goals simp
@[simp] theorem State.workRunning_ports (s : State) (d : Drive) (v : Option HeadView) : (s.workRunning d v).ports = s.ports := by
  unfold State.workRunning
  dsimp only
  repeat' split
  all_goals simp

@[simp] theorem State.workWindingDown_pending (s : State) (d : Drive) (v : Option HeadView) : (s.workWindingDown d v).pending = s.pending := by
  unfold State.workWindingDown
  dsimp only
  repeat' split
  all_goals simp
@[simp] theorem State.workWindingDown_draws (s : State) (d : Drive) (v : Option HeadView) : (s.workWindingDown d v).draws = s.draws := by
  unfold State.workWindingDown
  dsimp only
  repeat' split
  all_goals simp
@[simp] theorem State.workWindingDown_resetHeld (s : State) (d : Drive) (v : Option HeadView) : (s.workWindingDown d v).resetHeld = s.resetHeld := by
  unfold State.workWindingDown
  dsimp only
  repeat' split
  all_goals simp
@[simp] theorem State.workWindingDown_clock (s : State) (d : Drive) (v : Option HeadView) : (s.workWindingDown d v).clock = s.clock := by
  unfold State.workWindingDown
  dsimp only
  repeat' split
  all_goals simp
@[simp] theorem State.workWindingDown_setup (s : State) (d : Drive) (v : Option HeadView) : (s.workWindingDown d v).setup = s.setup := by
  unfold State.workWindingDown
  dsimp only
  repeat' split
  all_goals simp
@[simp] theorem State.workWindingDown_gateLists (s : State) (d : Drive) (v : Option HeadView) : (s.workWindingDown d v).gateLists = s.gateLists := by
  unfold State.workWindingDown
  dsimp only
  repeat' split
  all_goals simp
@[simp] theorem State.workWindingDown_gates (s : State) (d : Drive) (v : Option HeadView) : (s.workWindingDown d v).gates = s.gates := by
  unfold State.workWindingDown
  dsimp only
  repeat' split
  all_goals simp
@[simp] theorem State.workWindingDown_arbiter (s : State) (d : Drive) (v : Option HeadView) : (s.workWindingDown d v).arbiter = s.arbiter := by
  unfold State.workWindingDown
  dsimp only
  repeat' split
  all_goals simp
@[simp] theorem State.workWindingDown_inputs (s : State) (d : Drive) (v : Option HeadView) : (s.workWindingDown d v).inputs = s.inputs := by
  unfold State.workWindingDown
  dsimp only
  repeat' split
  all_goals simp
@[simp] theorem State.workWindingDown_trips (s : State) (d : Drive) (v : Option HeadView) : (s.workWindingDown d v).trips = s.trips := by
  unfold State.workWindingDown
  dsimp only
  repeat' split
  all_goals simp
@[simp] theorem State.workWindingDown_ports (s : State) (d : Drive) (v : Option HeadView) : (s.workWindingDown d v).ports = s.ports := by
  unfold State.workWindingDown
  dsimp only
  repeat' split
  all_goals simp

@[simp] theorem State.workPhase_pending (s : State) (d : Drive) : (s.workPhase d).pending = s.pending := by
  unfold State.workPhase
  dsimp only
  repeat' split
  all_goals simp
@[simp] theorem State.workPhase_draws (s : State) (d : Drive) : (s.workPhase d).draws = s.draws := by
  unfold State.workPhase
  dsimp only
  repeat' split
  all_goals simp
@[simp] theorem State.workPhase_resetHeld (s : State) (d : Drive) : (s.workPhase d).resetHeld = s.resetHeld := by
  unfold State.workPhase
  dsimp only
  repeat' split
  all_goals simp
@[simp] theorem State.workPhase_clock (s : State) (d : Drive) : (s.workPhase d).clock = s.clock := by
  unfold State.workPhase
  dsimp only
  repeat' split
  all_goals simp
@[simp] theorem State.workPhase_setup (s : State) (d : Drive) : (s.workPhase d).setup = s.setup := by
  unfold State.workPhase
  dsimp only
  repeat' split
  all_goals simp
@[simp] theorem State.workPhase_gateLists (s : State) (d : Drive) : (s.workPhase d).gateLists = s.gateLists := by
  unfold State.workPhase
  dsimp only
  repeat' split
  all_goals simp
@[simp] theorem State.workPhase_gates (s : State) (d : Drive) : (s.workPhase d).gates = s.gates := by
  unfold State.workPhase
  dsimp only
  repeat' split
  all_goals simp
@[simp] theorem State.workPhase_arbiter (s : State) (d : Drive) : (s.workPhase d).arbiter = s.arbiter := by
  unfold State.workPhase
  dsimp only
  repeat' split
  all_goals simp
@[simp] theorem State.workPhase_inputs (s : State) (d : Drive) : (s.workPhase d).inputs = s.inputs := by
  unfold State.workPhase
  dsimp only
  repeat' split
  all_goals simp
@[simp] theorem State.workPhase_trips (s : State) (d : Drive) : (s.workPhase d).trips = s.trips := by
  unfold State.workPhase
  dsimp only
  repeat' split
  all_goals simp
@[simp] theorem State.workPhase_ports (s : State) (d : Drive) : (s.workPhase d).ports = s.ports := by
  unfold State.workPhase
  dsimp only
  repeat' split
  all_goals simp

@[simp] theorem State.channelPeriodEnd_pending (s : State) (d : Drive) : (s.channelPeriodEnd d).pending = s.pending := by simp [State.channelPeriodEnd]
@[simp] theorem State.channelPeriodEnd_draws (s : State) (d : Drive) : (s.channelPeriodEnd d).draws = s.draws := by simp [State.channelPeriodEnd]
@[simp] theorem State.channelPeriodEnd_resetHeld (s : State) (d : Drive) : (s.channelPeriodEnd d).resetHeld = s.resetHeld := by simp [State.channelPeriodEnd]
@[simp] theorem State.channelPeriodEnd_clock (s : State) (d : Drive) : (s.channelPeriodEnd d).clock = s.clock := by simp [State.channelPeriodEnd]
@[simp] theorem State.channelPeriodEnd_setup (s : State) (d : Drive) : (s.channelPeriodEnd d).setup = s.setup := by simp [State.channelPeriodEnd]
@[simp] theorem State.channelPeriodEnd_gateLists (s : State) (d : Drive) : (s.channelPeriodEnd d).gateLists = s.gateLists := by simp [State.channelPeriodEnd]
@[simp] theorem State.channelPeriodEnd_gates (s : State) (d : Drive) : (s.channelPeriodEnd d).gates = s.gates := by simp [State.channelPeriodEnd]
@[simp] theorem State.channelPeriodEnd_arbiter (s : State) (d : Drive) : (s.channelPeriodEnd d).arbiter = s.arbiter := by simp [State.channelPeriodEnd]
@[simp] theorem State.channelPeriodEnd_inputs (s : State) (d : Drive) : (s.channelPeriodEnd d).inputs = s.inputs := by simp [State.channelPeriodEnd]
@[simp] theorem State.channelPeriodEnd_trips (s : State) (d : Drive) : (s.channelPeriodEnd d).trips = s.trips := by simp [State.channelPeriodEnd]
@[simp] theorem State.channelPeriodEnd_ports (s : State) (d : Drive) : (s.channelPeriodEnd d).ports = s.ports := by simp [State.channelPeriodEnd]

@[simp] theorem State.gatePeriodEnd_pending (s : State) (g : Gate) : (s.gatePeriodEnd g).pending = s.pending := by
  unfold State.gatePeriodEnd
  rw [foldl_keeps State.pending]
  all_goals simp
@[simp] theorem State.gatePeriodEnd_draws (s : State) (g : Gate) : (s.gatePeriodEnd g).draws = s.draws := by
  unfold State.gatePeriodEnd
  rw [foldl_keeps State.draws]
  all_goals simp
@[simp] theorem State.gatePeriodEnd_resetHeld (s : State) (g : Gate) : (s.gatePeriodEnd g).resetHeld = s.resetHeld := by
  unfold State.gatePeriodEnd
  rw [foldl_keeps State.resetHeld]
  all_goals simp
@[simp] theorem State.gatePeriodEnd_clock (s : State) (g : Gate) : (s.gatePeriodEnd g).clock = s.clock := by
  unfold State.gatePeriodEnd
  rw [foldl_keeps State.clock]
  all_goals simp
@[simp] theorem State.gatePeriodEnd_setup (s : State) (g : Gate) : (s.gatePeriodEnd g).setup = s.setup := by
  unfold State.gatePeriodEnd
  rw [foldl_keeps State.setup]
  all_goals simp
@[simp] theorem State.gatePeriodEnd_gateLists (s : State) (g : Gate) : (s.gatePeriodEnd g).gateLists = s.gateLists := by
  unfold State.gatePeriodEnd
  rw [foldl_keeps State.gateLists]
  all_goals simp
@[simp] theorem State.gatePeriodEnd_arbiter (s : State) (g : Gate) : (s.gatePeriodEnd g).arbiter = s.arbiter := by
  unfold State.gatePeriodEnd
  rw [foldl_keeps State.arbiter]
  all_goals simp
@[simp] theorem State.gatePeriodEnd_inputs (s : State) (g : Gate) : (s.gatePeriodEnd g).inputs = s.inputs := by
  unfold State.gatePeriodEnd
  rw [foldl_keeps State.inputs]
  all_goals simp
@[simp] theorem State.gatePeriodEnd_trips (s : State) (g : Gate) : (s.gatePeriodEnd g).trips = s.trips := by
  unfold State.gatePeriodEnd
  rw [foldl_keeps State.trips]
  all_goals simp
@[simp] theorem State.gatePeriodEnd_ports (s : State) (g : Gate) : (s.gatePeriodEnd g).ports = s.ports := by
  unfold State.gatePeriodEnd
  rw [foldl_keeps State.ports]
  all_goals simp

@[simp] theorem State.marksIfEmpty_pending (s : State) : (s.marksIfEmpty).pending = s.pending := by
  unfold State.marksIfEmpty
  repeat' split
  all_goals simp
@[simp] theorem State.marksIfEmpty_draws (s : State) : (s.marksIfEmpty).draws = s.draws := by
  unfold State.marksIfEmpty
  repeat' split
  all_goals simp
@[simp] theorem State.marksIfEmpty_resetHeld (s : State) : (s.marksIfEmpty).resetHeld = s.resetHeld := by
  unfold State.marksIfEmpty
  repeat' split
  all_goals simp
@[simp] theorem State.marksIfEmpty_clock (s : State) : (s.marksIfEmpty).clock = s.clock := by
  unfold State.marksIfEmpty
  repeat' split
  all_goals simp
@[simp] theorem State.marksIfEmpty_setup (s : State) : (s.marksIfEmpty).setup = s.setup := by
  unfold State.marksIfEmpty
  repeat' split
  all_goals simp
@[simp] theorem State.marksIfEmpty_slots (s : State) : (s.marksIfEmpty).slots = s.slots := by
  unfold State.marksIfEmpty
  repeat' split
  all_goals simp
@[simp] theorem State.marksIfEmpty_driveLists (s : State) : (s.marksIfEmpty).driveLists = s.driveLists := by
  unfold State.marksIfEmpty
  repeat' split
  all_goals simp
@[simp] theorem State.marksIfEmpty_gateLists (s : State) : (s.marksIfEmpty).gateLists = s.gateLists := by
  unfold State.marksIfEmpty
  repeat' split
  all_goals simp
@[simp] theorem State.marksIfEmpty_notices (s : State) : (s.marksIfEmpty).notices = s.notices := by
  unfold State.marksIfEmpty
  repeat' split
  all_goals simp
@[simp] theorem State.marksIfEmpty_gates (s : State) : (s.marksIfEmpty).gates = s.gates := by
  unfold State.marksIfEmpty
  repeat' split
  all_goals simp
@[simp] theorem State.marksIfEmpty_drives (s : State) : (s.marksIfEmpty).drives = s.drives := by
  unfold State.marksIfEmpty
  repeat' split
  all_goals simp
@[simp] theorem State.marksIfEmpty_inputs (s : State) : (s.marksIfEmpty).inputs = s.inputs := by
  unfold State.marksIfEmpty
  repeat' split
  all_goals simp
@[simp] theorem State.marksIfEmpty_trips (s : State) : (s.marksIfEmpty).trips = s.trips := by
  unfold State.marksIfEmpty
  repeat' split
  all_goals simp
@[simp] theorem State.marksIfEmpty_ports (s : State) : (s.marksIfEmpty).ports = s.ports := by
  unfold State.marksIfEmpty
  repeat' split
  all_goals simp

@[simp] theorem State.deliver_pending (s : State) (c : AnalogCh) (v : Nat) (i : SlotIx) : (s.deliver c v i).pending = s.pending := by
  unfold State.deliver
  dsimp only
  repeat' split
  all_goals simp
@[simp] theorem State.deliver_draws (s : State) (c : AnalogCh) (v : Nat) (i : SlotIx) : (s.deliver c v i).draws = s.draws := by
  unfold State.deliver
  dsimp only
  repeat' split
  all_goals simp
@[simp] theorem State.deliver_resetHeld (s : State) (c : AnalogCh) (v : Nat) (i : SlotIx) : (s.deliver c v i).resetHeld = s.resetHeld := by
  unfold State.deliver
  dsimp only
  repeat' split
  all_goals simp
@[simp] theorem State.deliver_clock (s : State) (c : AnalogCh) (v : Nat) (i : SlotIx) : (s.deliver c v i).clock = s.clock := by
  unfold State.deliver
  dsimp only
  repeat' split
  all_goals simp
@[simp] theorem State.deliver_setup (s : State) (c : AnalogCh) (v : Nat) (i : SlotIx) : (s.deliver c v i).setup = s.setup := by
  unfold State.deliver
  dsimp only
  repeat' split
  all_goals simp
@[simp] theorem State.deliver_driveLists (s : State) (c : AnalogCh) (v : Nat) (i : SlotIx) : (s.deliver c v i).driveLists = s.driveLists := by
  unfold State.deliver
  dsimp only
  repeat' split
  all_goals simp
@[simp] theorem State.deliver_gateLists (s : State) (c : AnalogCh) (v : Nat) (i : SlotIx) : (s.deliver c v i).gateLists = s.gateLists := by
  unfold State.deliver
  dsimp only
  repeat' split
  all_goals simp
@[simp] theorem State.deliver_gates (s : State) (c : AnalogCh) (v : Nat) (i : SlotIx) : (s.deliver c v i).gates = s.gates := by
  unfold State.deliver
  dsimp only
  repeat' split
  all_goals simp
@[simp] theorem State.deliver_drives (s : State) (c : AnalogCh) (v : Nat) (i : SlotIx) : (s.deliver c v i).drives = s.drives := by
  unfold State.deliver
  dsimp only
  repeat' split
  all_goals simp
@[simp] theorem State.deliver_arbiter (s : State) (c : AnalogCh) (v : Nat) (i : SlotIx) : (s.deliver c v i).arbiter = s.arbiter := by
  unfold State.deliver
  dsimp only
  repeat' split
  all_goals simp
@[simp] theorem State.deliver_inputs (s : State) (c : AnalogCh) (v : Nat) (i : SlotIx) : (s.deliver c v i).inputs = s.inputs := by
  unfold State.deliver
  dsimp only
  repeat' split
  all_goals simp
@[simp] theorem State.deliver_ports (s : State) (c : AnalogCh) (v : Nat) (i : SlotIx) : (s.deliver c v i).ports = s.ports := by
  unfold State.deliver
  dsimp only
  repeat' split
  all_goals simp

@[simp] theorem State.dueMoment_pending (s : State) (c : AnalogCh) : (s.dueMoment c).pending = s.pending := by
  unfold State.dueMoment
  dsimp only
  repeat' split
  all_goals try simp
  all_goals repeat rw [foldl_keeps State.pending]
  all_goals simp
@[simp] theorem State.dueMoment_draws (s : State) (c : AnalogCh) : (s.dueMoment c).draws = s.draws := by
  unfold State.dueMoment
  dsimp only
  repeat' split
  all_goals try simp
  all_goals repeat rw [foldl_keeps State.draws]
  all_goals simp
@[simp] theorem State.dueMoment_resetHeld (s : State) (c : AnalogCh) : (s.dueMoment c).resetHeld = s.resetHeld := by
  unfold State.dueMoment
  dsimp only
  repeat' split
  all_goals try simp
  all_goals repeat rw [foldl_keeps State.resetHeld]
  all_goals simp
@[simp] theorem State.dueMoment_clock (s : State) (c : AnalogCh) : (s.dueMoment c).clock = s.clock := by
  unfold State.dueMoment
  dsimp only
  repeat' split
  all_goals try simp
  all_goals repeat rw [foldl_keeps State.clock]
  all_goals simp
@[simp] theorem State.dueMoment_setup (s : State) (c : AnalogCh) : (s.dueMoment c).setup = s.setup := by
  unfold State.dueMoment
  dsimp only
  repeat' split
  all_goals try simp
  all_goals repeat rw [foldl_keeps State.setup]
  all_goals simp
@[simp] theorem State.dueMoment_driveLists (s : State) (c : AnalogCh) : (s.dueMoment c).driveLists = s.driveLists := by
  unfold State.dueMoment
  dsimp only
  repeat' split
  all_goals try simp
  all_goals repeat rw [foldl_keeps State.driveLists]
  all_goals simp
@[simp] theorem State.dueMoment_gateLists (s : State) (c : AnalogCh) : (s.dueMoment c).gateLists = s.gateLists := by
  unfold State.dueMoment
  dsimp only
  repeat' split
  all_goals try simp
  all_goals repeat rw [foldl_keeps State.gateLists]
  all_goals simp
@[simp] theorem State.dueMoment_gates (s : State) (c : AnalogCh) : (s.dueMoment c).gates = s.gates := by
  unfold State.dueMoment
  dsimp only
  repeat' split
  all_goals try simp
  all_goals repeat rw [foldl_keeps State.gates]
  all_goals simp
@[simp] theorem State.dueMoment_drives (s : State) (c : AnalogCh) : (s.dueMoment c).drives = s.drives := by
  unfold State.dueMoment
  dsimp only
  repeat' split
  all_goals try simp
  all_goals repeat rw [foldl_keeps State.drives]
  all_goals simp
@[simp] theorem State.dueMoment_inputs (s : State) (c : AnalogCh) : (s.dueMoment c).inputs = s.inputs := by
  unfold State.dueMoment
  dsimp only
  repeat' split
  all_goals try simp
  all_goals repeat rw [foldl_keeps State.inputs]
  all_goals simp
@[simp] theorem State.dueMoment_trips (s : State) (c : AnalogCh) : (s.dueMoment c).trips = s.trips := by
  unfold State.dueMoment
  dsimp only
  repeat' split
  all_goals try simp
  all_goals repeat rw [foldl_keeps State.trips]
  all_goals simp
@[simp] theorem State.dueMoment_ports (s : State) (c : AnalogCh) : (s.dueMoment c).ports = s.ports := by
  unfold State.dueMoment
  dsimp only
  repeat' split
  all_goals try simp
  all_goals repeat rw [foldl_keeps State.ports]
  all_goals simp

@[simp] theorem State.dropDemand_pending (s : State) (c : AnalogCh) (i : SlotIx) : (s.dropDemand c i).pending = s.pending := by simp [State.dropDemand]
@[simp] theorem State.dropDemand_draws (s : State) (c : AnalogCh) (i : SlotIx) : (s.dropDemand c i).draws = s.draws := by simp [State.dropDemand]
@[simp] theorem State.dropDemand_resetHeld (s : State) (c : AnalogCh) (i : SlotIx) : (s.dropDemand c i).resetHeld = s.resetHeld := by simp [State.dropDemand]
@[simp] theorem State.dropDemand_clock (s : State) (c : AnalogCh) (i : SlotIx) : (s.dropDemand c i).clock = s.clock := by simp [State.dropDemand]
@[simp] theorem State.dropDemand_setup (s : State) (c : AnalogCh) (i : SlotIx) : (s.dropDemand c i).setup = s.setup := by simp [State.dropDemand]
@[simp] theorem State.dropDemand_slots (s : State) (c : AnalogCh) (i : SlotIx) : (s.dropDemand c i).slots = s.slots := by simp [State.dropDemand]
@[simp] theorem State.dropDemand_driveLists (s : State) (c : AnalogCh) (i : SlotIx) : (s.dropDemand c i).driveLists = s.driveLists := by simp [State.dropDemand]
@[simp] theorem State.dropDemand_gateLists (s : State) (c : AnalogCh) (i : SlotIx) : (s.dropDemand c i).gateLists = s.gateLists := by simp [State.dropDemand]
@[simp] theorem State.dropDemand_notices (s : State) (c : AnalogCh) (i : SlotIx) : (s.dropDemand c i).notices = s.notices := by simp [State.dropDemand]
@[simp] theorem State.dropDemand_gates (s : State) (c : AnalogCh) (i : SlotIx) : (s.dropDemand c i).gates = s.gates := by simp [State.dropDemand]
@[simp] theorem State.dropDemand_drives (s : State) (c : AnalogCh) (i : SlotIx) : (s.dropDemand c i).drives = s.drives := by simp [State.dropDemand]
@[simp] theorem State.dropDemand_inputs (s : State) (c : AnalogCh) (i : SlotIx) : (s.dropDemand c i).inputs = s.inputs := by simp [State.dropDemand]
@[simp] theorem State.dropDemand_trips (s : State) (c : AnalogCh) (i : SlotIx) : (s.dropDemand c i).trips = s.trips := by simp [State.dropDemand]
@[simp] theorem State.dropDemand_ports (s : State) (c : AnalogCh) (i : SlotIx) : (s.dropDemand c i).ports = s.ports := by simp [State.dropDemand]

@[simp] theorem State.grant_pending (s : State) (c : AnalogCh) : (s.grant c).pending = s.pending := by
  unfold State.grant
  dsimp only
  repeat' split
  all_goals simp
@[simp] theorem State.grant_draws (s : State) (c : AnalogCh) : (s.grant c).draws = s.draws := by
  unfold State.grant
  dsimp only
  repeat' split
  all_goals simp
@[simp] theorem State.grant_resetHeld (s : State) (c : AnalogCh) : (s.grant c).resetHeld = s.resetHeld := by
  unfold State.grant
  dsimp only
  repeat' split
  all_goals simp
@[simp] theorem State.grant_clock (s : State) (c : AnalogCh) : (s.grant c).clock = s.clock := by
  unfold State.grant
  dsimp only
  repeat' split
  all_goals simp
@[simp] theorem State.grant_setup (s : State) (c : AnalogCh) : (s.grant c).setup = s.setup := by
  unfold State.grant
  dsimp only
  repeat' split
  all_goals simp
@[simp] theorem State.grant_slots (s : State) (c : AnalogCh) : (s.grant c).slots = s.slots := by
  unfold State.grant
  dsimp only
  repeat' split
  all_goals simp
@[simp] theorem State.grant_driveLists (s : State) (c : AnalogCh) : (s.grant c).driveLists = s.driveLists := by
  unfold State.grant
  dsimp only
  repeat' split
  all_goals simp
@[simp] theorem State.grant_gateLists (s : State) (c : AnalogCh) : (s.grant c).gateLists = s.gateLists := by
  unfold State.grant
  dsimp only
  repeat' split
  all_goals simp
@[simp] theorem State.grant_notices (s : State) (c : AnalogCh) : (s.grant c).notices = s.notices := by
  unfold State.grant
  dsimp only
  repeat' split
  all_goals simp
@[simp] theorem State.grant_gates (s : State) (c : AnalogCh) : (s.grant c).gates = s.gates := by
  unfold State.grant
  dsimp only
  repeat' split
  all_goals simp
@[simp] theorem State.grant_drives (s : State) (c : AnalogCh) : (s.grant c).drives = s.drives := by
  unfold State.grant
  dsimp only
  repeat' split
  all_goals simp
@[simp] theorem State.grant_inputs (s : State) (c : AnalogCh) : (s.grant c).inputs = s.inputs := by
  unfold State.grant
  dsimp only
  repeat' split
  all_goals simp
@[simp] theorem State.grant_trips (s : State) (c : AnalogCh) : (s.grant c).trips = s.trips := by
  unfold State.grant
  dsimp only
  repeat' split
  all_goals simp
@[simp] theorem State.grant_ports (s : State) (c : AnalogCh) : (s.grant c).ports = s.ports := by
  unfold State.grant
  dsimp only
  repeat' split
  all_goals simp

@[simp] theorem State.visit_pending (s : State) (n : Nat) : (s.visit n).2.pending = s.pending := by
  unfold State.visit
  dsimp only
  repeat' split
  all_goals rfl
@[simp] theorem State.visit_draws (s : State) (n : Nat) : (s.visit n).2.draws = s.draws := by
  unfold State.visit
  dsimp only
  repeat' split
  all_goals rfl
@[simp] theorem State.visit_resetHeld (s : State) (n : Nat) : (s.visit n).2.resetHeld = s.resetHeld := by
  unfold State.visit
  dsimp only
  repeat' split
  all_goals rfl
@[simp] theorem State.visit_clock (s : State) (n : Nat) : (s.visit n).2.clock = s.clock := by
  unfold State.visit
  dsimp only
  repeat' split
  all_goals rfl
@[simp] theorem State.visit_setup (s : State) (n : Nat) : (s.visit n).2.setup = s.setup := by
  unfold State.visit
  dsimp only
  repeat' split
  all_goals rfl
@[simp] theorem State.visit_slots (s : State) (n : Nat) : (s.visit n).2.slots = s.slots := by
  unfold State.visit
  dsimp only
  repeat' split
  all_goals rfl
@[simp] theorem State.visit_driveLists (s : State) (n : Nat) : (s.visit n).2.driveLists = s.driveLists := by
  unfold State.visit
  dsimp only
  repeat' split
  all_goals rfl
@[simp] theorem State.visit_gateLists (s : State) (n : Nat) : (s.visit n).2.gateLists = s.gateLists := by
  unfold State.visit
  dsimp only
  repeat' split
  all_goals rfl
@[simp] theorem State.visit_notices (s : State) (n : Nat) : (s.visit n).2.notices = s.notices := by
  unfold State.visit
  dsimp only
  repeat' split
  all_goals rfl
@[simp] theorem State.visit_gates (s : State) (n : Nat) : (s.visit n).2.gates = s.gates := by
  unfold State.visit
  dsimp only
  repeat' split
  all_goals rfl
@[simp] theorem State.visit_drives (s : State) (n : Nat) : (s.visit n).2.drives = s.drives := by
  unfold State.visit
  dsimp only
  repeat' split
  all_goals rfl
@[simp] theorem State.visit_inputs (s : State) (n : Nat) : (s.visit n).2.inputs = s.inputs := by
  unfold State.visit
  dsimp only
  repeat' split
  all_goals rfl
@[simp] theorem State.visit_trips (s : State) (n : Nat) : (s.visit n).2.trips = s.trips := by
  unfold State.visit
  dsimp only
  repeat' split
  all_goals rfl
@[simp] theorem State.visit_ports (s : State) (n : Nat) : (s.visit n).2.ports = s.ports := by
  unfold State.visit
  dsimp only
  repeat' split
  all_goals rfl

/-- A field that the next visit leaves is left by the member that is followed. -/
theorem State.follow_keeps {β : Type} (F : State → β) (s : State) (m : Option Member) (next : State → State)
    (hg : ∀ (t : State) (c : AnalogCh), F (t.grant c) = F t) (hn : ∀ t : State, F (next t) = F t) :
    F (s.follow m next) = F s := by
  unfold State.follow
  repeat' split
  all_goals first | rfl | apply hg | apply hn

@[simp] theorem State.decideGrant_pending (s : State) : (s.decideGrant).pending = s.pending := by
  unfold State.decideGrant
  dsimp only
  rw [State.follow_keeps State.pending _ _ _ (fun _ _ => by simp) fun t => ?_, State.visit_pending]
  rw [State.follow_keeps State.pending _ _ _ (fun _ _ => by simp) fun t => ?_, State.visit_pending]
  rw [State.follow_keeps State.pending _ _ id (fun _ _ => by simp) fun t => rfl, State.visit_pending]
@[simp] theorem State.decideGrant_draws (s : State) : (s.decideGrant).draws = s.draws := by
  unfold State.decideGrant
  dsimp only
  rw [State.follow_keeps State.draws _ _ _ (fun _ _ => by simp) fun t => ?_, State.visit_draws]
  rw [State.follow_keeps State.draws _ _ _ (fun _ _ => by simp) fun t => ?_, State.visit_draws]
  rw [State.follow_keeps State.draws _ _ id (fun _ _ => by simp) fun t => rfl, State.visit_draws]
@[simp] theorem State.decideGrant_resetHeld (s : State) : (s.decideGrant).resetHeld = s.resetHeld := by
  unfold State.decideGrant
  dsimp only
  rw [State.follow_keeps State.resetHeld _ _ _ (fun _ _ => by simp) fun t => ?_, State.visit_resetHeld]
  rw [State.follow_keeps State.resetHeld _ _ _ (fun _ _ => by simp) fun t => ?_, State.visit_resetHeld]
  rw [State.follow_keeps State.resetHeld _ _ id (fun _ _ => by simp) fun t => rfl, State.visit_resetHeld]
@[simp] theorem State.decideGrant_clock (s : State) : (s.decideGrant).clock = s.clock := by
  unfold State.decideGrant
  dsimp only
  rw [State.follow_keeps State.clock _ _ _ (fun _ _ => by simp) fun t => ?_, State.visit_clock]
  rw [State.follow_keeps State.clock _ _ _ (fun _ _ => by simp) fun t => ?_, State.visit_clock]
  rw [State.follow_keeps State.clock _ _ id (fun _ _ => by simp) fun t => rfl, State.visit_clock]
@[simp] theorem State.decideGrant_setup (s : State) : (s.decideGrant).setup = s.setup := by
  unfold State.decideGrant
  dsimp only
  rw [State.follow_keeps State.setup _ _ _ (fun _ _ => by simp) fun t => ?_, State.visit_setup]
  rw [State.follow_keeps State.setup _ _ _ (fun _ _ => by simp) fun t => ?_, State.visit_setup]
  rw [State.follow_keeps State.setup _ _ id (fun _ _ => by simp) fun t => rfl, State.visit_setup]
@[simp] theorem State.decideGrant_slots (s : State) : (s.decideGrant).slots = s.slots := by
  unfold State.decideGrant
  dsimp only
  rw [State.follow_keeps State.slots _ _ _ (fun _ _ => by simp) fun t => ?_, State.visit_slots]
  rw [State.follow_keeps State.slots _ _ _ (fun _ _ => by simp) fun t => ?_, State.visit_slots]
  rw [State.follow_keeps State.slots _ _ id (fun _ _ => by simp) fun t => rfl, State.visit_slots]
@[simp] theorem State.decideGrant_driveLists (s : State) : (s.decideGrant).driveLists = s.driveLists := by
  unfold State.decideGrant
  dsimp only
  rw [State.follow_keeps State.driveLists _ _ _ (fun _ _ => by simp) fun t => ?_, State.visit_driveLists]
  rw [State.follow_keeps State.driveLists _ _ _ (fun _ _ => by simp) fun t => ?_, State.visit_driveLists]
  rw [State.follow_keeps State.driveLists _ _ id (fun _ _ => by simp) fun t => rfl, State.visit_driveLists]
@[simp] theorem State.decideGrant_gateLists (s : State) : (s.decideGrant).gateLists = s.gateLists := by
  unfold State.decideGrant
  dsimp only
  rw [State.follow_keeps State.gateLists _ _ _ (fun _ _ => by simp) fun t => ?_, State.visit_gateLists]
  rw [State.follow_keeps State.gateLists _ _ _ (fun _ _ => by simp) fun t => ?_, State.visit_gateLists]
  rw [State.follow_keeps State.gateLists _ _ id (fun _ _ => by simp) fun t => rfl, State.visit_gateLists]
@[simp] theorem State.decideGrant_notices (s : State) : (s.decideGrant).notices = s.notices := by
  unfold State.decideGrant
  dsimp only
  rw [State.follow_keeps State.notices _ _ _ (fun _ _ => by simp) fun t => ?_, State.visit_notices]
  rw [State.follow_keeps State.notices _ _ _ (fun _ _ => by simp) fun t => ?_, State.visit_notices]
  rw [State.follow_keeps State.notices _ _ id (fun _ _ => by simp) fun t => rfl, State.visit_notices]
@[simp] theorem State.decideGrant_gates (s : State) : (s.decideGrant).gates = s.gates := by
  unfold State.decideGrant
  dsimp only
  rw [State.follow_keeps State.gates _ _ _ (fun _ _ => by simp) fun t => ?_, State.visit_gates]
  rw [State.follow_keeps State.gates _ _ _ (fun _ _ => by simp) fun t => ?_, State.visit_gates]
  rw [State.follow_keeps State.gates _ _ id (fun _ _ => by simp) fun t => rfl, State.visit_gates]
@[simp] theorem State.decideGrant_drives (s : State) : (s.decideGrant).drives = s.drives := by
  unfold State.decideGrant
  dsimp only
  rw [State.follow_keeps State.drives _ _ _ (fun _ _ => by simp) fun t => ?_, State.visit_drives]
  rw [State.follow_keeps State.drives _ _ _ (fun _ _ => by simp) fun t => ?_, State.visit_drives]
  rw [State.follow_keeps State.drives _ _ id (fun _ _ => by simp) fun t => rfl, State.visit_drives]
@[simp] theorem State.decideGrant_inputs (s : State) : (s.decideGrant).inputs = s.inputs := by
  unfold State.decideGrant
  dsimp only
  rw [State.follow_keeps State.inputs _ _ _ (fun _ _ => by simp) fun t => ?_, State.visit_inputs]
  rw [State.follow_keeps State.inputs _ _ _ (fun _ _ => by simp) fun t => ?_, State.visit_inputs]
  rw [State.follow_keeps State.inputs _ _ id (fun _ _ => by simp) fun t => rfl, State.visit_inputs]
@[simp] theorem State.decideGrant_trips (s : State) : (s.decideGrant).trips = s.trips := by
  unfold State.decideGrant
  dsimp only
  rw [State.follow_keeps State.trips _ _ _ (fun _ _ => by simp) fun t => ?_, State.visit_trips]
  rw [State.follow_keeps State.trips _ _ _ (fun _ _ => by simp) fun t => ?_, State.visit_trips]
  rw [State.follow_keeps State.trips _ _ id (fun _ _ => by simp) fun t => rfl, State.visit_trips]
@[simp] theorem State.decideGrant_ports (s : State) : (s.decideGrant).ports = s.ports := by
  unfold State.decideGrant
  dsimp only
  rw [State.follow_keeps State.ports _ _ _ (fun _ _ => by simp) fun t => ?_, State.visit_ports]
  rw [State.follow_keeps State.ports _ _ _ (fun _ _ => by simp) fun t => ?_, State.visit_ports]
  rw [State.follow_keeps State.ports _ _ id (fun _ _ => by simp) fun t => rfl, State.visit_ports]

@[simp] theorem State.decideIfFree_pending (s : State) : (s.decideIfFree).pending = s.pending := by
  unfold State.decideIfFree
  repeat' split
  all_goals simp
@[simp] theorem State.decideIfFree_draws (s : State) : (s.decideIfFree).draws = s.draws := by
  unfold State.decideIfFree
  repeat' split
  all_goals simp
@[simp] theorem State.decideIfFree_resetHeld (s : State) : (s.decideIfFree).resetHeld = s.resetHeld := by
  unfold State.decideIfFree
  repeat' split
  all_goals simp
@[simp] theorem State.decideIfFree_clock (s : State) : (s.decideIfFree).clock = s.clock := by
  unfold State.decideIfFree
  repeat' split
  all_goals simp
@[simp] theorem State.decideIfFree_setup (s : State) : (s.decideIfFree).setup = s.setup := by
  unfold State.decideIfFree
  repeat' split
  all_goals simp
@[simp] theorem State.decideIfFree_slots (s : State) : (s.decideIfFree).slots = s.slots := by
  unfold State.decideIfFree
  repeat' split
  all_goals simp
@[simp] theorem State.decideIfFree_driveLists (s : State) : (s.decideIfFree).driveLists = s.driveLists := by
  unfold State.decideIfFree
  repeat' split
  all_goals simp
@[simp] theorem State.decideIfFree_gateLists (s : State) : (s.decideIfFree).gateLists = s.gateLists := by
  unfold State.decideIfFree
  repeat' split
  all_goals simp
@[simp] theorem State.decideIfFree_notices (s : State) : (s.decideIfFree).notices = s.notices := by
  unfold State.decideIfFree
  repeat' split
  all_goals simp
@[simp] theorem State.decideIfFree_gates (s : State) : (s.decideIfFree).gates = s.gates := by
  unfold State.decideIfFree
  repeat' split
  all_goals simp
@[simp] theorem State.decideIfFree_drives (s : State) : (s.decideIfFree).drives = s.drives := by
  unfold State.decideIfFree
  repeat' split
  all_goals simp
@[simp] theorem State.decideIfFree_inputs (s : State) : (s.decideIfFree).inputs = s.inputs := by
  unfold State.decideIfFree
  repeat' split
  all_goals simp
@[simp] theorem State.decideIfFree_trips (s : State) : (s.decideIfFree).trips = s.trips := by
  unfold State.decideIfFree
  repeat' split
  all_goals simp
@[simp] theorem State.decideIfFree_ports (s : State) : (s.decideIfFree).ports = s.ports := by
  unfold State.decideIfFree
  repeat' split
  all_goals simp

@[simp] theorem State.scheduleAdvance_pending (s : State) : (s.scheduleAdvance).pending = s.pending := by
  unfold State.scheduleAdvance
  try simp
  try dsimp only
  repeat rw [foldl_keeps State.pending]
  all_goals simp
@[simp] theorem State.scheduleAdvance_draws (s : State) : (s.scheduleAdvance).draws = s.draws := by
  unfold State.scheduleAdvance
  try simp
  try dsimp only
  repeat rw [foldl_keeps State.draws]
  all_goals simp
@[simp] theorem State.scheduleAdvance_resetHeld (s : State) : (s.scheduleAdvance).resetHeld = s.resetHeld := by
  unfold State.scheduleAdvance
  try simp
  try dsimp only
  repeat rw [foldl_keeps State.resetHeld]
  all_goals simp
@[simp] theorem State.scheduleAdvance_clock (s : State) : (s.scheduleAdvance).clock = s.clock := by
  unfold State.scheduleAdvance
  try simp
  try dsimp only
  repeat rw [foldl_keeps State.clock]
  all_goals simp
@[simp] theorem State.scheduleAdvance_setup (s : State) : (s.scheduleAdvance).setup = s.setup := by
  unfold State.scheduleAdvance
  try simp
  try dsimp only
  repeat rw [foldl_keeps State.setup]
  all_goals simp
@[simp] theorem State.scheduleAdvance_driveLists (s : State) : (s.scheduleAdvance).driveLists = s.driveLists := by
  unfold State.scheduleAdvance
  try simp
  try dsimp only
  repeat rw [foldl_keeps State.driveLists]
  all_goals simp
@[simp] theorem State.scheduleAdvance_gateLists (s : State) : (s.scheduleAdvance).gateLists = s.gateLists := by
  unfold State.scheduleAdvance
  try simp
  try dsimp only
  repeat rw [foldl_keeps State.gateLists]
  all_goals simp
@[simp] theorem State.scheduleAdvance_gates (s : State) : (s.scheduleAdvance).gates = s.gates := by
  unfold State.scheduleAdvance
  try simp
  try dsimp only
  repeat rw [foldl_keeps State.gates]
  all_goals simp
@[simp] theorem State.scheduleAdvance_drives (s : State) : (s.scheduleAdvance).drives = s.drives := by
  unfold State.scheduleAdvance
  try simp
  try dsimp only
  repeat rw [foldl_keeps State.drives]
  all_goals simp
@[simp] theorem State.scheduleAdvance_inputs (s : State) : (s.scheduleAdvance).inputs = s.inputs := by
  unfold State.scheduleAdvance
  try simp
  try dsimp only
  repeat rw [foldl_keeps State.inputs]
  all_goals simp
@[simp] theorem State.scheduleAdvance_trips (s : State) : (s.scheduleAdvance).trips = s.trips := by
  unfold State.scheduleAdvance
  try simp
  try dsimp only
  repeat rw [foldl_keeps State.trips]
  all_goals simp
@[simp] theorem State.scheduleAdvance_ports (s : State) : (s.scheduleAdvance).ports = s.ports := by
  unfold State.scheduleAdvance
  try simp
  try dsimp only
  repeat rw [foldl_keeps State.ports]
  all_goals simp

@[simp] theorem State.handEdge_pending (s : State) (v : Level) (t : Count32) (i : SlotIx) : (s.handEdge v t i).pending = s.pending := by
  unfold State.handEdge
  dsimp only
  repeat' split
  all_goals simp
@[simp] theorem State.handEdge_draws (s : State) (v : Level) (t : Count32) (i : SlotIx) : (s.handEdge v t i).draws = s.draws := by
  unfold State.handEdge
  dsimp only
  repeat' split
  all_goals simp
@[simp] theorem State.handEdge_resetHeld (s : State) (v : Level) (t : Count32) (i : SlotIx) : (s.handEdge v t i).resetHeld = s.resetHeld := by
  unfold State.handEdge
  dsimp only
  repeat' split
  all_goals simp
@[simp] theorem State.handEdge_clock (s : State) (v : Level) (t : Count32) (i : SlotIx) : (s.handEdge v t i).clock = s.clock := by
  unfold State.handEdge
  dsimp only
  repeat' split
  all_goals simp
@[simp] theorem State.handEdge_setup (s : State) (v : Level) (t : Count32) (i : SlotIx) : (s.handEdge v t i).setup = s.setup := by
  unfold State.handEdge
  dsimp only
  repeat' split
  all_goals simp
@[simp] theorem State.handEdge_driveLists (s : State) (v : Level) (t : Count32) (i : SlotIx) : (s.handEdge v t i).driveLists = s.driveLists := by
  unfold State.handEdge
  dsimp only
  repeat' split
  all_goals simp
@[simp] theorem State.handEdge_gateLists (s : State) (v : Level) (t : Count32) (i : SlotIx) : (s.handEdge v t i).gateLists = s.gateLists := by
  unfold State.handEdge
  dsimp only
  repeat' split
  all_goals simp
@[simp] theorem State.handEdge_gates (s : State) (v : Level) (t : Count32) (i : SlotIx) : (s.handEdge v t i).gates = s.gates := by
  unfold State.handEdge
  dsimp only
  repeat' split
  all_goals simp
@[simp] theorem State.handEdge_drives (s : State) (v : Level) (t : Count32) (i : SlotIx) : (s.handEdge v t i).drives = s.drives := by
  unfold State.handEdge
  dsimp only
  repeat' split
  all_goals simp
@[simp] theorem State.handEdge_arbiter (s : State) (v : Level) (t : Count32) (i : SlotIx) : (s.handEdge v t i).arbiter = s.arbiter := by
  unfold State.handEdge
  dsimp only
  repeat' split
  all_goals simp
@[simp] theorem State.handEdge_inputs (s : State) (v : Level) (t : Count32) (i : SlotIx) : (s.handEdge v t i).inputs = s.inputs := by
  unfold State.handEdge
  dsimp only
  repeat' split
  all_goals simp
@[simp] theorem State.handEdge_trips (s : State) (v : Level) (t : Count32) (i : SlotIx) : (s.handEdge v t i).trips = s.trips := by
  unfold State.handEdge
  dsimp only
  repeat' split
  all_goals simp
@[simp] theorem State.handEdge_ports (s : State) (v : Level) (t : Count32) (i : SlotIx) : (s.handEdge v t i).ports = s.ports := by
  unfold State.handEdge
  dsimp only
  repeat' split
  all_goals simp

@[simp] theorem State.acceptEdge_pending (s : State) (e : EdgeIn) (t : Count32) : (s.acceptEdge e t).pending = s.pending := by
  unfold State.acceptEdge
  dsimp only
  repeat' split
  all_goals try simp
  all_goals repeat rw [foldl_keeps State.pending]
  all_goals simp
@[simp] theorem State.acceptEdge_draws (s : State) (e : EdgeIn) (t : Count32) : (s.acceptEdge e t).draws = s.draws := by
  unfold State.acceptEdge
  dsimp only
  repeat' split
  all_goals try simp
  all_goals repeat rw [foldl_keeps State.draws]
  all_goals simp
@[simp] theorem State.acceptEdge_resetHeld (s : State) (e : EdgeIn) (t : Count32) : (s.acceptEdge e t).resetHeld = s.resetHeld := by
  unfold State.acceptEdge
  dsimp only
  repeat' split
  all_goals try simp
  all_goals repeat rw [foldl_keeps State.resetHeld]
  all_goals simp
@[simp] theorem State.acceptEdge_clock (s : State) (e : EdgeIn) (t : Count32) : (s.acceptEdge e t).clock = s.clock := by
  unfold State.acceptEdge
  dsimp only
  repeat' split
  all_goals try simp
  all_goals repeat rw [foldl_keeps State.clock]
  all_goals simp
@[simp] theorem State.acceptEdge_setup (s : State) (e : EdgeIn) (t : Count32) : (s.acceptEdge e t).setup = s.setup := by
  unfold State.acceptEdge
  dsimp only
  repeat' split
  all_goals try simp
  all_goals repeat rw [foldl_keeps State.setup]
  all_goals simp
@[simp] theorem State.acceptEdge_driveLists (s : State) (e : EdgeIn) (t : Count32) : (s.acceptEdge e t).driveLists = s.driveLists := by
  unfold State.acceptEdge
  dsimp only
  repeat' split
  all_goals try simp
  all_goals repeat rw [foldl_keeps State.driveLists]
  all_goals simp
@[simp] theorem State.acceptEdge_gateLists (s : State) (e : EdgeIn) (t : Count32) : (s.acceptEdge e t).gateLists = s.gateLists := by
  unfold State.acceptEdge
  dsimp only
  repeat' split
  all_goals try simp
  all_goals repeat rw [foldl_keeps State.gateLists]
  all_goals simp
@[simp] theorem State.acceptEdge_gates (s : State) (e : EdgeIn) (t : Count32) : (s.acceptEdge e t).gates = s.gates := by
  unfold State.acceptEdge
  dsimp only
  repeat' split
  all_goals try simp
  all_goals repeat rw [foldl_keeps State.gates]
  all_goals simp
@[simp] theorem State.acceptEdge_drives (s : State) (e : EdgeIn) (t : Count32) : (s.acceptEdge e t).drives = s.drives := by
  unfold State.acceptEdge
  dsimp only
  repeat' split
  all_goals try simp
  all_goals repeat rw [foldl_keeps State.drives]
  all_goals simp
@[simp] theorem State.acceptEdge_arbiter (s : State) (e : EdgeIn) (t : Count32) : (s.acceptEdge e t).arbiter = s.arbiter := by
  unfold State.acceptEdge
  dsimp only
  repeat' split
  all_goals try simp
  all_goals repeat rw [foldl_keeps State.arbiter]
  all_goals simp
@[simp] theorem State.acceptEdge_trips (s : State) (e : EdgeIn) (t : Count32) : (s.acceptEdge e t).trips = s.trips := by
  unfold State.acceptEdge
  dsimp only
  repeat' split
  all_goals try simp
  all_goals repeat rw [foldl_keeps State.trips]
  all_goals simp
@[simp] theorem State.acceptEdge_ports (s : State) (e : EdgeIn) (t : Count32) : (s.acceptEdge e t).ports = s.ports := by
  unfold State.acceptEdge
  dsimp only
  repeat' split
  all_goals try simp
  all_goals repeat rw [foldl_keeps State.ports]
  all_goals simp

@[simp] theorem State.edgeMomentAt_pending (s : State) (i : SlotIx) : (s.edgeMomentAt i).1.pending = s.pending := by
  unfold State.edgeMomentAt
  dsimp only
  repeat' split
  all_goals simp
@[simp] theorem State.edgeMomentAt_draws (s : State) (i : SlotIx) : (s.edgeMomentAt i).1.draws = s.draws := by
  unfold State.edgeMomentAt
  dsimp only
  repeat' split
  all_goals simp
@[simp] theorem State.edgeMomentAt_resetHeld (s : State) (i : SlotIx) : (s.edgeMomentAt i).1.resetHeld = s.resetHeld := by
  unfold State.edgeMomentAt
  dsimp only
  repeat' split
  all_goals simp
@[simp] theorem State.edgeMomentAt_clock (s : State) (i : SlotIx) : (s.edgeMomentAt i).1.clock = s.clock := by
  unfold State.edgeMomentAt
  dsimp only
  repeat' split
  all_goals simp
@[simp] theorem State.edgeMomentAt_setup (s : State) (i : SlotIx) : (s.edgeMomentAt i).1.setup = s.setup := by
  unfold State.edgeMomentAt
  dsimp only
  repeat' split
  all_goals simp
@[simp] theorem State.edgeMomentAt_driveLists (s : State) (i : SlotIx) : (s.edgeMomentAt i).1.driveLists = s.driveLists := by
  unfold State.edgeMomentAt
  dsimp only
  repeat' split
  all_goals simp
@[simp] theorem State.edgeMomentAt_gateLists (s : State) (i : SlotIx) : (s.edgeMomentAt i).1.gateLists = s.gateLists := by
  unfold State.edgeMomentAt
  dsimp only
  repeat' split
  all_goals simp
@[simp] theorem State.edgeMomentAt_gates (s : State) (i : SlotIx) : (s.edgeMomentAt i).1.gates = s.gates := by
  unfold State.edgeMomentAt
  dsimp only
  repeat' split
  all_goals simp
@[simp] theorem State.edgeMomentAt_drives (s : State) (i : SlotIx) : (s.edgeMomentAt i).1.drives = s.drives := by
  unfold State.edgeMomentAt
  dsimp only
  repeat' split
  all_goals simp
@[simp] theorem State.edgeMomentAt_arbiter (s : State) (i : SlotIx) : (s.edgeMomentAt i).1.arbiter = s.arbiter := by
  unfold State.edgeMomentAt
  dsimp only
  repeat' split
  all_goals simp
@[simp] theorem State.edgeMomentAt_inputs (s : State) (i : SlotIx) : (s.edgeMomentAt i).1.inputs = s.inputs := by
  unfold State.edgeMomentAt
  dsimp only
  repeat' split
  all_goals simp
@[simp] theorem State.edgeMomentAt_trips (s : State) (i : SlotIx) : (s.edgeMomentAt i).1.trips = s.trips := by
  unfold State.edgeMomentAt
  dsimp only
  repeat' split
  all_goals simp
@[simp] theorem State.edgeMomentAt_ports (s : State) (i : SlotIx) : (s.edgeMomentAt i).1.ports = s.ports := by
  unfold State.edgeMomentAt
  dsimp only
  repeat' split
  all_goals simp

/-- What the interval moment of one claim leaves, those of several leave. -/
theorem State.edgeMoments_keeps {β : Type} (field : State → β)
    (leaves : ∀ (now : State) i, field (now.edgeMomentAt i).1 = field now) (s : State) (is : List SlotIx) :
    field (s.edgeMoments is).1 = field s :=
  List.foldlRecOn is _ (motive := fun p : State × List RaisedTrip => field p.1 = field s) rfl
    fun p kept i _ => (leaves p.1 i).trans kept

@[simp] theorem State.edgeMoments_pending (s : State) (is : List SlotIx) : (s.edgeMoments is).1.pending = s.pending :=
  s.edgeMoments_keeps State.pending (fun _ _ => by simp) is
@[simp] theorem State.edgeMoments_draws (s : State) (is : List SlotIx) : (s.edgeMoments is).1.draws = s.draws :=
  s.edgeMoments_keeps State.draws (fun _ _ => by simp) is
@[simp] theorem State.edgeMoments_resetHeld (s : State) (is : List SlotIx) : (s.edgeMoments is).1.resetHeld = s.resetHeld :=
  s.edgeMoments_keeps State.resetHeld (fun _ _ => by simp) is
@[simp] theorem State.edgeMoments_clock (s : State) (is : List SlotIx) : (s.edgeMoments is).1.clock = s.clock :=
  s.edgeMoments_keeps State.clock (fun _ _ => by simp) is
@[simp] theorem State.edgeMoments_setup (s : State) (is : List SlotIx) : (s.edgeMoments is).1.setup = s.setup :=
  s.edgeMoments_keeps State.setup (fun _ _ => by simp) is
@[simp] theorem State.edgeMoments_driveLists (s : State) (is : List SlotIx) : (s.edgeMoments is).1.driveLists = s.driveLists :=
  s.edgeMoments_keeps State.driveLists (fun _ _ => by simp) is
@[simp] theorem State.edgeMoments_gateLists (s : State) (is : List SlotIx) : (s.edgeMoments is).1.gateLists = s.gateLists :=
  s.edgeMoments_keeps State.gateLists (fun _ _ => by simp) is
@[simp] theorem State.edgeMoments_gates (s : State) (is : List SlotIx) : (s.edgeMoments is).1.gates = s.gates :=
  s.edgeMoments_keeps State.gates (fun _ _ => by simp) is
@[simp] theorem State.edgeMoments_drives (s : State) (is : List SlotIx) : (s.edgeMoments is).1.drives = s.drives :=
  s.edgeMoments_keeps State.drives (fun _ _ => by simp) is
@[simp] theorem State.edgeMoments_arbiter (s : State) (is : List SlotIx) : (s.edgeMoments is).1.arbiter = s.arbiter :=
  s.edgeMoments_keeps State.arbiter (fun _ _ => by simp) is
@[simp] theorem State.edgeMoments_inputs (s : State) (is : List SlotIx) : (s.edgeMoments is).1.inputs = s.inputs :=
  s.edgeMoments_keeps State.inputs (fun _ _ => by simp) is
@[simp] theorem State.edgeMoments_trips (s : State) (is : List SlotIx) : (s.edgeMoments is).1.trips = s.trips :=
  s.edgeMoments_keeps State.trips (fun _ _ => by simp) is
@[simp] theorem State.edgeMoments_ports (s : State) (is : List SlotIx) : (s.edgeMoments is).1.ports = s.ports :=
  s.edgeMoments_keeps State.ports (fun _ _ => by simp) is

@[simp] theorem State.edgeAdvance_pending (s : State) : (s.edgeAdvance).pending = s.pending := by
  unfold State.edgeAdvance
  try simp
  try dsimp only
  repeat rw [foldl_keeps State.pending]
  all_goals simp
@[simp] theorem State.edgeAdvance_resetHeld (s : State) : (s.edgeAdvance).resetHeld = s.resetHeld := by
  unfold State.edgeAdvance
  try simp
  try dsimp only
  repeat rw [foldl_keeps State.resetHeld]
  all_goals simp
@[simp] theorem State.edgeAdvance_clock (s : State) : (s.edgeAdvance).clock = s.clock := by
  unfold State.edgeAdvance
  try simp
  try dsimp only
  repeat rw [foldl_keeps State.clock]
  all_goals simp
@[simp] theorem State.edgeAdvance_setup (s : State) : (s.edgeAdvance).setup = s.setup := by
  unfold State.edgeAdvance
  try simp
  try dsimp only
  repeat rw [foldl_keeps State.setup]
  all_goals simp
@[simp] theorem State.edgeAdvance_driveLists (s : State) : (s.edgeAdvance).driveLists = s.driveLists := by
  unfold State.edgeAdvance
  try simp
  try dsimp only
  repeat rw [foldl_keeps State.driveLists]
  all_goals simp
@[simp] theorem State.edgeAdvance_gateLists (s : State) : (s.edgeAdvance).gateLists = s.gateLists := by
  unfold State.edgeAdvance
  try simp
  try dsimp only
  repeat rw [foldl_keeps State.gateLists]
  all_goals simp
@[simp] theorem State.edgeAdvance_gates (s : State) : (s.edgeAdvance).gates = s.gates := by
  unfold State.edgeAdvance
  try simp
  try dsimp only
  repeat rw [foldl_keeps State.gates]
  all_goals simp
@[simp] theorem State.edgeAdvance_drives (s : State) : (s.edgeAdvance).drives = s.drives := by
  unfold State.edgeAdvance
  try simp
  try dsimp only
  repeat rw [foldl_keeps State.drives]
  all_goals simp
@[simp] theorem State.edgeAdvance_arbiter (s : State) : (s.edgeAdvance).arbiter = s.arbiter := by
  unfold State.edgeAdvance
  try simp
  try dsimp only
  repeat rw [foldl_keeps State.arbiter]
  all_goals simp
@[simp] theorem State.edgeAdvance_inputs (s : State) : (s.edgeAdvance).inputs = s.inputs := by
  unfold State.edgeAdvance
  try simp
  try dsimp only
  repeat rw [foldl_keeps State.inputs]
  all_goals simp
@[simp] theorem State.edgeAdvance_ports (s : State) : (s.edgeAdvance).ports = s.ports := by
  unfold State.edgeAdvance
  try simp
  try dsimp only
  repeat rw [foldl_keeps State.ports]
  all_goals simp

@[simp] theorem State.endNow_pending (s : State) (c : EndCause) (i : SlotIx) : (s.endNow c i).pending = s.pending := by simp [State.endNow]
@[simp] theorem State.endNow_draws (s : State) (c : EndCause) (i : SlotIx) : (s.endNow c i).draws = s.draws := by simp [State.endNow]
@[simp] theorem State.endNow_resetHeld (s : State) (c : EndCause) (i : SlotIx) : (s.endNow c i).resetHeld = s.resetHeld := by simp [State.endNow]
@[simp] theorem State.endNow_clock (s : State) (c : EndCause) (i : SlotIx) : (s.endNow c i).clock = s.clock := by simp [State.endNow]
@[simp] theorem State.endNow_setup (s : State) (c : EndCause) (i : SlotIx) : (s.endNow c i).setup = s.setup := by simp [State.endNow]
@[simp] theorem State.endNow_driveLists (s : State) (c : EndCause) (i : SlotIx) : (s.endNow c i).driveLists = s.driveLists := by simp [State.endNow]
@[simp] theorem State.endNow_gateLists (s : State) (c : EndCause) (i : SlotIx) : (s.endNow c i).gateLists = s.gateLists := by simp [State.endNow]
@[simp] theorem State.endNow_gates (s : State) (c : EndCause) (i : SlotIx) : (s.endNow c i).gates = s.gates := by simp [State.endNow]
@[simp] theorem State.endNow_drives (s : State) (c : EndCause) (i : SlotIx) : (s.endNow c i).drives = s.drives := by simp [State.endNow]
@[simp] theorem State.endNow_arbiter (s : State) (c : EndCause) (i : SlotIx) : (s.endNow c i).arbiter = s.arbiter := by simp [State.endNow]
@[simp] theorem State.endNow_inputs (s : State) (c : EndCause) (i : SlotIx) : (s.endNow c i).inputs = s.inputs := by simp [State.endNow]
@[simp] theorem State.endNow_trips (s : State) (c : EndCause) (i : SlotIx) : (s.endNow c i).trips = s.trips := by simp [State.endNow]
@[simp] theorem State.endNow_ports (s : State) (c : EndCause) (i : SlotIx) : (s.endNow c i).ports = s.ports := by simp [State.endNow]

@[simp] theorem State.endInDrive_pending (s : State) (d : Drive) (c : EndCause) (l : List SlotIx) : (s.endInDrive d c l).pending = s.pending := by
  unfold State.endInDrive
  dsimp only
  repeat' split
  all_goals try simp
  all_goals repeat rw [foldl_keeps State.pending]
  all_goals simp
@[simp] theorem State.endInDrive_draws (s : State) (d : Drive) (c : EndCause) (l : List SlotIx) : (s.endInDrive d c l).draws = s.draws := by
  unfold State.endInDrive
  dsimp only
  repeat' split
  all_goals try simp
  all_goals repeat rw [foldl_keeps State.draws]
  all_goals simp
@[simp] theorem State.endInDrive_resetHeld (s : State) (d : Drive) (c : EndCause) (l : List SlotIx) : (s.endInDrive d c l).resetHeld = s.resetHeld := by
  unfold State.endInDrive
  dsimp only
  repeat' split
  all_goals try simp
  all_goals repeat rw [foldl_keeps State.resetHeld]
  all_goals simp
@[simp] theorem State.endInDrive_clock (s : State) (d : Drive) (c : EndCause) (l : List SlotIx) : (s.endInDrive d c l).clock = s.clock := by
  unfold State.endInDrive
  dsimp only
  repeat' split
  all_goals try simp
  all_goals repeat rw [foldl_keeps State.clock]
  all_goals simp
@[simp] theorem State.endInDrive_setup (s : State) (d : Drive) (c : EndCause) (l : List SlotIx) : (s.endInDrive d c l).setup = s.setup := by
  unfold State.endInDrive
  dsimp only
  repeat' split
  all_goals try simp
  all_goals repeat rw [foldl_keeps State.setup]
  all_goals simp
@[simp] theorem State.endInDrive_gateLists (s : State) (d : Drive) (c : EndCause) (l : List SlotIx) : (s.endInDrive d c l).gateLists = s.gateLists := by
  unfold State.endInDrive
  dsimp only
  repeat' split
  all_goals try simp
  all_goals repeat rw [foldl_keeps State.gateLists]
  all_goals simp
@[simp] theorem State.endInDrive_gates (s : State) (d : Drive) (c : EndCause) (l : List SlotIx) : (s.endInDrive d c l).gates = s.gates := by
  unfold State.endInDrive
  dsimp only
  repeat' split
  all_goals try simp
  all_goals repeat rw [foldl_keeps State.gates]
  all_goals simp
@[simp] theorem State.endInDrive_drives (s : State) (d : Drive) (c : EndCause) (l : List SlotIx) : (s.endInDrive d c l).drives = s.drives := by
  unfold State.endInDrive
  dsimp only
  repeat' split
  all_goals try simp
  all_goals repeat rw [foldl_keeps State.drives]
  all_goals simp
@[simp] theorem State.endInDrive_arbiter (s : State) (d : Drive) (c : EndCause) (l : List SlotIx) : (s.endInDrive d c l).arbiter = s.arbiter := by
  unfold State.endInDrive
  dsimp only
  repeat' split
  all_goals try simp
  all_goals repeat rw [foldl_keeps State.arbiter]
  all_goals simp
@[simp] theorem State.endInDrive_inputs (s : State) (d : Drive) (c : EndCause) (l : List SlotIx) : (s.endInDrive d c l).inputs = s.inputs := by
  unfold State.endInDrive
  dsimp only
  repeat' split
  all_goals try simp
  all_goals repeat rw [foldl_keeps State.inputs]
  all_goals simp
@[simp] theorem State.endInDrive_trips (s : State) (d : Drive) (c : EndCause) (l : List SlotIx) : (s.endInDrive d c l).trips = s.trips := by
  unfold State.endInDrive
  dsimp only
  repeat' split
  all_goals try simp
  all_goals repeat rw [foldl_keeps State.trips]
  all_goals simp
@[simp] theorem State.endInDrive_ports (s : State) (d : Drive) (c : EndCause) (l : List SlotIx) : (s.endInDrive d c l).ports = s.ports := by
  unfold State.endInDrive
  dsimp only
  repeat' split
  all_goals try simp
  all_goals repeat rw [foldl_keeps State.ports]
  all_goals simp

@[simp] theorem State.endInGate_pending (s : State) (g : Gate) (c : EndCause) (l : List SlotIx) : (s.endInGate g c l).pending = s.pending := by
  unfold State.endInGate
  dsimp only
  repeat' split
  all_goals try simp
  all_goals repeat rw [foldl_keeps State.pending]
  all_goals simp
@[simp] theorem State.endInGate_draws (s : State) (g : Gate) (c : EndCause) (l : List SlotIx) : (s.endInGate g c l).draws = s.draws := by
  unfold State.endInGate
  dsimp only
  repeat' split
  all_goals try simp
  all_goals repeat rw [foldl_keeps State.draws]
  all_goals simp
@[simp] theorem State.endInGate_resetHeld (s : State) (g : Gate) (c : EndCause) (l : List SlotIx) : (s.endInGate g c l).resetHeld = s.resetHeld := by
  unfold State.endInGate
  dsimp only
  repeat' split
  all_goals try simp
  all_goals repeat rw [foldl_keeps State.resetHeld]
  all_goals simp
@[simp] theorem State.endInGate_clock (s : State) (g : Gate) (c : EndCause) (l : List SlotIx) : (s.endInGate g c l).clock = s.clock := by
  unfold State.endInGate
  dsimp only
  repeat' split
  all_goals try simp
  all_goals repeat rw [foldl_keeps State.clock]
  all_goals simp
@[simp] theorem State.endInGate_setup (s : State) (g : Gate) (c : EndCause) (l : List SlotIx) : (s.endInGate g c l).setup = s.setup := by
  unfold State.endInGate
  dsimp only
  repeat' split
  all_goals try simp
  all_goals repeat rw [foldl_keeps State.setup]
  all_goals simp
@[simp] theorem State.endInGate_arbiter (s : State) (g : Gate) (c : EndCause) (l : List SlotIx) : (s.endInGate g c l).arbiter = s.arbiter := by
  unfold State.endInGate
  dsimp only
  repeat' split
  all_goals try simp
  all_goals repeat rw [foldl_keeps State.arbiter]
  all_goals simp
@[simp] theorem State.endInGate_inputs (s : State) (g : Gate) (c : EndCause) (l : List SlotIx) : (s.endInGate g c l).inputs = s.inputs := by
  unfold State.endInGate
  dsimp only
  repeat' split
  all_goals try simp
  all_goals repeat rw [foldl_keeps State.inputs]
  all_goals simp
@[simp] theorem State.endInGate_trips (s : State) (g : Gate) (c : EndCause) (l : List SlotIx) : (s.endInGate g c l).trips = s.trips := by
  unfold State.endInGate
  dsimp only
  repeat' split
  all_goals try simp
  all_goals repeat rw [foldl_keeps State.trips]
  all_goals simp
@[simp] theorem State.endInGate_ports (s : State) (g : Gate) (c : EndCause) (l : List SlotIx) : (s.endInGate g c l).ports = s.ports := by
  unfold State.endInGate
  dsimp only
  repeat' split
  all_goals try simp
  all_goals repeat rw [foldl_keeps State.ports]
  all_goals simp

@[simp] theorem State.endOutsideLists_pending (s : State) (c : EndCause) (i : SlotIx) : (s.endOutsideLists c i).pending = s.pending := by
  unfold State.endOutsideLists
  repeat' split
  all_goals simp
@[simp] theorem State.endOutsideLists_draws (s : State) (c : EndCause) (i : SlotIx) : (s.endOutsideLists c i).draws = s.draws := by
  unfold State.endOutsideLists
  repeat' split
  all_goals simp
@[simp] theorem State.endOutsideLists_resetHeld (s : State) (c : EndCause) (i : SlotIx) : (s.endOutsideLists c i).resetHeld = s.resetHeld := by
  unfold State.endOutsideLists
  repeat' split
  all_goals simp
@[simp] theorem State.endOutsideLists_clock (s : State) (c : EndCause) (i : SlotIx) : (s.endOutsideLists c i).clock = s.clock := by
  unfold State.endOutsideLists
  repeat' split
  all_goals simp
@[simp] theorem State.endOutsideLists_setup (s : State) (c : EndCause) (i : SlotIx) : (s.endOutsideLists c i).setup = s.setup := by
  unfold State.endOutsideLists
  repeat' split
  all_goals simp
@[simp] theorem State.endOutsideLists_driveLists (s : State) (c : EndCause) (i : SlotIx) : (s.endOutsideLists c i).driveLists = s.driveLists := by
  unfold State.endOutsideLists
  repeat' split
  all_goals simp
@[simp] theorem State.endOutsideLists_gateLists (s : State) (c : EndCause) (i : SlotIx) : (s.endOutsideLists c i).gateLists = s.gateLists := by
  unfold State.endOutsideLists
  repeat' split
  all_goals simp
@[simp] theorem State.endOutsideLists_gates (s : State) (c : EndCause) (i : SlotIx) : (s.endOutsideLists c i).gates = s.gates := by
  unfold State.endOutsideLists
  repeat' split
  all_goals simp
@[simp] theorem State.endOutsideLists_drives (s : State) (c : EndCause) (i : SlotIx) : (s.endOutsideLists c i).drives = s.drives := by
  unfold State.endOutsideLists
  repeat' split
  all_goals simp
@[simp] theorem State.endOutsideLists_inputs (s : State) (c : EndCause) (i : SlotIx) : (s.endOutsideLists c i).inputs = s.inputs := by
  unfold State.endOutsideLists
  repeat' split
  all_goals simp
@[simp] theorem State.endOutsideLists_trips (s : State) (c : EndCause) (i : SlotIx) : (s.endOutsideLists c i).trips = s.trips := by
  unfold State.endOutsideLists
  repeat' split
  all_goals simp
@[simp] theorem State.endOutsideLists_ports (s : State) (c : EndCause) (i : SlotIx) : (s.endOutsideLists c i).ports = s.ports := by
  unfold State.endOutsideLists
  repeat' split
  all_goals simp

@[simp] theorem State.endClaims_pending (s : State) (c : EndCause) (l : List SlotIx) : (s.endClaims c l).pending = s.pending := by
  unfold State.endClaims
  dsimp only
  repeat rw [foldl_keeps State.pending]
  all_goals simp
@[simp] theorem State.endClaims_draws (s : State) (c : EndCause) (l : List SlotIx) : (s.endClaims c l).draws = s.draws := by
  unfold State.endClaims
  dsimp only
  repeat rw [foldl_keeps State.draws]
  all_goals simp
@[simp] theorem State.endClaims_resetHeld (s : State) (c : EndCause) (l : List SlotIx) : (s.endClaims c l).resetHeld = s.resetHeld := by
  unfold State.endClaims
  dsimp only
  repeat rw [foldl_keeps State.resetHeld]
  all_goals simp
@[simp] theorem State.endClaims_clock (s : State) (c : EndCause) (l : List SlotIx) : (s.endClaims c l).clock = s.clock := by
  unfold State.endClaims
  dsimp only
  repeat rw [foldl_keeps State.clock]
  all_goals simp
@[simp] theorem State.endClaims_setup (s : State) (c : EndCause) (l : List SlotIx) : (s.endClaims c l).setup = s.setup := by
  unfold State.endClaims
  dsimp only
  repeat rw [foldl_keeps State.setup]
  all_goals simp
@[simp] theorem State.endClaims_inputs (s : State) (c : EndCause) (l : List SlotIx) : (s.endClaims c l).inputs = s.inputs := by
  unfold State.endClaims
  dsimp only
  repeat rw [foldl_keeps State.inputs]
  all_goals simp
@[simp] theorem State.endClaims_trips (s : State) (c : EndCause) (l : List SlotIx) : (s.endClaims c l).trips = s.trips := by
  unfold State.endClaims
  dsimp only
  repeat rw [foldl_keeps State.trips]
  all_goals simp
@[simp] theorem State.endClaims_ports (s : State) (c : EndCause) (l : List SlotIx) : (s.endClaims c l).ports = s.ports := by
  unfold State.endClaims
  dsimp only
  repeat rw [foldl_keeps State.ports]
  all_goals simp

@[simp] theorem State.expire_pending (s : State) (i : SlotIx) : (s.expire i).pending = s.pending := by
  unfold State.expire
  repeat' split
  all_goals simp
@[simp] theorem State.expire_draws (s : State) (i : SlotIx) : (s.expire i).draws = s.draws := by
  unfold State.expire
  repeat' split
  all_goals simp
@[simp] theorem State.expire_resetHeld (s : State) (i : SlotIx) : (s.expire i).resetHeld = s.resetHeld := by
  unfold State.expire
  repeat' split
  all_goals simp
@[simp] theorem State.expire_setup (s : State) (i : SlotIx) : (s.expire i).setup = s.setup := by
  unfold State.expire
  repeat' split
  all_goals simp
@[simp] theorem State.expire_inputs (s : State) (i : SlotIx) : (s.expire i).inputs = s.inputs := by
  unfold State.expire
  repeat' split
  all_goals simp
@[simp] theorem State.expire_trips (s : State) (i : SlotIx) : (s.expire i).trips = s.trips := by
  unfold State.expire
  repeat' split
  all_goals simp
@[simp] theorem State.expire_ports (s : State) (i : SlotIx) : (s.expire i).ports = s.ports := by
  unfold State.expire
  repeat' split
  all_goals simp

@[simp] theorem State.acceptDue_pending (s : State) (e : EdgeIn) : (s.acceptDue e).pending = s.pending := by
  unfold State.acceptDue
  repeat' split
  all_goals simp
@[simp] theorem State.acceptDue_draws (s : State) (e : EdgeIn) : (s.acceptDue e).draws = s.draws := by
  unfold State.acceptDue
  repeat' split
  all_goals simp
@[simp] theorem State.acceptDue_resetHeld (s : State) (e : EdgeIn) : (s.acceptDue e).resetHeld = s.resetHeld := by
  unfold State.acceptDue
  repeat' split
  all_goals simp
@[simp] theorem State.acceptDue_clock (s : State) (e : EdgeIn) : (s.acceptDue e).clock = s.clock := by
  unfold State.acceptDue
  repeat' split
  all_goals simp
@[simp] theorem State.acceptDue_setup (s : State) (e : EdgeIn) : (s.acceptDue e).setup = s.setup := by
  unfold State.acceptDue
  repeat' split
  all_goals simp
@[simp] theorem State.acceptDue_driveLists (s : State) (e : EdgeIn) : (s.acceptDue e).driveLists = s.driveLists := by
  unfold State.acceptDue
  repeat' split
  all_goals simp
@[simp] theorem State.acceptDue_gateLists (s : State) (e : EdgeIn) : (s.acceptDue e).gateLists = s.gateLists := by
  unfold State.acceptDue
  repeat' split
  all_goals simp
@[simp] theorem State.acceptDue_gates (s : State) (e : EdgeIn) : (s.acceptDue e).gates = s.gates := by
  unfold State.acceptDue
  repeat' split
  all_goals simp
@[simp] theorem State.acceptDue_drives (s : State) (e : EdgeIn) : (s.acceptDue e).drives = s.drives := by
  unfold State.acceptDue
  repeat' split
  all_goals simp
@[simp] theorem State.acceptDue_arbiter (s : State) (e : EdgeIn) : (s.acceptDue e).arbiter = s.arbiter := by
  unfold State.acceptDue
  repeat' split
  all_goals simp
@[simp] theorem State.acceptDue_trips (s : State) (e : EdgeIn) : (s.acceptDue e).trips = s.trips := by
  unfold State.acceptDue
  repeat' split
  all_goals simp
@[simp] theorem State.acceptDue_ports (s : State) (e : EdgeIn) : (s.acceptDue e).ports = s.ports := by
  unfold State.acceptDue
  repeat' split
  all_goals simp

@[simp] theorem State.pinChange_pending (s : State) (e : EdgeIn) (v : Level) (n : Nat) : (s.pinChange e v n).pending = s.pending := by
  unfold State.pinChange
  dsimp only
  repeat' split
  all_goals simp
@[simp] theorem State.pinChange_draws (s : State) (e : EdgeIn) (v : Level) (n : Nat) : (s.pinChange e v n).draws = s.draws := by
  unfold State.pinChange
  dsimp only
  repeat' split
  all_goals simp
@[simp] theorem State.pinChange_resetHeld (s : State) (e : EdgeIn) (v : Level) (n : Nat) : (s.pinChange e v n).resetHeld = s.resetHeld := by
  unfold State.pinChange
  dsimp only
  repeat' split
  all_goals simp
@[simp] theorem State.pinChange_setup (s : State) (e : EdgeIn) (v : Level) (n : Nat) : (s.pinChange e v n).setup = s.setup := by
  unfold State.pinChange
  dsimp only
  repeat' split
  all_goals simp
@[simp] theorem State.pinChange_driveLists (s : State) (e : EdgeIn) (v : Level) (n : Nat) : (s.pinChange e v n).driveLists = s.driveLists := by
  unfold State.pinChange
  dsimp only
  repeat' split
  all_goals simp
@[simp] theorem State.pinChange_gateLists (s : State) (e : EdgeIn) (v : Level) (n : Nat) : (s.pinChange e v n).gateLists = s.gateLists := by
  unfold State.pinChange
  dsimp only
  repeat' split
  all_goals simp
@[simp] theorem State.pinChange_drives (s : State) (e : EdgeIn) (v : Level) (n : Nat) : (s.pinChange e v n).drives = s.drives := by
  unfold State.pinChange
  dsimp only
  repeat' split
  all_goals simp
@[simp] theorem State.pinChange_arbiter (s : State) (e : EdgeIn) (v : Level) (n : Nat) : (s.pinChange e v n).arbiter = s.arbiter := by
  unfold State.pinChange
  dsimp only
  repeat' split
  all_goals simp
@[simp] theorem State.pinChange_trips (s : State) (e : EdgeIn) (v : Level) (n : Nat) : (s.pinChange e v n).trips = s.trips := by
  unfold State.pinChange
  dsimp only
  repeat' split
  all_goals simp
@[simp] theorem State.pinChange_ports (s : State) (e : EdgeIn) (v : Level) (n : Nat) : (s.pinChange e v n).ports = s.ports := by
  unfold State.pinChange
  dsimp only
  repeat' split
  all_goals simp

@[simp] theorem State.complete_pending (s : State) (f : Conversion) (v : Nat) : (s.complete f v).pending = s.pending := by
  unfold State.complete
  try simp
  try dsimp only
  repeat rw [foldl_keeps State.pending]
  all_goals simp
@[simp] theorem State.complete_draws (s : State) (f : Conversion) (v : Nat) : (s.complete f v).draws = s.draws := by
  unfold State.complete
  try simp
  try dsimp only
  repeat rw [foldl_keeps State.draws]
  all_goals simp
@[simp] theorem State.complete_resetHeld (s : State) (f : Conversion) (v : Nat) : (s.complete f v).resetHeld = s.resetHeld := by
  unfold State.complete
  try simp
  try dsimp only
  repeat rw [foldl_keeps State.resetHeld]
  all_goals simp
@[simp] theorem State.complete_setup (s : State) (f : Conversion) (v : Nat) : (s.complete f v).setup = s.setup := by
  unfold State.complete
  try simp
  try dsimp only
  repeat rw [foldl_keeps State.setup]
  all_goals simp
@[simp] theorem State.complete_driveLists (s : State) (f : Conversion) (v : Nat) : (s.complete f v).driveLists = s.driveLists := by
  unfold State.complete
  try simp
  try dsimp only
  repeat rw [foldl_keeps State.driveLists]
  all_goals simp
@[simp] theorem State.complete_gateLists (s : State) (f : Conversion) (v : Nat) : (s.complete f v).gateLists = s.gateLists := by
  unfold State.complete
  try simp
  try dsimp only
  repeat rw [foldl_keeps State.gateLists]
  all_goals simp
@[simp] theorem State.complete_drives (s : State) (f : Conversion) (v : Nat) : (s.complete f v).drives = s.drives := by
  unfold State.complete
  try simp
  try dsimp only
  repeat rw [foldl_keeps State.drives]
  all_goals simp
@[simp] theorem State.complete_inputs (s : State) (f : Conversion) (v : Nat) : (s.complete f v).inputs = s.inputs := by
  unfold State.complete
  try simp
  try dsimp only
  repeat rw [foldl_keeps State.inputs]
  all_goals simp
@[simp] theorem State.complete_ports (s : State) (f : Conversion) (v : Nat) : (s.complete f v).ports = s.ports := by
  unfold State.complete
  try simp
  try dsimp only
  repeat rw [foldl_keeps State.ports]
  all_goals simp

@[simp] theorem State.advance_pending (s : State) : (s.advance).pending = s.pending := by simp [State.advance]
@[simp] theorem State.advance_resetHeld (s : State) : (s.advance).resetHeld = s.resetHeld := by simp [State.advance]
@[simp] theorem State.advance_setup (s : State) : (s.advance).setup = s.setup := by simp [State.advance]
@[simp] theorem State.advance_driveLists (s : State) : (s.advance).driveLists = s.driveLists := by simp [State.advance]
@[simp] theorem State.advance_gateLists (s : State) : (s.advance).gateLists = s.gateLists := by simp [State.advance]
@[simp] theorem State.advance_drives (s : State) : (s.advance).drives = s.drives := by simp [State.advance]
@[simp] theorem State.advance_inputs (s : State) : (s.advance).inputs = s.inputs := by simp [State.advance]
@[simp] theorem State.advance_ports (s : State) : (s.advance).ports = s.ports := by simp [State.advance]

@[simp] theorem State.postTrip_pending (s : State) (h : Handle) : (s.postTrip h).pending = s.pending := by
  unfold State.postTrip
  repeat' split
  all_goals simp
@[simp] theorem State.postTrip_draws (s : State) (h : Handle) : (s.postTrip h).draws = s.draws := by
  unfold State.postTrip
  repeat' split
  all_goals simp
@[simp] theorem State.postTrip_resetHeld (s : State) (h : Handle) : (s.postTrip h).resetHeld = s.resetHeld := by
  unfold State.postTrip
  repeat' split
  all_goals simp
@[simp] theorem State.postTrip_clock (s : State) (h : Handle) : (s.postTrip h).clock = s.clock := by
  unfold State.postTrip
  repeat' split
  all_goals simp
@[simp] theorem State.postTrip_setup (s : State) (h : Handle) : (s.postTrip h).setup = s.setup := by
  unfold State.postTrip
  repeat' split
  all_goals simp
@[simp] theorem State.postTrip_slots (s : State) (h : Handle) : (s.postTrip h).slots = s.slots := by
  unfold State.postTrip
  repeat' split
  all_goals simp
@[simp] theorem State.postTrip_driveLists (s : State) (h : Handle) : (s.postTrip h).driveLists = s.driveLists := by
  unfold State.postTrip
  repeat' split
  all_goals simp
@[simp] theorem State.postTrip_gateLists (s : State) (h : Handle) : (s.postTrip h).gateLists = s.gateLists := by
  unfold State.postTrip
  repeat' split
  all_goals simp
@[simp] theorem State.postTrip_gates (s : State) (h : Handle) : (s.postTrip h).gates = s.gates := by
  unfold State.postTrip
  repeat' split
  all_goals simp
@[simp] theorem State.postTrip_drives (s : State) (h : Handle) : (s.postTrip h).drives = s.drives := by
  unfold State.postTrip
  repeat' split
  all_goals simp
@[simp] theorem State.postTrip_arbiter (s : State) (h : Handle) : (s.postTrip h).arbiter = s.arbiter := by
  unfold State.postTrip
  repeat' split
  all_goals simp
@[simp] theorem State.postTrip_inputs (s : State) (h : Handle) : (s.postTrip h).inputs = s.inputs := by
  unfold State.postTrip
  repeat' split
  all_goals simp
@[simp] theorem State.postTrip_trips (s : State) (h : Handle) : (s.postTrip h).trips = s.trips := by
  unfold State.postTrip
  repeat' split
  all_goals simp
@[simp] theorem State.postTrip_ports (s : State) (h : Handle) : (s.postTrip h).ports = s.ports := by
  unfold State.postTrip
  repeat' split
  all_goals simp

@[simp] theorem State.takeTrip_pending (s : State) (g : Gate) : (s.takeTrip g).pending = s.pending := by
  unfold State.takeTrip
  repeat' split
  all_goals simp
@[simp] theorem State.takeTrip_draws (s : State) (g : Gate) : (s.takeTrip g).draws = s.draws := by
  unfold State.takeTrip
  repeat' split
  all_goals simp
@[simp] theorem State.takeTrip_resetHeld (s : State) (g : Gate) : (s.takeTrip g).resetHeld = s.resetHeld := by
  unfold State.takeTrip
  repeat' split
  all_goals simp
@[simp] theorem State.takeTrip_clock (s : State) (g : Gate) : (s.takeTrip g).clock = s.clock := by
  unfold State.takeTrip
  repeat' split
  all_goals simp
@[simp] theorem State.takeTrip_setup (s : State) (g : Gate) : (s.takeTrip g).setup = s.setup := by
  unfold State.takeTrip
  repeat' split
  all_goals simp
@[simp] theorem State.takeTrip_gateLists (s : State) (g : Gate) : (s.takeTrip g).gateLists = s.gateLists := by
  unfold State.takeTrip
  repeat' split
  all_goals simp
@[simp] theorem State.takeTrip_arbiter (s : State) (g : Gate) : (s.takeTrip g).arbiter = s.arbiter := by
  unfold State.takeTrip
  repeat' split
  all_goals simp
@[simp] theorem State.takeTrip_inputs (s : State) (g : Gate) : (s.takeTrip g).inputs = s.inputs := by
  unfold State.takeTrip
  repeat' split
  all_goals simp
@[simp] theorem State.takeTrip_ports (s : State) (g : Gate) : (s.takeTrip g).ports = s.ports := by
  unfold State.takeTrip
  repeat' split
  all_goals simp

@[simp] theorem State.barLink_pending (s : State) (l : Link) : (s.barLink l).pending = s.pending := by
  unfold State.barLink
  try simp
  try dsimp only
  repeat rw [foldl_keeps State.pending]
  all_goals simp
@[simp] theorem State.barLink_draws (s : State) (l : Link) : (s.barLink l).draws = s.draws := by
  unfold State.barLink
  try simp
  try dsimp only
  repeat rw [foldl_keeps State.draws]
  all_goals simp
@[simp] theorem State.barLink_resetHeld (s : State) (l : Link) : (s.barLink l).resetHeld = s.resetHeld := by
  unfold State.barLink
  try simp
  try dsimp only
  repeat rw [foldl_keeps State.resetHeld]
  all_goals simp
@[simp] theorem State.barLink_clock (s : State) (l : Link) : (s.barLink l).clock = s.clock := by
  unfold State.barLink
  try simp
  try dsimp only
  repeat rw [foldl_keeps State.clock]
  all_goals simp
@[simp] theorem State.barLink_setup (s : State) (l : Link) : (s.barLink l).setup = s.setup := by
  unfold State.barLink
  try simp
  try dsimp only
  repeat rw [foldl_keeps State.setup]
  all_goals simp
@[simp] theorem State.barLink_driveLists (s : State) (l : Link) : (s.barLink l).driveLists = s.driveLists := by
  unfold State.barLink
  try simp
  try dsimp only
  repeat rw [foldl_keeps State.driveLists]
  all_goals simp
@[simp] theorem State.barLink_gateLists (s : State) (l : Link) : (s.barLink l).gateLists = s.gateLists := by
  unfold State.barLink
  try simp
  try dsimp only
  repeat rw [foldl_keeps State.gateLists]
  all_goals simp
@[simp] theorem State.barLink_gates (s : State) (l : Link) : (s.barLink l).gates = s.gates := by
  unfold State.barLink
  try simp
  try dsimp only
  repeat rw [foldl_keeps State.gates]
  all_goals simp
@[simp] theorem State.barLink_drives (s : State) (l : Link) : (s.barLink l).drives = s.drives := by
  unfold State.barLink
  try simp
  try dsimp only
  repeat rw [foldl_keeps State.drives]
  all_goals simp
@[simp] theorem State.barLink_arbiter (s : State) (l : Link) : (s.barLink l).arbiter = s.arbiter := by
  unfold State.barLink
  try simp
  try dsimp only
  repeat rw [foldl_keeps State.arbiter]
  all_goals simp
@[simp] theorem State.barLink_inputs (s : State) (l : Link) : (s.barLink l).inputs = s.inputs := by
  unfold State.barLink
  try simp
  try dsimp only
  repeat rw [foldl_keeps State.inputs]
  all_goals simp
@[simp] theorem State.barLink_trips (s : State) (l : Link) : (s.barLink l).trips = s.trips := by
  unfold State.barLink
  try simp
  try dsimp only
  repeat rw [foldl_keeps State.trips]
  all_goals simp

@[simp] theorem State.evictLink_pending (s : State) (l : Link) : (s.evictLink l).pending = s.pending := by
  unfold State.evictLink
  try simp
  try dsimp only
  repeat rw [foldl_keeps State.pending]
  all_goals simp
@[simp] theorem State.evictLink_resetHeld (s : State) (l : Link) : (s.evictLink l).resetHeld = s.resetHeld := by
  unfold State.evictLink
  try simp
  try dsimp only
  repeat rw [foldl_keeps State.resetHeld]
  all_goals simp
@[simp] theorem State.evictLink_clock (s : State) (l : Link) : (s.evictLink l).clock = s.clock := by
  unfold State.evictLink
  try simp
  try dsimp only
  repeat rw [foldl_keeps State.clock]
  all_goals simp
@[simp] theorem State.evictLink_setup (s : State) (l : Link) : (s.evictLink l).setup = s.setup := by
  unfold State.evictLink
  try simp
  try dsimp only
  repeat rw [foldl_keeps State.setup]
  all_goals simp
@[simp] theorem State.evictLink_inputs (s : State) (l : Link) : (s.evictLink l).inputs = s.inputs := by
  unfold State.evictLink
  try simp
  try dsimp only
  repeat rw [foldl_keeps State.inputs]
  all_goals simp
@[simp] theorem State.evictLink_trips (s : State) (l : Link) : (s.evictLink l).trips = s.trips := by
  unfold State.evictLink
  try simp
  try dsimp only
  repeat rw [foldl_keeps State.trips]
  all_goals simp

@[simp] theorem State.handOver_pending (s : State) (r : Resource) (i : SlotIx) : (s.handOver r i).pending = s.pending := by
  unfold State.handOver
  repeat' split
  all_goals simp
@[simp] theorem State.handOver_draws (s : State) (r : Resource) (i : SlotIx) : (s.handOver r i).draws = s.draws := by
  unfold State.handOver
  repeat' split
  all_goals simp
@[simp] theorem State.handOver_resetHeld (s : State) (r : Resource) (i : SlotIx) : (s.handOver r i).resetHeld = s.resetHeld := by
  unfold State.handOver
  repeat' split
  all_goals simp
@[simp] theorem State.handOver_clock (s : State) (r : Resource) (i : SlotIx) : (s.handOver r i).clock = s.clock := by
  unfold State.handOver
  repeat' split
  all_goals simp
@[simp] theorem State.handOver_setup (s : State) (r : Resource) (i : SlotIx) : (s.handOver r i).setup = s.setup := by
  unfold State.handOver
  repeat' split
  all_goals simp
@[simp] theorem State.handOver_arbiter (s : State) (r : Resource) (i : SlotIx) : (s.handOver r i).arbiter = s.arbiter := by
  unfold State.handOver
  repeat' split
  all_goals simp
@[simp] theorem State.handOver_inputs (s : State) (r : Resource) (i : SlotIx) : (s.handOver r i).inputs = s.inputs := by
  unfold State.handOver
  repeat' split
  all_goals simp
@[simp] theorem State.handOver_trips (s : State) (r : Resource) (i : SlotIx) : (s.handOver r i).trips = s.trips := by
  unfold State.handOver
  repeat' split
  all_goals simp
@[simp] theorem State.handOver_ports (s : State) (r : Resource) (i : SlotIx) : (s.handOver r i).ports = s.ports := by
  unfold State.handOver
  repeat' split
  all_goals simp

@[simp] theorem State.handAmended_pending (s : State) (c : Claim) (i : SlotIx) : (s.handAmended c i).pending = s.pending := by
  unfold State.handAmended
  repeat' split
  all_goals simp
@[simp] theorem State.handAmended_draws (s : State) (c : Claim) (i : SlotIx) : (s.handAmended c i).draws = s.draws := by
  unfold State.handAmended
  repeat' split
  all_goals simp
@[simp] theorem State.handAmended_resetHeld (s : State) (c : Claim) (i : SlotIx) : (s.handAmended c i).resetHeld = s.resetHeld := by
  unfold State.handAmended
  repeat' split
  all_goals simp
@[simp] theorem State.handAmended_clock (s : State) (c : Claim) (i : SlotIx) : (s.handAmended c i).clock = s.clock := by
  unfold State.handAmended
  repeat' split
  all_goals simp
@[simp] theorem State.handAmended_setup (s : State) (c : Claim) (i : SlotIx) : (s.handAmended c i).setup = s.setup := by
  unfold State.handAmended
  repeat' split
  all_goals simp
@[simp] theorem State.handAmended_gateLists (s : State) (c : Claim) (i : SlotIx) : (s.handAmended c i).gateLists = s.gateLists := by
  unfold State.handAmended
  repeat' split
  all_goals simp
@[simp] theorem State.handAmended_arbiter (s : State) (c : Claim) (i : SlotIx) : (s.handAmended c i).arbiter = s.arbiter := by
  unfold State.handAmended
  repeat' split
  all_goals simp
@[simp] theorem State.handAmended_inputs (s : State) (c : Claim) (i : SlotIx) : (s.handAmended c i).inputs = s.inputs := by
  unfold State.handAmended
  repeat' split
  all_goals simp
@[simp] theorem State.handAmended_trips (s : State) (c : Claim) (i : SlotIx) : (s.handAmended c i).trips = s.trips := by
  unfold State.handAmended
  repeat' split
  all_goals simp
@[simp] theorem State.handAmended_ports (s : State) (c : Claim) (i : SlotIx) : (s.handAmended c i).ports = s.ports := by
  unfold State.handAmended
  repeat' split
  all_goals simp

@[simp] theorem State.takeEntry_pending (s : State) (e : NoticeEntry) : (s.takeEntry e).pending = s.pending := by
  unfold State.takeEntry
  repeat' split
  all_goals simp
@[simp] theorem State.takeEntry_draws (s : State) (e : NoticeEntry) : (s.takeEntry e).draws = s.draws := by
  unfold State.takeEntry
  repeat' split
  all_goals simp
@[simp] theorem State.takeEntry_resetHeld (s : State) (e : NoticeEntry) : (s.takeEntry e).resetHeld = s.resetHeld := by
  unfold State.takeEntry
  repeat' split
  all_goals simp
@[simp] theorem State.takeEntry_clock (s : State) (e : NoticeEntry) : (s.takeEntry e).clock = s.clock := by
  unfold State.takeEntry
  repeat' split
  all_goals simp
@[simp] theorem State.takeEntry_setup (s : State) (e : NoticeEntry) : (s.takeEntry e).setup = s.setup := by
  unfold State.takeEntry
  repeat' split
  all_goals simp
@[simp] theorem State.takeEntry_driveLists (s : State) (e : NoticeEntry) : (s.takeEntry e).driveLists = s.driveLists := by
  unfold State.takeEntry
  repeat' split
  all_goals simp
@[simp] theorem State.takeEntry_gateLists (s : State) (e : NoticeEntry) : (s.takeEntry e).gateLists = s.gateLists := by
  unfold State.takeEntry
  repeat' split
  all_goals simp
@[simp] theorem State.takeEntry_notices (s : State) (e : NoticeEntry) : (s.takeEntry e).notices = s.notices := by
  unfold State.takeEntry
  repeat' split
  all_goals simp
@[simp] theorem State.takeEntry_gates (s : State) (e : NoticeEntry) : (s.takeEntry e).gates = s.gates := by
  unfold State.takeEntry
  repeat' split
  all_goals simp
@[simp] theorem State.takeEntry_drives (s : State) (e : NoticeEntry) : (s.takeEntry e).drives = s.drives := by
  unfold State.takeEntry
  repeat' split
  all_goals simp
@[simp] theorem State.takeEntry_arbiter (s : State) (e : NoticeEntry) : (s.takeEntry e).arbiter = s.arbiter := by
  unfold State.takeEntry
  repeat' split
  all_goals simp
@[simp] theorem State.takeEntry_inputs (s : State) (e : NoticeEntry) : (s.takeEntry e).inputs = s.inputs := by
  unfold State.takeEntry
  repeat' split
  all_goals simp
@[simp] theorem State.takeEntry_trips (s : State) (e : NoticeEntry) : (s.takeEntry e).trips = s.trips := by
  unfold State.takeEntry
  repeat' split
  all_goals simp
@[simp] theorem State.takeEntry_ports (s : State) (e : NoticeEntry) : (s.takeEntry e).ports = s.ports := by
  unfold State.takeEntry
  repeat' split
  all_goals simp

end Sys2Proof.Machine
end

