-- ==== Sys2Proof/Laws/Table.lean ====
section
/-! SUPPORT. Reading the state after an update: values per link, gate and channel, slots and claims, and the views
of the Claim Table. -/

namespace Sys2Proof

theorem PerLink.get_set {α : Type} (p : PerLink α) (l m : Link) (x : α) :
    (p.set l x).get m = if m = l then x else p.get m := by
  cases l <;> cases m <;> rfl

@[simp] theorem PerLink.get_set_self {α : Type} (p : PerLink α) (l : Link) (x : α) : (p.set l x).get l = x := by
  cases l <;> rfl

@[simp] theorem PerLink.set_get_self {α : Type} (p : PerLink α) (l : Link) : p.set l (p.get l) = p := by
  cases l <;> rfl

@[simp] theorem PerLink.set_set {α : Type} (p : PerLink α) (l : Link) (x y : α) :
    (p.set l x).set l y = p.set l y := by
  cases l <;> rfl

theorem PerGate.get_set {α : Type} (p : PerGate α) (g h : Gate) (x : α) :
    (p.set g x).get h = if h = g then x else p.get h := by
  cases g <;> cases h <;> rfl

@[simp] theorem PerGate.get_set_self {α : Type} (p : PerGate α) (g : Gate) (x : α) : (p.set g x).get g = x := by
  cases g <;> rfl

@[simp] theorem PerGate.set_get_self {α : Type} (p : PerGate α) (g : Gate) : p.set g (p.get g) = p := by
  cases g <;> rfl

@[simp] theorem PerGate.set_set {α : Type} (p : PerGate α) (g : Gate) (x y : α) :
    (p.set g x).set g y = p.set g y := by
  cases g <;> rfl

theorem PerGate.ext_get {α : Type} {p q : PerGate α} (h : ∀ g, p.get g = q.get g) : p = q := by
  have h1 := h .gt
  have h2 := h .gb
  cases p; cases q
  simp_all [PerGate.get]

theorem PerDrive.get_set {α : Type} (p : PerDrive α) (d e : Drive) (x : α) :
    (p.set d x).get e = if e = d then x else p.get e := by
  cases d <;> cases e <;> rfl

@[simp] theorem PerDrive.get_set_self {α : Type} (p : PerDrive α) (d : Drive) (x : α) :
    (p.set d x).get d = x := by
  cases d <;> rfl

@[simp] theorem PerDrive.set_get_self {α : Type} (p : PerDrive α) (d : Drive) : p.set d (p.get d) = p := by
  cases d <;> rfl

@[simp] theorem PerDrive.set_set {α : Type} (p : PerDrive α) (d : Drive) (x y : α) :
    (p.set d x).set d y = p.set d y := by
  cases d <;> rfl

theorem PerDrive.ext_get {α : Type} {p q : PerDrive α} (h : ∀ d, p.get d = q.get d) : p = q := by
  have h1 := h .dl
  have h2 := h .dr
  have h3 := h .db
  cases p; cases q
  simp_all [PerDrive.get]

end Sys2Proof

namespace Sys2Proof.Machine

/-! ### Slots and claims -/

theorem State.claim_def (s : State) (i : SlotIx) : s.claim i = s.slots[i].claim := rfl

/-- Slots that are equal hold equal claims. -/
theorem State.claim_congr {s t : State} (h : t.slots = s.slots) (i : SlotIx) : t.claim i = s.claim i := by
  simp [State.claim, h]

theorem State.updClaim_slot (s : State) (i j : SlotIx) (f : Claim → Claim) :
    (s.updClaim i f).slots[j] = if j = i then ⟨s.slots[i].gen, (s.claim i).map f⟩ else s.slots[j] := by
  by_cases h : j = i
  · subst h; simp [State.updClaim, State.claim]
  · have : i.val ≠ j.val := fun e => h (Fin.ext e.symm)
    simp [State.updClaim, h, Vector.getElem_set_ne, this]

theorem State.putClaim_slot (s : State) (i j : SlotIx) (c : Claim) :
    (s.putClaim i c).slots[j] = if j = i then ⟨s.slots[i].gen, some c⟩ else s.slots[j] := by
  by_cases h : j = i
  · subst h; simp [State.putClaim]
  · have : i.val ≠ j.val := fun e => h (Fin.ext e.symm)
    simp [State.putClaim, h, Vector.getElem_set_ne, this]

theorem State.freeSlot_slot (s : State) (i j : SlotIx) :
    (s.freeSlot i).slots[j] = if j = i then ⟨s.slots[i].gen + 1, none⟩ else s.slots[j] := by
  by_cases h : j = i
  · subst h; simp [State.freeSlot]
  · have : i.val ≠ j.val := fun e => h (Fin.ext e.symm)
    simp [State.freeSlot, h, Vector.getElem_set_ne, this]

theorem State.updClaim_claim (s : State) (i j : SlotIx) (f : Claim → Claim) :
    (s.updClaim i f).claim j = if j = i then (s.claim i).map f else s.claim j := by
  rw [State.claim, State.updClaim_slot]; split <;> rfl

theorem State.putClaim_claim (s : State) (i j : SlotIx) (c : Claim) :
    (s.putClaim i c).claim j = if j = i then some c else s.claim j := by
  rw [State.claim, State.putClaim_slot]; split <;> rfl

theorem State.freeSlot_claim (s : State) (i j : SlotIx) :
    (s.freeSlot i).claim j = if j = i then none else s.claim j := by
  rw [State.claim, State.freeSlot_slot]; split <;> rfl

@[simp] theorem State.post_claim (s : State) (k : NoticeKind) (i j : SlotIx) : (s.post k i).claim j = s.claim j := rfl

/-- Two states with equal slots at every number have equal slots. -/
theorem State.slots_ext {v w : Vector Slot 48} (h : ∀ i : SlotIx, v[i] = w[i]) : v = w := by
  ext i hi : 1
  exact h ⟨i, hi⟩

/-! ### Views of the Claim Table -/

theorem mem_allSlots (i : SlotIx) : i ∈ allSlots := List.mem_finRange i

theorem State.claimIs_iff (s : State) (i : SlotIx) (p : Claim → Bool) :
    s.claimIs i p = true ↔ ∃ c, s.claim i = some c ∧ p c = true := by
  unfold State.claimIs
  cases s.claim i <;> simp

theorem State.mem_slotsWhere (s : State) (p : Claim → Bool) (i : SlotIx) :
    i ∈ s.slotsWhere p ↔ ∃ c, s.claim i = some c ∧ p c = true := by
  simp [State.slotsWhere, mem_allSlots, State.claimIs_iff]

theorem State.slotsWhere_congr {s t : State} (h : t.slots = s.slots) (p : Claim → Bool) :
    t.slotsWhere p = s.slotsWhere p := by
  simp [State.slotsWhere, State.claimIs, State.claim_congr h]

/-- With every slot FREE no slot's claim has any property. -/
theorem State.slotsWhere_of_free {s : State} (h : ∀ i, s.claim i = none) (p : Claim → Bool) :
    s.slotsWhere p = [] := by
  simp [State.slotsWhere, State.claimIs, h]

theorem State.mem_freeSlots (s : State) (i : SlotIx) : i ∈ s.freeSlots ↔ s.claim i = none := by
  simp [State.freeSlots, mem_allSlots]

/-- The first of the FREE slots is the lowest (R5). -/
theorem State.freeSlots_head (s : State) (i : SlotIx) (hi : s.claim i = none)
    (hlow : ∀ j : SlotIx, j < i → s.claim j ≠ none) : s.freeSlots.head? = some i := by
  have hs : s.freeSlots.Pairwise (· < ·) := (List.pairwise_lt_finRange 48).filter _
  have hm : i ∈ s.freeSlots := (s.mem_freeSlots i).mpr hi
  cases hl : s.freeSlots with
  | nil => simp [hl] at hm
  | cons a as =>
    have ha : s.claim a = none := (s.mem_freeSlots a).mp (by simp [hl])
    rw [hl] at hm hs
    rcases List.mem_cons.mp hm with h | h
    · simp [h]
    · exact absurd ha (hlow a ((List.pairwise_cons.mp hs).1 i h))

/-- No slot is FREE. -/
theorem State.freeSlots_nil (s : State) (h : ∀ i, s.claim i ≠ none) : s.freeSlots.head? = none := by
  cases hl : s.freeSlots with
  | nil => rfl
  | cons a as => exact absurd ((s.mem_freeSlots a).mp (by simp [hl])) (h a)

/-- A tag that no claim of the link carries is in no entry of its tag map (R7). -/
theorem State.tagSlot_none (s : State) (l : Link) (t : BitVec 16)
    (h : t = 0#16 ∨ ∀ i c, s.claim i = some c → c.owner = l → c.tag ≠ t) : s.tagSlot l t = none := by
  unfold State.tagSlot
  split
  · rfl
  · rcases h with h | h
    · contradiction
    · rw [List.find?_eq_none]
      intro i _
      rw [State.claimIs_iff]
      rintro ⟨c, hc, hp⟩
      simp at hp
      exact h i c hc hp.1 hp.2

/-- A tag that a claim of the link carries is in the tag map (R7). -/
theorem State.tagSlot_some (s : State) (l : Link) (t : BitVec 16) (i : SlotIx) (c : Claim) (ht : t ≠ 0#16)
    (hc : s.claim i = some c) (ho : c.owner = l) (htag : c.tag = t) :
    ∃ j d, s.tagSlot l t = some j ∧ s.claim j = some d ∧ d.owner = l ∧ d.tag = t := by
  unfold State.tagSlot
  rw [if_neg ht]
  cases hf : allSlots.find? fun i => s.claimIs i fun c => decide (c.owner = l) && decide (c.tag = t) with
  | none =>
    rw [List.find?_eq_none] at hf
    exact absurd ((s.claimIs_iff i _).mpr ⟨c, hc, by simp [ho, htag]⟩) (hf i (mem_allSlots i))
  | some j =>
    have hp := List.find?_some hf
    obtain ⟨d, hd, hp⟩ := (s.claimIs_iff j _).mp hp
    simp at hp
    exact ⟨j, d, rfl, hd, hp.1, hp.2⟩

/-- A handle at its slot's generation names the slot (R2). -/
theorem State.named_of (s : State) (i : SlotIx) (c : Claim) (hc : s.claim i = some c) :
    s.named i.val s.slots[i].gen.val = some i := by
  simp [State.named, hc]

/-- A handle that names no claim (R2): a slot number of 48 or above, a FREE slot, or another generation. -/
theorem State.named_none (s : State) (slot gen : Nat)
    (h : ∀ i : SlotIx, i.val = slot → s.claim i = none ∨ s.slots[i].gen.val ≠ gen) :
    s.named slot gen = none := by
  unfold State.named
  split
  · rename_i hlt
    rcases h ⟨slot, hlt⟩ rfl with h | h
    · simp [h]
    · rw [if_neg]; rintro ⟨_, e⟩; exact h e
  · rfl

end Sys2Proof.Machine
end

