-- ==== Sys2Proof/Laws/Step.lean ====
section
/-! SUPPORT. What a step can do, said once: the changes a request makes before its response is held, and the moves
of the part at one command. An invariant is proved by cases on a move. -/

namespace Sys2Proof.Machine

/-- What carrying out a request makes of the state, before its response is held. -/
inductive Change (s : State) : State → Prop
  | nothing : Change s s
  | read (i : SlotIx) : Change s (s.updClaim i Claim.readByOwner)
  | tookNotices (l : Link) :
    Change s (((s.notices.get l).take 6).foldl State.takeEntry
      { s with notices := s.notices.set l ((s.notices.get l).drop 6) })
  | opened (l : Link) (body : List Byte) (r : Resource) (i : SlotIx) (f : ClaimFields)
    (h : s.OpenPasses l body r i f) :
    Change s ((s.putClaim i (s.newClaim l r (openTag body) f)).handOver r i)
  | amended (body : List Byte) (l : Link) (i : SlotIx) (c : Claim) (f : ClaimFields)
    (h : s.OwnerPasses l body i c) (hf : amendFields? c.resource body = some f) :
    Change s ((s.putClaim i (s.amendedClaim c f)).handAmended c i)
  | renewed (i : SlotIx) (c : Claim) (hc : s.claim i = some c) (hu : c.pinned = false)
    (ho : c.state ≠ .retiring ∧ c.state ≠ .spent) : Change s (s.renewClaim i)
  | renewedAll (l : Link) : Change s ((s.renewable l).foldl State.renewClaim s)
  | retired (l : Link) (body : List Byte) (i : SlotIx) (c : Claim) (h : s.OwnerPasses l body i c) :
    Change s (s.endClaims .retire [i])
  | droppedAll (l : Link) (hrun : s.setup.part = .run) :
    Change s { s.endClaims .retire (s.endable l) with draws := s.draws + 1 }
  | cleared (g : Gate) (src : Source) (hrun : s.setup.part = .run) : Change s (s.removeHold g src)
  | tested (g : Gate) (src : Source) (hrun : s.setup.part = .run) :
    Change s (s.takeHold g ⟨src, .test, .brake, s.setup.authority⟩)
  | pinned (i : SlotIx) (c : Claim) (hc : s.claim i = some c) (ho : c.state ≠ .retiring ∧ c.state ≠ .spent) :
    Change s (s.updClaim i Claim.pin)
  | evicted (l : Link) (hl : l ≠ s.setup.authority) (hrun : s.setup.part = .run) : Change s (s.evictLink l)
  | admitted (l : Link) : Change s (s.setPort l { s.ports.get l with barred := false })
  | reach (l : Link) (m : Reach) (hc : s.setup.part = .config) :
    Change s (s.setSetup { s.setup with reach := s.setup.reach.set l m })
  | window (c : AnalogCh) (w : Nat) (hc : s.setup.part = .config) :
    Change s (s.setSetup { s.setup with windows := s.setup.windows.set c w })
  | filter (e : EdgeIn) (f : Nat) (hc : s.setup.part = .config) :
    Change s (s.setInput e { s.inputs[e] with filter := f })
  | polarity (d : Drive) (p : PinPolarity) (hc : s.setup.part = .config) :
    Change s (s.setSetup { s.setup with polarity := s.setup.polarity.set d p })
  | locked (hc : s.setup.part = .config) : Change s (s.setSetup { s.setup with part := .run })

/-- What a command, or a step with no command, makes of the state. -/
inductive Moves (s : State) : State → Prop
  | same : Moves s s
  | held : Moves s s.held
  | released (auth : Level) (pins : Vector Level 8) (csLow : PerLink Bool) :
    Moves s { State.released auth pins csLow with pending := s.pending, draws := s.draws }
  | window (l : Link) (w : Window) (o h : Option Response) :
    Moves s (s.setPort l { s.ports.get l with window := w, outgoing := o, held := h })
  | response (t : State) (h : Change s t) (l : Link) (r : Response) : Moves s (t.holdResponse l r)
  | advance : Moves s s.advance
  | expire (i : SlotIx) : Moves s (s.expire i)
  | periodEnd (g : Gate) (ho : s.gateIsOpen g = true) (n : Nat) : Moves s ((s.passClocks n).gatePeriodEnd g)
  | complete (f : Conversion) (hf : s.arbiter.inFlight = some f) (v : BitVec 12) (n : Nat) :
    Moves s ((s.passClocks n).complete f v.toNat)
  | pinChange (e : EdgeIn) (v : Level) (n : Nat) : Moves s (s.pinChange e v n)
  | accept (e : EdgeIn) (p : PendingChange) (hp : s.inputs[e].pending = some p) (n : Nat) :
    Moves s ((s.passClocks n).acceptEdge e p.stamp)
  | trip (g : Gate) : Moves s (s.takeTrip g)
  | clocks : Moves s (s.passClocks 1)

/-- An event at its instant takes place after some gate clocks, or not yet. -/
theorem State.atInstant_moves (s : State) (n : Nat) (event : State → State)
    (h : Moves s (event (s.passClocks n))) : Moves s (s.atInstant n event) := by
  unfold State.atInstant
  split
  · exact h
  · exact .same

/-! ### Requests -/

/-- Taking a request leaves a change and a response held, or leaves the state. -/
theorem State.takeRequest_moves (s : State) (l : Link) (code : Byte) (body : List Byte)
    (answer : State → Answer) (h : Change s (answer s).state) :
    Moves s (s.takeRequest l code body answer) := by
  unfold State.takeRequest
  split
  · exact .same
  · split
    · exact .response s .nothing l _
    · exact .response _ h l _

theorem State.inRun_change (s : State) (k : Answer) (h : s.setup.part = .run → Change s k.state) :
    Change s (s.inRun k).state := by
  unfold State.inRun
  split
  · exact .nothing
  · rename_i hp
    refine h ?_
    cases hs : s.setup.part
    · contradiction
    · rfl

theorem State.byAuthority_change (s : State) (l : Link) (k : Answer)
    (h : s.setup.part = .run → Change s k.state) : Change s (s.byAuthority l k).state := by
  unfold State.byAuthority
  split
  · exact .nothing
  · exact s.inRun_change k h

theorem State.bySetup_change (s : State) (l : Link) (k : Answer)
    (h : s.setup.part = .config → Change s k.state) : Change s (s.bySetup l k).state := by
  unfold State.bySetup
  split
  · exact .nothing
  · split
    · exact .nothing
    · rename_i hp
      refine h ?_
      cases hs : s.setup.part
      · rfl
      · contradiction

theorem State.withHandle_change (s : State) (body : List Byte) (n : Nat) (k : SlotIx → Answer)
    (h : ∀ i, s.handleAt body 0 = some i → Change s (k i).state) :
    Change s (s.withHandle body n k).state := by
  unfold State.withHandle
  split
  · exact .nothing
  · split
    · exact .nothing
    · rename_i i hi
      exact h i hi

theorem State.ownedOngoing_change (s : State) (l : Link) (i : SlotIx) (k : Claim → Answer)
    (h : ∀ c, s.claim i = some c → c.owner = l → c.pinned = false → (c.state ≠ .retiring ∧ c.state ≠ .spent) →
      Change s (k c).state) : Change s (s.ownedOngoing l i k).state := by
  unfold State.ownedOngoing
  split
  · exact .nothing
  · rename_i c hc
    split
    · exact .nothing
    · rename_i ho
      split
      · exact .nothing
      · rename_i hp
        split
        · exact .nothing
        · rename_i hs
          refine h c hc (by simpa using Eq.symm (not_not.mp ho)) (by simpa using hp) ?_
          exact not_or.mp hs

theorem State.lowestFree_of_head (s : State) (i : SlotIx) (h : s.freeSlots.head? = some i) : s.lowestFree i := by
  have hs : s.freeSlots.Pairwise (· < ·) := (List.pairwise_lt_finRange 48).filter _
  cases hl : s.freeSlots with
  | nil => simp [hl] at h
  | cons a as =>
    rw [hl] at h hs
    obtain rfl : a = i := by simpa using h
    refine ⟨(s.mem_freeSlots a).mp (by simp [hl]), fun j hj hn => ?_⟩
    have hm := (s.mem_freeSlots j).mpr hn
    rw [hl] at hm
    rcases List.mem_cons.mp hm with e | e
    · exact absurd hj (by simp [e])
    · exact absurd ((List.pairwise_cons.mp hs).1 j e) (not_lt_of_gt hj)

theorem State.tagFree_of_none (s : State) (l : Link) (t : BitVec 16) (h : (s.tagSlot l t).isSome = false) :
    s.tagFree l t := by
  by_cases ht : t = 0#16
  · exact .inl ht
  · refine .inr fun i c hc ho he => ?_
    obtain ⟨j, d, hj, -⟩ := s.tagSlot_some l t i c ht hc ho he
    simp [hj] at h

theorem State.openRequest_change (s : State) (l : Link) (body : List Byte) :
    Change s (s.openRequest l body).state := by
  refine s.inRun_change _ fun hrun => ?_
  split
  · exact .nothing
  rename_i hb
  split
  · exact .nothing
  rename_i r hr
  split
  · exact .nothing
  rename_i hc
  split
  · exact .nothing
  rename_i i hi
  split
  · exact .nothing
  rename_i hq
  dsimp only
  split
  · exact .nothing
  rename_i ht
  split
  · exact .nothing
  rename_i f hf
  exact .opened l body r i f
    { run := hrun
      notBarred := by simpa using hb
      known := hr
      reach := by simpa using hc
      room := s.lowestFree_of_head i hi
      quota := by omega
      tag := s.tagFree_of_none l _ (by simpa [openTag] using ht)
      values := hf }

theorem State.amendRequest_change (s : State) (l : Link) (body : List Byte) :
    Change s (s.amendRequest l body).state := by
  refine s.inRun_change _ fun hrun => ?_
  split
  · exact .nothing
  rename_i i hi
  refine s.ownedOngoing_change l i _ fun c hc ho hu hs => ?_
  split
  · exact .nothing
  split
  · exact .nothing
  rename_i f hf
  exact .amended body l i c f ⟨hrun, hi, hc, ho, hu, hs⟩ hf

theorem State.renewRequest_change (s : State) (l : Link) (body : List Byte) :
    Change s (s.renewRequest l body).state := by
  refine s.inRun_change _ fun hrun => s.withHandle_change _ _ _ fun i hi => ?_
  exact s.ownedOngoing_change l i _ fun c hc ho hu hs => .renewed i c hc hu hs

theorem State.renewAllRequest_change (s : State) (l : Link) : Change s (s.renewAllRequest l).state :=
  s.inRun_change _ fun _ => .renewedAll l

theorem State.retireRequest_change (s : State) (l : Link) (body : List Byte) :
    Change s (s.retireRequest l body).state := by
  refine s.inRun_change _ fun hrun => s.withHandle_change _ _ _ fun i hi => ?_
  exact s.ownedOngoing_change l i _ fun c hc ho hu hs => .retired l body i c ⟨hrun, hi, hc, ho, hu, hs⟩

theorem State.dropAllRequest_change (s : State) (l : Link) (body : List Byte) :
    Change s (s.dropAllRequest l body).state := by
  refine s.inRun_change _ fun hrun => ?_
  split
  · exact .nothing
  · simpa [State.ok] using Change.droppedAll (s := s) l hrun

theorem State.statusRequest_state (s : State) (body : List Byte) : (s.statusRequest body).state = s := by
  unfold State.statusRequest
  split
  · rfl
  · split <;> rfl

theorem State.tripsRequest_state (s : State) (body : List Byte) : (s.tripsRequest body).state = s := by
  unfold State.tripsRequest
  split
  · rfl
  · split <;> rfl

theorem State.listRequest_state (s : State) (body : List Byte) : (s.listRequest body).state = s := by
  unfold State.listRequest State.inRun
  split
  · rfl
  · split
    · rfl
    · split <;> rfl

theorem State.lookupRequest_state (s : State) (l : Link) (body : List Byte) :
    (s.lookupRequest l body).state = s := by
  unfold State.lookupRequest State.inRun
  split
  · rfl
  · split
    · rfl
    · split <;> rfl

theorem State.readRequest_change (s : State) (l : Link) (body : List Byte) :
    Change s (s.readRequest l body).state := by
  refine s.inRun_change _ fun _ => ?_
  split
  · exact .nothing
  rename_i i hi
  split
  · exact .nothing
  split
  · exact .nothing
  split
  · exact .nothing
  · exact .nothing
  · dsimp only [State.ok]
    split
    · exact .read i
    · exact .nothing
  · exact .nothing

theorem State.takeNoticesRequest_change (s : State) (l : Link) (body : List Byte) :
    Change s (s.takeNoticesRequest l body).state := by
  unfold State.takeNoticesRequest
  split
  · exact .nothing
  · exact .tookNotices l

theorem State.clearTripRequest_change (s : State) (l : Link) (body : List Byte) :
    Change s (s.clearTripRequest l body).state := by
  refine s.inRun_change _ fun hrun => ?_
  split
  · exact .nothing
  split
  · exact .nothing
  split
  · exact .nothing
  split
  · exact .nothing
  · exact .cleared _ _ hrun

theorem State.testTripRequest_change (s : State) (l : Link) (body : List Byte) :
    Change s (s.testTripRequest l body).state := by
  refine s.byAuthority_change l _ fun hrun => ?_
  split
  · exact .nothing
  · exact .tested _ _ hrun

theorem State.pinRequest_change (s : State) (l : Link) (body : List Byte) :
    Change s (s.pinRequest l body).state := by
  refine s.byAuthority_change l _ fun _ => s.withHandle_change _ _ _ fun i _ => ?_
  split
  · exact .nothing
  rename_i c hc
  split
  · exact .nothing
  rename_i hs
  split
  · exact .nothing
  · exact .pinned i c hc (not_or.mp hs)

theorem State.evictRequest_change (s : State) (l : Link) (body : List Byte) :
    Change s (s.evictRequest l body).state := by
  refine s.byAuthority_change l _ fun hrun => ?_
  split
  · exact .nothing
  split
  · exact .nothing
  · rename_i ht
    exact .evicted _ ht hrun

theorem State.admitRequest_change (s : State) (l : Link) (body : List Byte) :
    Change s (s.admitRequest l body).state := by
  refine s.byAuthority_change l _ fun _ => ?_
  split
  · exact .nothing
  · exact .admitted _

theorem State.setReachRequest_change (s : State) (l : Link) (body : List Byte) :
    Change s (s.setReachRequest l body).state := by
  refine s.bySetup_change l _ fun hc => ?_
  split
  · exact .nothing
  · exact .reach _ _ hc

theorem State.setAnalogRequest_change (s : State) (l : Link) (body : List Byte) :
    Change s (s.setAnalogRequest l body).state := by
  refine s.bySetup_change l _ fun hc => ?_
  split
  · exact .nothing
  · exact .window _ _ hc

theorem State.setEdgeRequest_change (s : State) (l : Link) (body : List Byte) :
    Change s (s.setEdgeRequest l body).state := by
  refine s.bySetup_change l _ fun hc => ?_
  split
  · exact .nothing
  · exact .filter _ _ hc

theorem State.setDriveRequest_change (s : State) (l : Link) (body : List Byte) :
    Change s (s.setDriveRequest l body).state := by
  refine s.bySetup_change l _ fun hc => ?_
  split
  · exact .nothing
  · exact .polarity _ _ hc

theorem State.lockSetupRequest_change (s : State) (l : Link) (body : List Byte) :
    Change s (s.lockSetupRequest l body).state := by
  refine s.bySetup_change l _ fun hc => ?_
  split
  · exact .nothing
  · exact .locked hc

/-! ### Commands -/

/-- The request that a frame's code names answers a next state, and it is one of the moves (R155). -/
theorem takeByCode_moves (l : Link) (code : Byte) (body : List Byte) (s : State) :
    ∃ t, takeByCode l code body s = .next t ∧ Moves s t := by
  unfold takeByCode
  split
  · exact ⟨_, rfl, s.takeRequest_moves _ _ _ _ .nothing⟩
  · exact ⟨_, rfl, s.takeRequest_moves _ _ _ _ (by rw [s.statusRequest_state]; exact .nothing)⟩
  · exact ⟨_, rfl, s.takeRequest_moves _ _ _ _ (by rw [s.tripsRequest_state]; exact .nothing)⟩
  · exact ⟨_, rfl, s.takeRequest_moves _ _ _ _ (by rw [s.listRequest_state]; exact .nothing)⟩
  · exact ⟨_, rfl, s.takeRequest_moves _ _ _ _ (s.readRequest_change l body)⟩
  · exact ⟨_, rfl, s.takeRequest_moves _ _ _ _ (by rw [s.lookupRequest_state]; exact .nothing)⟩
  · exact ⟨_, rfl, s.takeRequest_moves _ _ _ _ (s.takeNoticesRequest_change l body)⟩
  · exact ⟨_, rfl, s.takeRequest_moves _ _ _ _ (s.openRequest_change l body)⟩
  · exact ⟨_, rfl, s.takeRequest_moves _ _ _ _ (s.amendRequest_change l body)⟩
  · split
    · exact ⟨_, rfl, s.takeRequest_moves _ _ _ _ (s.renewAllRequest_change l)⟩
    · refine ⟨_, rfl, s.takeRequest_moves _ _ _ _ ?_⟩
      split
      · exact s.renewAllRequest_change l
      · exact s.renewRequest_change l body
  · exact ⟨_, rfl, s.takeRequest_moves _ _ _ _ (s.retireRequest_change l body)⟩
  · exact ⟨_, rfl, s.takeRequest_moves _ _ _ _ (s.dropAllRequest_change l body)⟩
  · exact ⟨_, rfl, s.takeRequest_moves _ _ _ _ (s.clearTripRequest_change l body)⟩
  · exact ⟨_, rfl, s.takeRequest_moves _ _ _ _ (s.testTripRequest_change l body)⟩
  · exact ⟨_, rfl, s.takeRequest_moves _ _ _ _ (s.pinRequest_change l body)⟩
  · exact ⟨_, rfl, s.takeRequest_moves _ _ _ _ (s.evictRequest_change l body)⟩
  · exact ⟨_, rfl, s.takeRequest_moves _ _ _ _ (s.admitRequest_change l body)⟩
  · exact ⟨_, rfl, s.takeRequest_moves _ _ _ _ (s.setReachRequest_change l body)⟩
  · exact ⟨_, rfl, s.takeRequest_moves _ _ _ _ (s.setAnalogRequest_change l body)⟩
  · exact ⟨_, rfl, s.takeRequest_moves _ _ _ _ (s.setEdgeRequest_change l body)⟩
  · exact ⟨_, rfl, s.takeRequest_moves _ _ _ _ (s.setDriveRequest_change l body)⟩
  · exact ⟨_, rfl, s.takeRequest_moves _ _ _ _ (s.lockSetupRequest_change l body)⟩
  · exact ⟨_, rfl, .same⟩

/-- Every command answers a next state, and it is one of the moves. -/
theorem exec_moves (c : Instr) (s : State) : ∃ t, exec c s = .next t ∧ Moves s t := by
  cases c with
  | powerOnReset => exact ⟨_, rfl, .held⟩
  | resetRelease auth pins csLow =>
    refine ⟨_, rfl, ?_⟩
    split
    · exact .released auth pins csLow
    · exact .same
  | windowBegin l =>
    refine ⟨_, rfl, ?_⟩
    dsimp only
    split
    · exact .same
    · exact .window l _ _ _
  | frameRefused l bits =>
    show ∃ t, execFrameRefused l bits s = .next t ∧ Moves s t
    unfold execFrameRefused
    split
    · exact ⟨_, rfl, .same⟩
    · unfold riseOfCs
      dsimp only
      split
      · exact ⟨_, rfl, .response s .nothing l _⟩
      · exact takeByCode_moves _ _ _ _
  | poll l body => exact takeByCode_moves l 0x00#8 body s
  | status l body => exact takeByCode_moves l 0x01#8 body s
  | trips l body => exact takeByCode_moves l 0x02#8 body s
  | list l body => exact takeByCode_moves l 0x03#8 body s
  | read l body => exact takeByCode_moves l 0x04#8 body s
  | lookup l body => exact takeByCode_moves l 0x05#8 body s
  | takeNotices l body => exact takeByCode_moves l 0x06#8 body s
  | openClaim l body => exact takeByCode_moves l 0x10#8 body s
  | amend l body => exact takeByCode_moves l 0x11#8 body s
  | renew l body =>
    refine ⟨_, rfl, s.takeRequest_moves _ _ _ _ ?_⟩
    split
    · exact s.renewAllRequest_change l
    · exact s.renewRequest_change l body
  | renewAll l => exact takeByCode_moves l 0x12#8 [] s
  | retire l body => exact takeByCode_moves l 0x13#8 body s
  | dropAll l body => exact takeByCode_moves l 0x14#8 body s
  | clearTrip l body => exact takeByCode_moves l 0x20#8 body s
  | testTrip l body => exact takeByCode_moves l 0x21#8 body s
  | pin l body => exact takeByCode_moves l 0x30#8 body s
  | evict l body => exact takeByCode_moves l 0x31#8 body s
  | admitLink l body => exact takeByCode_moves l 0x32#8 body s
  | setReach l body => exact takeByCode_moves l 0x40#8 body s
  | setAnalog l body => exact takeByCode_moves l 0x41#8 body s
  | setEdge l body => exact takeByCode_moves l 0x42#8 body s
  | setDrive l body => exact takeByCode_moves l 0x43#8 body s
  | lockSetup l body => exact takeByCode_moves l 0x44#8 body s
  | cadenceAdvance =>
    refine ⟨_, rfl, ?_⟩
    split
    · exact .same
    · exact .advance
  | holdExpiry i =>
    refine ⟨_, rfl, ?_⟩
    split
    · exact .same
    · exact .expire i
  | periodEnd g =>
    refine ⟨_, rfl, ?_⟩
    split
    · exact .same
    · split
      · rename_i h
        exact s.atInstant_moves _ _ (.periodEnd g h _)
      · exact .same
  | conversionComplete value =>
    refine ⟨_, rfl, ?_⟩
    split
    · exact .same
    · split
      · exact .same
      · rename_i f hf
        exact s.atInstant_moves _ _ (.complete f hf value _)
  | edgePinChange e lvl micros =>
    refine ⟨_, rfl, ?_⟩
    split
    · exact .same
    · exact .pinChange e lvl micros
  | acceptedEdge e =>
    refine ⟨_, rfl, ?_⟩
    split
    · exact .same
    · split
      · exact .same
      · rename_i p hp
        exact s.atInstant_moves _ _ (.accept e p hp _)
  | tripTaken g =>
    refine ⟨_, rfl, ?_⟩
    split
    · exact .same
    · exact .trip g
  | csRiseAfterReset l =>
    refine ⟨_, rfl, ?_⟩
    dsimp only
    split
    · exact .same
    · exact .window l _ _ _

/-- A command's next state is one of the moves. -/
theorem exec_next_moves {c : Instr} {s t : State} (h : exec c s = .next t) : Moves s t := by
  obtain ⟨u, hu, hm⟩ := exec_moves c s
  rw [hu] at h
  injection h with h
  exact h ▸ hm

/-- A step makes one of the moves from the state with its command taken off the queue. -/
theorem step_moves {s t : State} (h : step s = .next t) : ∃ q, Moves { s with pending := q } t := by
  unfold step at h
  split at h
  · injection h with h
    refine ⟨s.pending, ?_⟩
    unfold State.idle at h
    split at h
    · exact h ▸ .same
    · exact h ▸ .clocks
  · exact ⟨_, exec_next_moves h⟩

/-- An invariant that does not read the queue and that every move keeps is kept by every step. -/
theorem step_keeps (P : State → Prop) (hq : ∀ s q, P s → P { s with pending := q })
    (hm : ∀ s t, P s → Moves s t → P t) {s t : State} (hs : P s) (h : step s = .next t) : P t := by
  obtain ⟨q, hmv⟩ := step_moves h
  exact hm _ t (hq s q hs) hmv

end Sys2Proof.Machine
end

