-- ==== Sys2Proof/Laws/Gates.lean ====
section
/-! SUPPORT. What the gate units' operations do to the gates and to the channels, said once for each. -/

namespace Sys2Proof.Machine

@[simp] theorem State.setGate_gates (s : State) (g : Gate) (u : GateUnit) :
    (s.setGate g u).gates = s.gates.set g u := rfl

@[simp] theorem State.setDrive_drives (s : State) (d : Drive) (ch : DriveChannel) :
    (s.setDrive d ch).drives = s.drives.set d ch := rfl

/-- A channel is under a gate exactly when the gate is its parent (R39). -/
theorem mem_children (g : Gate) (d : Drive) : d ∈ g.children ↔ d.parent = g := by
  cases g <;> cases d <;> simp [Gate.children, Drive.parent]

/-! ### Views that the gates' work leaves -/

/-- The wanted pattern follows from the list and the directions of its claims (R62). -/
theorem State.wanted_congr {s t : State} (d : Drive) (hl : t.driveLists = s.driveLists)
    (hc : ∀ i, (t.claim i).map Claim.direction = (s.claim i).map Claim.direction) : t.wanted d = s.wanted d := by
  unfold State.wanted State.head State.driveList
  rw [hl]
  cases h : (s.driveLists.get d).head? with
  | none => rfl
  | some i =>
    have := hc i
    dsimp only [Option.bind_some]
    cases h1 : t.claim i <;> cases h2 : s.claim i <;> simp_all

/-! ### Halting and releasing a channel -/

@[simp] theorem State.haltChannel_drives (s : State) (d : Drive) (p : StopPattern) :
    (s.haltChannel d p).drives = s.drives.set d ⟨.halted, 0, p.pins, 0⟩ := by
  unfold State.haltChannel
  dsimp only
  repeat' split
  all_goals simp

/-- The phase in which a channel leaves HALTED at its gate's opening (R43). -/
def State.openingPhase (s : State) (d : Drive) : Phase :=
  if s.wanted d ≠ (s.drives.get d).pattern then .switching
  else if (s.head d).isSome then .running else .idle

theorem State.openingPhase_ne_halted (s : State) (d : Drive) : s.openingPhase d ≠ .halted := by
  unfold State.openingPhase
  repeat' split
  all_goals simp

@[simp] theorem State.releaseChannel_drives (s : State) (d : Drive) :
    (s.releaseChannel d).drives = s.drives.set d { s.drives.get d with phase := s.openingPhase d } := by
  unfold State.releaseChannel State.openingPhase
  dsimp only
  generalize (if s.wanted d ≠ (s.drives.get d).pattern then Phase.switching
    else if (s.head d).isSome then .running else .idle) = ph
  split
  · simp
  · split <;> simp

/-! ### Counters -/

@[simp] theorem GateUnit.run_isOpen (n : Nat) (u : GateUnit) : (GateUnit.run n u).isOpen = u.isOpen := by
  unfold GateUnit.run; split <;> rfl

@[simp] theorem GateUnit.run_applied (n : Nat) (u : GateUnit) : (GateUnit.run n u).applied = u.applied := by
  unfold GateUnit.run; split <;> rfl

@[simp] theorem GateUnit.run_staged (n : Nat) (u : GateUnit) : (GateUnit.run n u).staged = u.staged := by
  unfold GateUnit.run; split <;> rfl

@[simp] theorem GateUnit.run_close (n : Nat) (u : GateUnit) : (GateUnit.run n u).close = u.close := by
  unfold GateUnit.run; split <;> rfl

@[simp] theorem GateUnit.run_holds (n : Nat) (u : GateUnit) : (GateUnit.run n u).holds = u.holds := by
  unfold GateUnit.run; split <;> rfl

/-- Each gate runs for the clocks that pass, to the end of the tick at most. -/
theorem State.passClocks_gates (s : State) (n : Nat) (g : Gate) :
    (s.passClocks n).gates.get g = GateUnit.run (min n (2000 - s.clock.divider)) (s.gates.get g) := by
  cases g <;> rfl

/-- Each gate runs to the end of the tick. -/
theorem State.nextTick_gates (waits : Bool) (s : State) (g : Gate) :
    (s.nextTick waits).gates.get g = GateUnit.run (2000 - s.clock.divider) (s.gates.get g) := by
  cases g <;> rfl

/-- Each gate runs to the end of the tick, unless an expiry has brought the count to its value. -/
theorem State.takeCount_gates (s : State) (g : Gate) :
    s.takeCount.gates.get g = if s.clock.momentsWait = true then s.gates.get g else
      GateUnit.run (2000 - s.clock.divider) (s.gates.get g) := by
  unfold State.takeCount
  split
  · rfl
  · exact s.nextTick_gates false g

/-- An OPEN gate counts every clock, at its last count too (R47, log entry 22). -/
theorem GateUnit.elapsed_run (n : Nat) (u : GateUnit) (h : u.isOpen = true) :
    (GateUnit.run n u).elapsed = u.elapsed + n := by
  simp only [GateUnit.run, h, if_true]
  show min (u.elapsed + n) u.last + (u.elapsed + n - u.last) = u.elapsed + n
  omega

/-- A gate unit stays as chapter 3 leaves it while its counter runs. -/
theorem GateUnit.run_ok (n : Nat) (u : GateUnit) (h : u.ok) : (GateUnit.run n u).ok := by
  unfold GateUnit.run
  split
  · rename_i ho
    refine ⟨fun _ => ⟨(h.1 ho).1, (h.1 ho).2.1, Nat.min_le_right _ _, fun hw => ?_⟩, fun hc => by simp [ho] at hc⟩
    exact Nat.min_eq_right (by simp only [GateUnit.last] at hw ⊢; omega)
  · exact h

@[simp] theorem GateUnit.wrap_isOpen (u : GateUnit) : (GateUnit.wrap u).isOpen = u.isOpen := GateUnit.run_isOpen _ _

@[simp] theorem GateUnit.wrap_close (u : GateUnit) : (GateUnit.wrap u).close = u.close := GateUnit.run_close _ _

/-- A gate that takes its period end at its wrap begins the next period at count 0 (R47). -/
theorem GateUnit.wrap_inTime (u : GateUnit) (h : u.elapsed ≤ u.applied.getD 1) :
    GateUnit.wrap u = { u with counter := 0, waited := 0, applied := u.staged.or u.applied, staged := none } := by
  unfold GateUnit.wrap
  rw [Nat.sub_eq_zero_of_le h]
  simp [GateUnit.run, GateUnit.elapsed]

/-! ### Closing, opening, staging -/

@[simp] theorem State.closeGate_gates (s : State) (g : Gate) :
    (s.closeGate g).gates = s.gates.set g
      { s.gates.get g with isOpen := false, counter := 0, waited := 0, staged := none, close := s.closeFor g } := by
  unfold State.closeGate
  dsimp only
  rw [foldl_keeps State.gates]
  all_goals simp

/-- At a closing each channel under the gate is HALTED at duty 0 under the close pattern, and no other channel
changes (R44, R45). -/
theorem State.closeGate_drive (s : State) (g : Gate) (d : Drive) :
    (s.closeGate g).drives.get d =
      if d.parent = g then ⟨.halted, 0, (s.closeFor g).pins, 0⟩ else s.drives.get d := by
  cases g <;> cases d <;>
    simp [State.closeGate, Gate.children, Drive.parent, PerDrive.get_set]

@[simp] theorem State.openGate_gates (s : State) (g : Gate) :
    (s.openGate g).gates = s.gates.set g
      { s.gates.get g with
        isOpen := true, counter := 0, waited := 0, applied := (s.supplier g).map Prod.snd, staged := none,
        close := s.closeFor g } := by
  unfold State.openGate
  dsimp only
  rw [foldl_keeps State.gates]
  all_goals simp

theorem State.releaseChannel_direction (s : State) (d : Drive) (i : SlotIx) :
    ((s.releaseChannel d).claim i).map Claim.direction = (s.claim i).map Claim.direction := by
  have hset : ∀ u : DriveChannel, (s.setDrive d u).claim i = s.claim i := fun _ => rfl
  have key : ∀ (t : State) (h : SlotIx), t.claim i = s.claim i →
      (((t.post .resumed h).updClaim h fun c => { c with state := .inForce }).claim i).map Claim.direction =
        (s.claim i).map Claim.direction := by
    intro t h ht
    rw [State.updClaim_claim]
    split
    · rename_i e
      subst e
      rw [State.post_claim, ht, Option.map_map]
      cases s.claim i <;> rfl
    · rw [State.post_claim, ht]
  unfold State.releaseChannel
  dsimp only
  generalize (if s.wanted d ≠ (s.drives.get d).pattern then Phase.switching
    else if (s.head d).isSome then .running else .idle) = ph
  split
  · rw [hset]
  · split
    · exact key _ _ (hset _)
    · rw [hset]

/-- At an opening each channel under the gate leaves HALTED by its wanted and applied patterns, at the duty it
has, and no other channel changes (R43). -/
theorem State.openGate_drive (s : State) (g : Gate) (d : Drive) :
    (s.openGate g).drives.get d =
      if d.parent = g then { s.drives.get d with phase := s.openingPhase d } else s.drives.get d := by
  have hw : ∀ (t : State) (e : Drive), t.driveLists = s.driveLists → t.drives.get e = s.drives.get e →
      (∀ i, (t.claim i).map Claim.direction = (s.claim i).map Claim.direction) →
      t.openingPhase e = s.openingPhase e := by
    intro t e hl hd hc
    unfold State.openingPhase
    rw [State.wanted_congr e hl hc, hd]
    unfold State.head State.driveList
    rw [hl]
  unfold State.openGate
  dsimp only
  generalize hu : ({ s.gates.get g with
    isOpen := true, counter := 0, waited := 0, applied := (s.supplier g).map Prod.snd, staged := none,
    close := s.closeFor g } : GateUnit) = u
  generalize hs' : (s.setGate g u).postEach .gateOpen ((s.setGate g u).gateList g) = s'
  have hl : s'.driveLists = s.driveLists := by rw [← hs']; simp
  have hd : s'.drives = s.drives := by rw [← hs']; simp
  have hc : ∀ i, s'.claim i = s.claim i := by
    intro i; rw [← hs']; exact State.claim_congr (by simp) i
  have hr : ∀ i (e : Drive), ((s'.releaseChannel e).claim i).map Claim.direction =
      (s.claim i).map Claim.direction := by
    intro i e; rw [State.releaseChannel_direction, hc]
  cases g
  · simp only [Gate.children, List.foldl_cons, List.foldl_nil, State.releaseChannel_drives, hd]
    rw [hw s' .dl hl (by rw [hd]) (fun i => by rw [hc]),
      hw (s'.releaseChannel .dl) .dr (by simp [hl])
        (by rw [State.releaseChannel_drives, hd, PerDrive.get_set]; rfl) (fun i => hr i .dl)]
    cases d <;> simp [Drive.parent, PerDrive.get_set]
  · simp only [Gate.children, List.foldl_cons, List.foldl_nil, State.releaseChannel_drives, hd]
    rw [hw s' .db hl (by rw [hd]) (fun i => by rw [hc])]
    cases d <;> simp [Drive.parent, PerDrive.get_set]

@[simp] theorem State.stagePeriod_gates (s : State) (g : Gate) :
    (s.stagePeriod g).gates = s.gates.set g
      { s.gates.get g with
        staged := if (s.supplier g).map Prod.snd = (s.gates.get g).applied then none
          else (s.supplier g).map Prod.snd,
        close := s.closeFor g } := rfl

@[simp] theorem State.rePattern_gates (s : State) (g : Gate) :
    (s.rePattern g).gates = s.gates.set g { s.gates.get g with close := s.closeFor g } := by
  unfold State.rePattern
  dsimp only
  rw [foldl_keeps State.gates]
  all_goals simp

/-- A CLOSED gate's channels follow its close pattern, and nothing else of them changes (R50). -/
theorem State.rePattern_drive (s : State) (g : Gate) (d : Drive) :
    (s.rePattern g).drives.get d =
      if d.parent = g then { s.drives.get d with pattern := (s.closeFor g).pins } else s.drives.get d := by
  cases g <;> cases d <;>
    simp [State.rePattern, Gate.children, Drive.parent, PerDrive.get_set]

/-- The open condition needs an empty hold list (R41). -/
theorem State.openCondition_holds (s : State) (g : Gate) (h : s.openCondition g = true) :
    (s.gates.get g).holds = [] := by
  simp [State.openCondition] at h
  exact h.1.1

/-- Under the open condition the close pattern is COAST (R49). -/
theorem State.openCondition_close (s : State) (g : Gate) (h : s.openCondition g = true) :
    s.closeFor g = .coast := by
  have hh := s.openCondition_holds g h
  simp [State.openCondition] at h
  unfold State.closeFor
  rw [if_neg]
  rintro (hb | hb)
  · simp at hb
    obtain ⟨b, hb1, hb2, _⟩ := hb
    exact h.1.2 b hb1 hb2
  · simp [hh] at hb

/-- A gate that evaluates its condition is OPEN exactly when the condition holds (R41). -/
theorem State.evalGate_isOpen (s : State) (g : Gate) :
    ((s.evalGate g).gates.get g).isOpen = s.openCondition g := by
  unfold State.evalGate State.gateIsOpen
  split
  · split <;> simp_all
  · split <;> simp_all

/-- An evaluation keeps a gate's hold list. -/
@[simp] theorem State.evalGate_holds (s : State) (g : Gate) :
    ((s.evalGate g).gates.get g).holds = (s.gates.get g).holds := by
  unfold State.evalGate
  split <;> split <;> simp

/-- An evaluation of one gate leaves the other gate. -/
theorem State.evalGate_other (s : State) (g h : Gate) (hne : h ≠ g) :
    (s.evalGate g).gates.get h = s.gates.get h := by
  unfold State.evalGate
  split <;> split <;> simp [PerGate.get_set, hne]

/-- An evaluation of a gate leaves the channels under the other gate. -/
theorem State.evalGate_otherDrive (s : State) (g : Gate) (d : Drive) (hne : d.parent ≠ g) :
    (s.evalGate g).drives.get d = s.drives.get d := by
  unfold State.evalGate
  split <;> split <;>
    simp [State.closeGate_drive, State.openGate_drive, State.rePattern_drive, hne]

/-- After an evaluation the gate and its channels are as chapters 3 and 4 leave them, if they were so but for the
gate's holds (R41 to R50). -/
theorem State.evalGate_ok (s : State) (g : Gate)
    (hopen : (s.gates.get g).isOpen = true → (s.gates.get g).counter ≤ (s.gates.get g).applied.getD 1 - 1 ∧
      ((s.gates.get g).waited ≠ 0 → (s.gates.get g).counter = (s.gates.get g).applied.getD 1 - 1))
    (hclosed : (s.gates.get g).isOpen = false →
      (s.gates.get g).counter = 0 ∧ (s.gates.get g).waited = 0 ∧ (s.gates.get g).staged = none)
    (hd : ∀ d : Drive, d.parent = g → (s.drives.get d).ok (s.gates.get g)) :
    ((s.evalGate g).gates.get g).ok ∧
      ∀ d : Drive, d.parent = g → ((s.evalGate g).drives.get d).ok ((s.evalGate g).gates.get g) := by
  unfold State.evalGate State.gateIsOpen
  split
  · rename_i ho
    split
    · rename_i hc
      refine ⟨?_, fun d hp => ?_⟩
      · have h := hopen ho
        simpa [GateUnit.ok, ho, s.openCondition_holds g hc, s.openCondition_close g hc] using h
      · have h := hd d hp
        have hn : (s.drives.get d).phase ≠ .halted := fun e => by simp [h.1.mp e] at ho
        simpa [DriveChannel.ok, ho, hn] using h.2.2
    · refine ⟨?_, fun d hp => ?_⟩
      · simp [GateUnit.ok]
      · simp [State.closeGate_drive, hp, DriveChannel.ok]
  · rename_i ho
    have ho' : (s.gates.get g).isOpen = false := by simpa using ho
    split
    · rename_i hc
      refine ⟨?_, fun d hp => ?_⟩
      · simp [GateUnit.ok, s.openCondition_holds g hc, s.openCondition_close g hc]
      · have h := hd d hp
        have hh : (s.drives.get d).phase = .halted := h.1.mpr ho'
        have hz : (s.drives.get d).duty = 0 := h.2.2 (by simp [hh]) (by simp [hh])
        simp [State.openGate_drive, hp, DriveChannel.ok, State.openingPhase_ne_halted, hz]
    · refine ⟨?_, fun d hp => ?_⟩
      · simp [GateUnit.ok, ho', hclosed ho']
      · have h := hd d hp
        have hh : (s.drives.get d).phase = .halted := h.1.mpr ho'
        have hz : (s.drives.get d).duty = 0 := h.2.2 (by simp [hh]) (by simp [hh])
        simp [State.rePattern_drive, hp, DriveChannel.ok, ho', hh, hz, (h.2.1 hh).1]

end Sys2Proof.Machine
end

