-- ==== Sys2Proof/Laws/Channels.lean ====
section
/-! SUPPORT. What a period end does to a channel and to a gate's counter, said once for each operation. -/

namespace Sys2Proof.Machine

/-- The applied duty that a period end worked as RUNNING leaves (R68 step 2). -/
def State.runningDuty (s : State) (d : Drive) : Nat :=
  moveToward (effectiveTarget (s.headView d)) (rampOf (s.headView d)) (s.drives.get d).duty

/-- The applied duty that a period end worked as WINDING_DOWN leaves (R70 step 2). -/
def State.windingDuty (s : State) (d : Drive) : Nat :=
  moveToward 0 (rampOf (s.headView d)) (s.drives.get d).duty

theorem State.workRunning_drives (s : State) (d : Drive) :
    (s.workRunning d (s.headView d)).drives = s.drives.set d
      { s.drives.get d with
        phase := if (s.headView d).isNone = true ∧ s.runningDuty d = 0 then .idle else .running,
        duty := s.runningDuty d } := by
  unfold State.workRunning State.runningDuty
  dsimp only
  cases s.headView d with
  | none => simp
  | some v =>
    dsimp only
    split
    · split <;> simp
    · split <;> simp

theorem State.workWindingDown_drives (s : State) (d : Drive) :
    (s.workWindingDown d (s.headView d)).drives = s.drives.set d
      { s.drives.get d with
        phase := if s.windingDuty d = 0 then .switching else .windingDown, duty := s.windingDuty d } := by
  unfold State.workWindingDown State.windingDuty
  dsimp only
  cases s.headView d with
  | none => simp
  | some v =>
    dsimp only
    split <;> simp

/-- The channel after the work of its phase (R66 to R72). -/
def State.workedChannel (s : State) (d : Drive) : DriveChannel :=
  let ch := s.drives.get d
  let running : DriveChannel :=
    { ch with
      phase := if (s.headView d).isNone = true ∧ s.runningDuty d = 0 then .idle else .running,
      duty := s.runningDuty d }
  let winding : DriveChannel :=
    { ch with phase := if s.windingDuty d = 0 then .switching else .windingDown, duty := s.windingDuty d }
  match ch.phase with
  | .halted => ch
  | .idle =>
    if s.wanted d ≠ ch.pattern then { ch with phase := .switching }
    else if (s.head d).isSome then running else ch
  | .running => if s.wanted d ≠ ch.pattern then winding else running
  | .windingDown => if s.wanted d = ch.pattern then running else winding
  | .switching => { ch with phase := .dwell, pattern := s.wanted d }
  | .dwell => { ch with phase := if (s.head d).isSome then .running else .idle }

/-- The work of a channel's phase changes no other channel. -/
theorem State.workPhase_drives (s : State) (d : Drive) :
    (s.workPhase d).drives = s.drives.set d (s.workedChannel d) := by
  unfold State.workPhase State.workedChannel
  dsimp only
  cases (s.drives.get d).phase with
  | halted => simp
  | idle =>
    dsimp only
    split
    · simp
    · split
      · simp [State.workRunning_drives]
      · simp
  | switching => simp
  | dwell => simp
  | running =>
    dsimp only
    split
    · simp [State.workWindingDown_drives]
    · simp [State.workRunning_drives]
  | windingDown =>
    dsimp only
    split
    · simp [State.workRunning_drives]
    · simp [State.workWindingDown_drives]

@[simp] theorem State.formCompare_drives (s : State) (d : Drive) :
    (s.formCompare d).drives = s.drives.set d
      { s.drives.get d with
        compare := (s.drives.get d).duty * (s.gates.get d.parent).applied.getD 0 / 1024 } := rfl

/-- A channel after a period end (R66): its phase worked, and its compare count formed from the period that its
gate has just applied (R60). -/
theorem State.channelPeriodEnd_drives (s : State) (d : Drive) :
    (s.channelPeriodEnd d).drives = s.drives.set d
      { s.workedChannel d with
        compare := (s.workedChannel d).duty * (s.gates.get d.parent).applied.getD 0 / 1024 } := by
  simp [State.channelPeriodEnd, State.workPhase_drives]

@[simp] theorem State.channelPeriodEnd_other (s : State) (d e : Drive) (h : e ≠ d) :
    (s.channelPeriodEnd d).drives.get e = s.drives.get e := by
  rw [State.channelPeriodEnd_drives, PerDrive.get_set, if_neg h]

/-- The gate after its period end (R47, R48). -/
theorem State.gatePeriodEnd_gates (s : State) (g : Gate) :
    (s.gatePeriodEnd g).gates = s.gates.set g (GateUnit.wrap (s.gates.get g)) := by
  unfold State.gatePeriodEnd
  rw [foldl_keeps State.gates]
  all_goals simp

/-- A period end leaves the channels of the other gate. -/
theorem State.gatePeriodEnd_otherDrive (s : State) (g : Gate) (d : Drive) (h : d.parent ≠ g) :
    (s.gatePeriodEnd g).drives.get d = s.drives.get d := by
  unfold State.gatePeriodEnd
  cases g <;> cases d <;> simp_all [Gate.children, Drive.parent]

/-- A worked channel keeps the rules of chapter 4 under an OPEN gate (R65, R73). -/
theorem State.workedChannel_ok (s : State) (d : Drive) (u : GateUnit) (ho : u.isOpen = true)
    (h : (s.drives.get d).ok u) (n : Nat) : ({ s.workedChannel d with compare := n } : DriveChannel).ok u := by
  have hn : (s.drives.get d).phase ≠ .halted := fun e => by simp [h.1.mp e] at ho
  have hz := h.2.2
  unfold State.workedChannel
  dsimp only
  cases hp : (s.drives.get d).phase with
  | halted => contradiction
  | idle =>
    have hd : (s.drives.get d).duty = 0 := hz (by simp [hp]) (by simp [hp])
    dsimp only
    split
    · simp [DriveChannel.ok, ho, hd]
    · split
      · split <;> simp_all [DriveChannel.ok]
      · simp [DriveChannel.ok, ho, hd, hp]
  | switching =>
    have hd : (s.drives.get d).duty = 0 := hz (by simp [hp]) (by simp [hp])
    simp [DriveChannel.ok, ho, hd]
  | dwell =>
    have hd : (s.drives.get d).duty = 0 := hz (by simp [hp]) (by simp [hp])
    dsimp only
    split <;> simp [DriveChannel.ok, ho, hd]
  | running =>
    dsimp only
    split
    · split <;> simp_all [DriveChannel.ok]
    · split <;> simp_all [DriveChannel.ok]
  | windingDown =>
    dsimp only
    split
    · split <;> simp_all [DriveChannel.ok]
    · split <;> simp_all [DriveChannel.ok]

/-- After a period end of an OPEN gate its channels keep the rules of chapter 4. -/
theorem State.gatePeriodEnd_ok (s : State) (g : Gate) (ho : (s.gates.get g).isOpen = true)
    (hd : ∀ d : Drive, d.parent = g → (s.drives.get d).ok (s.gates.get g)) (d : Drive) (hp : d.parent = g) :
    ((s.gatePeriodEnd g).drives.get d).ok ((s.gatePeriodEnd g).gates.get g) := by
  have hcongr : ∀ (ch : DriveChannel) (u v : GateUnit), v.isOpen = u.isOpen → v.close = u.close → ch.ok u → ch.ok v := by
    intro ch u v h1 h2 h
    unfold DriveChannel.ok at *
    rw [h1, h2]
    exact h
  rw [State.gatePeriodEnd_gates, PerGate.get_set_self]
  refine hcongr _ (s.gates.get g) _ (GateUnit.wrap_isOpen _) (GateUnit.wrap_close _) ?_
  unfold State.gatePeriodEnd
  generalize hs : s.setGate g _ = s'
  have hs' : s'.drives = s.drives := by rw [← hs]; rfl
  cases g
  · have h1 := fun n => State.workedChannel_ok s' .dl _ ho (by rw [hs']; exact hd .dl rfl) n
    have h2 := fun n => State.workedChannel_ok (s'.channelPeriodEnd .dl) .dr _ ho
      (by rw [State.channelPeriodEnd_other _ _ _ (by simp), hs']; exact hd .dr rfl) n
    cases d
    · simpa [Gate.children, State.channelPeriodEnd_drives, PerDrive.get_set] using h1 _
    · simpa [Gate.children, State.channelPeriodEnd_drives (s'.channelPeriodEnd .dl)] using h2 _
    · simp [Drive.parent] at hp
  · have h1 := fun n => State.workedChannel_ok s' .db _ ho (by rw [hs']; exact hd .db rfl) n
    cases d
    · simp [Drive.parent] at hp
    · simp [Drive.parent] at hp
    · simpa [Gate.children, State.channelPeriodEnd_drives] using h1 _

end Sys2Proof.Machine
end

