-- ==== Sys2Proof/Laws/Claims.lean ====
section
/-! SUPPORT. No operation but OPEN, AMEND, PIN and the handover of a pinned claim makes a claim or changes one of the
fields that R1 lets no other event change: one lemma per operation, over `State.Descends`. -/

namespace Sys2Proof

theorem Claim.Same.refl (c : Claim) : c.Same c := ⟨rfl, rfl, rfl, rfl, rfl, rfl, rfl, rfl⟩

theorem Claim.Same.trans {c d e : Claim} (h : c.Same d) (k : d.Same e) : c.Same e :=
  ⟨k.owner.trans h.owner, k.resource.trans h.resource, k.tag.trans h.tag, k.cls.trans h.cls,
    k.hold.trans h.hold, k.pinned.trans h.pinned, k.wants.trans h.wants, k.body.trans h.body⟩

end Sys2Proof

namespace Sys2Proof.Machine

theorem State.Descends.refl (s : State) : s.Descends s := fun _ d h => ⟨d, h, Claim.Same.refl d⟩

theorem State.Descends.trans {s t u : State} (h : s.Descends t) (k : t.Descends u) : s.Descends u := by
  intro i e he
  obtain ⟨d, hd, hde⟩ := k i e he
  obtain ⟨c, hc, hcd⟩ := h i d hd
  exact ⟨c, hc, hcd.trans hde⟩

/-- A change that leaves the slots. -/
theorem State.Descends.of_slots {s t : State} (h : t.slots = s.slots) : s.Descends t := by
  intro i d hd
  rw [State.claim_congr h] at hd
  exact ⟨d, hd, Claim.Same.refl d⟩

/-- A change after which the slots are those of another change. -/
theorem State.Descends.slots_eq {s t u : State} (h : s.Descends t) (e : u.slots = t.slots) : s.Descends u :=
  h.trans (.of_slots e)

theorem State.updClaim_descends (s : State) (i : SlotIx) (f : Claim → Claim) (hf : ∀ c : Claim, c.Same (f c)) :
    s.Descends (s.updClaim i f) := by
  intro j d hd
  rw [State.updClaim_claim] at hd
  split at hd
  · rename_i e
    subst e
    cases hc : s.claim j with
    | none => simp [hc] at hd
    | some c =>
      rw [hc] at hd
      exact ⟨c, rfl, Option.some.inj hd ▸ hf c⟩
  · exact ⟨d, hd, Claim.Same.refl d⟩

theorem State.freeSlot_descends (s : State) (i : SlotIx) : s.Descends (s.freeSlot i) := by
  intro j d hd
  rw [State.freeSlot_claim] at hd
  split at hd
  · contradiction
  · exact ⟨d, hd, Claim.Same.refl d⟩

theorem State.foldl_descends {α : Type} (f : State → α → State) (hf : ∀ (s : State) (a : α), s.Descends (f s a))
    (l : List α) (s : State) : s.Descends (l.foldl f s) :=
  foldl_holds (fun now a h => h.trans (hf now a)) l (.refl s)

theorem State.Descends.fold {α : Type} {s t : State} (h : s.Descends t) (f : State → α → State)
    (hf : ∀ (s : State) (a : α), s.Descends (f s a)) (l : List α) : s.Descends (l.foldl f t) :=
  h.trans (State.foldl_descends f hf l t)

theorem State.beginEnd_descends (s : State) (i : SlotIx) (c : EndCause) : s.Descends (s.beginEnd i c) :=
  s.updClaim_descends i _ fun _ => ⟨rfl, rfl, rfl, rfl, rfl, rfl, rfl, rfl⟩

/-- A posting and a change of a claim that keeps the fields of R1. -/
theorem State.postUpd_descends (s : State) (k : NoticeKind) (i : SlotIx) (f : Claim → Claim)
    (hf : ∀ c : Claim, c.Same (f c)) : s.Descends ((s.post k i).updClaim i f) :=
  State.Descends.trans (s := s) (t := s.post k i) (.of_slots rfl) (State.updClaim_descends _ i f hf)

theorem State.finish_descends (s : State) (i : SlotIx) : s.Descends (s.finish i) := by
  unfold State.finish
  split
  · exact .refl s
  · split
    · exact s.freeSlot_descends i
    · exact s.postUpd_descends _ i _ fun _ => ⟨rfl, rfl, rfl, rfl, rfl, rfl, rfl, rfl⟩

theorem State.completeClaim_descends (s : State) (i : SlotIx) : s.Descends (s.completeClaim i) :=
  s.postUpd_descends _ i _ fun _ => ⟨rfl, rfl, rfl, rfl, rfl, rfl, rfl, rfl⟩

theorem State.settle_descends (s : State) (d : Drive) : s.Descends (s.settle d) := by
  unfold State.settle
  split
  · exact .refl s
  · refine State.Descends.trans (State.foldl_descends _ (fun s i => ?_) _ _)
      (State.updClaim_descends _ _ _ fun c => ?_)
    · exact s.updClaim_descends i _ fun _ => ⟨rfl, rfl, rfl, rfl, rfl, rfl, rfl, rfl⟩
    · split
      · exact Claim.Same.refl c
      · exact ⟨rfl, rfl, rfl, rfl, rfl, rfl, rfl, rfl⟩

theorem State.changeList_descends (s : State) (d : Drive) (old : Option SlotIx) (l : List SlotIx) :
    s.Descends (s.changeList d old l) := by
  refine State.Descends.slots_eq (t := State.settle { s with driveLists := s.driveLists.set d l } d) ?_
    (by simp [State.changeList])
  exact State.Descends.trans (State.Descends.of_slots rfl) (State.settle_descends _ d)

theorem State.join_descends (s : State) (d : Drive) (i : SlotIx) : s.Descends (s.join d i) := by
  unfold State.join
  repeat' split
  · exact s.changeList_descends _ _ _
  · exact (s.finish_descends _).trans (State.changeList_descends _ _ _ _)
  · exact (s.completeClaim_descends _).trans (State.changeList_descends _ _ _ _)
  · exact s.changeList_descends _ _ _

theorem State.haltChannel_descends (s : State) (d : Drive) (p : StopPattern) : s.Descends (s.haltChannel d p) := by
  have h0 : ∀ u, s.Descends (s.setDrive d u) := fun u => .of_slots rfl
  unfold State.haltChannel
  dsimp only
  refine (h0 ⟨.halted, 0, p.pins, 0⟩).trans ?_
  repeat' split
  · exact .refl _
  · exact (State.finish_descends _ _).trans (State.changeList_descends _ _ _ _)
  · exact (State.completeClaim_descends _ _).trans (State.changeList_descends _ _ _ _)
  · exact State.postUpd_descends _ _ _ _ fun _ => ⟨rfl, rfl, rfl, rfl, rfl, rfl, rfl, rfl⟩
  · exact .refl _

theorem State.releaseChannel_descends (s : State) (d : Drive) : s.Descends (s.releaseChannel d) := by
  unfold State.releaseChannel
  dsimp only
  generalize (if s.wanted d ≠ (s.drives.get d).pattern then Phase.switching
    else if (s.head d).isSome then .running else .idle) = ph
  refine State.Descends.trans (s := s) (t := s.setDrive d { s.drives.get d with phase := ph }) (.of_slots rfl) ?_
  repeat' split
  · exact .refl _
  · exact State.postUpd_descends _ _ _ _ fun _ => ⟨rfl, rfl, rfl, rfl, rfl, rfl, rfl, rfl⟩
  · exact .refl _

theorem State.closeGate_descends (s : State) (g : Gate) : s.Descends (s.closeGate g) := by
  unfold State.closeGate
  dsimp only
  refine State.Descends.trans ?_ (State.foldl_descends _ (fun s d => s.haltChannel_descends d _) _ _)
  exact .of_slots (by simp)

theorem State.openGate_descends (s : State) (g : Gate) : s.Descends (s.openGate g) := by
  unfold State.openGate
  dsimp only
  refine State.Descends.trans ?_ (State.foldl_descends _ (fun s d => s.releaseChannel_descends d) _ _)
  exact .of_slots (by simp)

theorem State.evalGate_descends (s : State) (g : Gate) : s.Descends (s.evalGate g) := by
  unfold State.evalGate
  repeat' split
  · exact .of_slots (by simp)
  · exact s.closeGate_descends g
  · exact s.openGate_descends g
  · exact .of_slots (by simp)

theorem State.takeHold_descends (s : State) (g : Gate) (h : TripHold) : s.Descends (s.takeHold g h) :=
  (State.Descends.of_slots rfl).trans (State.evalGate_descends _ g)

theorem State.removeHold_descends (s : State) (g : Gate) (src : Source) : s.Descends (s.removeHold g src) :=
  (State.Descends.of_slots rfl).trans (State.evalGate_descends _ g)

theorem Claim.countBurst_same (c : Claim) : c.Same (Claim.countBurst c) := by
  unfold Claim.countBurst
  split
  · rename_i b n h
    exact ⟨rfl, rfl, rfl, rfl, rfl, rfl, rfl, by simp [h, Payload.body]⟩
  all_goals exact Claim.Same.refl c

theorem State.headCompletes_descends (s : State) (d : Drive) (h : SlotIx) : s.Descends (s.headCompletes d h) :=
  (s.completeClaim_descends h).trans (State.changeList_descends _ _ _ _)

theorem State.headFinishes_descends (s : State) (d : Drive) (h : SlotIx) : s.Descends (s.headFinishes d h) :=
  (s.finish_descends h).trans (State.changeList_descends _ _ _ _)

theorem State.reportAtZero_descends (s : State) (d : Drive) (v : HeadView) : s.Descends (s.reportAtZero d v) := by
  unfold State.reportAtZero
  repeat' split
  · exact s.headFinishes_descends _ _
  · exact s.headCompletes_descends _ _
  · exact .refl s

theorem State.workRunning_descends (s : State) (d : Drive) (v : Option HeadView) :
    s.Descends (s.workRunning d v) := by
  have h0 : ∀ u, s.Descends (s.setDrive d u) := fun u => .of_slots rfl
  unfold State.workRunning
  dsimp only
  split
  · exact h0 _
  · generalize hs : s.setDrive d _ = s'
    have h' : s.Descends s' := hs ▸ h0 _
    refine h'.trans ?_
    repeat' split
    · exact (State.updClaim_descends _ _ _ Claim.countBurst_same).trans (State.headCompletes_descends _ _ _)
    · exact State.updClaim_descends _ _ _ Claim.countBurst_same
    · exact State.reportAtZero_descends _ _ _
    · exact .refl _

theorem State.workWindingDown_descends (s : State) (d : Drive) (v : Option HeadView) :
    s.Descends (s.workWindingDown d v) := by
  have h0 : ∀ u, s.Descends (s.setDrive d u) := fun u => .of_slots rfl
  unfold State.workWindingDown
  dsimp only
  generalize hs : s.setDrive d _ = s'
  have h' : s.Descends s' := hs ▸ h0 _
  repeat' split
  · exact h'
  · exact h'.trans (State.reportAtZero_descends _ _ _)
  · exact h'

theorem State.workPhase_descends (s : State) (d : Drive) : s.Descends (s.workPhase d) := by
  have h0 : ∀ u, s.Descends (s.setDrive d u) := fun u => .of_slots rfl
  unfold State.workPhase
  dsimp only
  repeat' split
  all_goals first
    | exact .refl s
    | exact h0 _
    | exact s.workRunning_descends d _
    | exact s.workWindingDown_descends d _

theorem State.channelPeriodEnd_descends (s : State) (d : Drive) : s.Descends (s.channelPeriodEnd d) :=
  (s.workPhase_descends d).slots_eq (by simp [State.channelPeriodEnd])

theorem State.gatePeriodEnd_descends (s : State) (g : Gate) : s.Descends (s.gatePeriodEnd g) := by
  unfold State.gatePeriodEnd
  exact (State.Descends.of_slots rfl).trans
    (State.foldl_descends _ (fun s d => s.channelPeriodEnd_descends d) _ _)

theorem Claim.mapAnalog_same (f : AnalogBody → AnalogRun → AnalogRun) (c : Claim) : c.Same (Claim.mapAnalog f c) := by
  unfold Claim.mapAnalog
  split
  · rename_i b n h
    exact ⟨rfl, rfl, rfl, rfl, rfl, rfl, rfl, by simp [h, Payload.body]⟩
  all_goals exact Claim.Same.refl c

theorem Claim.mapEdge_same (f : EdgeBody → EdgeRun → EdgeRun) (c : Claim) : c.Same (Claim.mapEdge f c) := by
  unfold Claim.mapEdge
  split
  · rename_i b n h
    exact ⟨rfl, rfl, rfl, rfl, rfl, rfl, rfl, by simp [h, Payload.body]⟩
  all_goals exact Claim.Same.refl c

theorem Claim.readByOwner_same (c : Claim) : c.Same (Claim.readByOwner c) := by
  unfold Claim.readByOwner
  split
  · rename_i b n h
    exact ⟨rfl, rfl, rfl, rfl, rfl, rfl, rfl, by simp [h, Payload.body]⟩
  · rename_i b n h
    exact ⟨rfl, rfl, rfl, rfl, rfl, rfl, rfl, by simp [h, Payload.body]⟩
  all_goals exact Claim.Same.refl c

theorem State.missMoment_descends (s : State) (i : SlotIx) : s.Descends (s.missMoment i) :=
  (s.updClaim_descends i _ (Claim.mapAnalog_same _)).slots_eq rfl

theorem State.deliver_descends (s : State) (c : AnalogCh) (v : Nat) (i : SlotIx) : s.Descends (s.deliver c v i) := by
  have h0 : ∀ r ks, s.Descends ((s.updClaim i (Claim.mapAnalog fun _ _ => r)).postAll ks i) := fun r ks =>
    State.Descends.slots_eq (s.updClaim_descends i (Claim.mapAnalog fun _ _ => r) (Claim.mapAnalog_same _))
      (by simp)
  unfold State.deliver
  dsimp only
  split
  · exact .refl s
  · split
    · split
      · exact h0 _ _
      · exact (h0 _ _).slots_eq rfl
    all_goals exact .refl s

theorem State.dueMoment_descends (s : State) (c : AnalogCh) : s.Descends (s.dueMoment c) := by
  unfold State.dueMoment
  dsimp only
  split
  · exact .refl s
  · split
    · refine State.Descends.slots_eq (t := List.foldl State.missMoment s _) ?_ rfl
      exact State.foldl_descends State.missMoment (fun s i => s.missMoment_descends i) _ s
    · exact .refl s

theorem State.scheduleAdvance_descends (s : State) : s.Descends s.scheduleAdvance := by
  refine State.Descends.slots_eq
    (State.foldl_descends State.dueMoment (fun s c => s.dueMoment_descends c) allChannels s) ?_
  simp [State.scheduleAdvance]

/-- A change of an edge claim's runtime with its postings. -/
theorem State.edgeUpd_descends (s : State) (i : SlotIx) (f : EdgeBody → EdgeRun → EdgeRun) (ks : List NoticeKind) :
    s.Descends ((s.updClaim i (Claim.mapEdge f)).postAll ks i) :=
  State.Descends.slots_eq (s.updClaim_descends i (Claim.mapEdge f) (Claim.mapEdge_same f)) (by simp)

theorem State.handEdge_descends (s : State) (v : Level) (t : Count32) (i : SlotIx) :
    s.Descends (s.handEdge v t i) := by
  unfold State.handEdge
  dsimp only
  repeat' split
  all_goals first
    | exact .refl s
    | exact s.edgeUpd_descends i _ _

theorem State.acceptEdge_descends (s : State) (e : EdgeIn) (t : Count32) : s.Descends (s.acceptEdge e t) := by
  have h0 : ∀ x, s.Descends (s.setInput e x) := fun x => .of_slots rfl
  unfold State.acceptEdge
  dsimp only
  repeat' split
  · exact h0 _
  · exact (h0 _).trans (State.foldl_descends _ (fun s i => s.handEdge_descends _ _ i) _ _)
  · exact h0 _

theorem State.edgeMomentAt_descends (s : State) (i : SlotIx) : s.Descends (s.edgeMomentAt i).1 := by
  unfold State.edgeMomentAt
  dsimp only
  split
  · exact .refl s
  · split
    · exact s.edgeUpd_descends i _ _
    · exact .refl s

theorem State.edgeMoments_descends (s : State) (is : List SlotIx) : s.Descends (s.edgeMoments is).1 := by
  exact List.foldlRecOn is _ (motive := fun p : State × List RaisedTrip => s.Descends p.1) (.refl s)
    fun p h i _ => h.trans (p.1.edgeMomentAt_descends i)

theorem State.edgeAdvance_descends (s : State) : s.Descends s.edgeAdvance := by
  refine (s.edgeMoments_descends s.momentSlots).slots_eq ?_
  unfold State.edgeAdvance
  dsimp only
  rw [foldl_keeps State.slots]
  simp

theorem State.advance_descends (s : State) : s.Descends s.advance :=
  State.Descends.trans (t := s.takeCount.scheduleAdvance)
    (State.Descends.trans (t := s.takeCount) (.of_slots (by simp)) (State.scheduleAdvance_descends _))
    (State.edgeAdvance_descends _)

theorem State.endNow_descends (s : State) (c : EndCause) (i : SlotIx) : s.Descends (s.endNow c i) :=
  (s.beginEnd_descends i c).trans (State.finish_descends _ i)

theorem State.endInDrive_descends (s : State) (d : Drive) (c : EndCause) (l : List SlotIx) :
    s.Descends (s.endInDrive d c l) := by
  unfold State.endInDrive
  dsimp only
  split
  · exact .refl s
  · split
    · exact .refl s
    · generalize hs : List.foldl (fun s i => State.endNow s c i) s _ = s'
      have h' : s.Descends s' := hs ▸ State.foldl_descends _ (fun s i => s.endNow_descends c i) _ s
      refine h'.trans ?_
      repeat' split
      · exact (State.endNow_descends _ _ _).trans (State.changeList_descends _ _ _ _)
      · refine State.Descends.trans ?_ (State.changeList_descends _ _ _ _)
        refine State.Descends.trans ?_ (State.updClaim_descends _ _ _ ?_)
        · exact State.beginEnd_descends _ _ _
        · exact fun _ => ⟨rfl, rfl, rfl, rfl, rfl, rfl, rfl, rfl⟩
      · exact State.changeList_descends _ _ _ _

theorem State.endInGate_descends (s : State) (g : Gate) (c : EndCause) (l : List SlotIx) :
    s.Descends (s.endInGate g c l) := by
  unfold State.endInGate
  dsimp only
  split
  · generalize hs : List.foldl (fun s i => State.endNow s c i) s _ = s'
    have h' : s.Descends s' := hs ▸ State.foldl_descends _ (fun s i => s.endNow_descends c i) _ s
    refine h'.trans (State.Descends.trans (.of_slots rfl) (State.evalGate_descends _ g))
  · exact .refl s

theorem State.endOutsideLists_descends (s : State) (c : EndCause) (i : SlotIx) :
    s.Descends (s.endOutsideLists c i) := by
  unfold State.endOutsideLists
  repeat' split
  all_goals first
    | exact .refl s
    | exact s.endNow_descends c i
    | exact (s.endNow_descends c i).slots_eq (by simp)

theorem State.endClaims_descends (s : State) (c : EndCause) (l : List SlotIx) : s.Descends (s.endClaims c l) := by
  unfold State.endClaims
  dsimp only
  refine State.Descends.fold ?_ _ (fun s i => s.endOutsideLists_descends c i) _
  refine State.Descends.fold ?_ _ (fun s d => s.endInDrive_descends d c l) _
  refine State.Descends.fold ?_ _ (fun s g => s.endInGate_descends g c l) _
  exact State.foldl_descends _ (fun s d => s.endInDrive_descends d c l) _ _

theorem State.expire_descends (s : State) (i : SlotIx) : s.Descends (s.expire i) := by
  unfold State.expire
  split
  · exact .refl s
  · split
    · exact s.endClaims_descends _ _
    · split
      · exact State.Descends.trans (t := s.nextTick true) (.of_slots rfl) (State.endClaims_descends _ _ _)
      · exact .refl s

theorem State.complete_descends (s : State) (f : Conversion) (v : Nat) : s.Descends (s.complete f v) := by
  refine State.Descends.slots_eq
    (State.foldl_descends (fun s i => s.deliver f.channel v i) (fun s i => s.deliver_descends f.channel v i) f.due s) ?_
  simp [State.complete]

theorem State.acceptDue_descends (s : State) (e : EdgeIn) : s.Descends (s.acceptDue e) := by
  unfold State.acceptDue
  repeat' split
  · exact .refl s
  · exact s.acceptEdge_descends _ _
  · exact .refl s

theorem State.pinChange_descends (s : State) (e : EdgeIn) (v : Level) (n : Nat) :
    s.Descends (s.pinChange e v n) := by
  have h0 : s.Descends ((s.passToMicro n).acceptDue e) :=
    State.Descends.trans (t := s.passToMicro n) (.of_slots (by simp)) (State.acceptDue_descends _ e)
  unfold State.pinChange
  dsimp only
  repeat' split
  · exact .refl s
  · exact h0.slots_eq rfl
  · exact h0.trans (State.acceptEdge_descends _ _ _)
  · exact h0.slots_eq rfl

theorem State.takeTrip_descends (s : State) (g : Gate) : s.Descends (s.takeTrip g) := by
  unfold State.takeTrip
  split
  · exact .refl s
  · rename_i t ts _
    refine State.Descends.slots_eq (t := State.takeHold { s with trips := s.trips.set g ts } g (s.holdOf t)) ?_
      (by simp)
    exact State.Descends.trans (.of_slots rfl) (State.takeHold_descends _ g _)

theorem State.renewClaim_descends (s : State) (i : SlotIx) : s.Descends (s.renewClaim i) :=
  s.updClaim_descends i _ fun _ => ⟨rfl, rfl, rfl, rfl, rfl, rfl, rfl, rfl⟩

theorem State.takeEntry_descends (s : State) (e : NoticeEntry) : s.Descends (s.takeEntry e) := by
  unfold State.takeEntry
  split
  · exact s.freeSlot_descends _
  · exact .refl s

theorem State.barLink_descends (s : State) (l : Link) : s.Descends (s.barLink l) := by
  unfold State.barLink
  dsimp only
  exact State.Descends.trans (State.Descends.of_slots rfl)
    (State.foldl_descends _ (fun s i => s.freeSlot_descends i) _ _)

/-- A hand-over to a list keeps the claims that were put into the slots. -/
theorem State.handOver_descends (s : State) (r : Resource) (i : SlotIx) : s.Descends (s.handOver r i) := by
  unfold State.handOver
  split
  · exact s.join_descends _ i
  · exact State.Descends.trans (State.Descends.of_slots rfl) (State.evalGate_descends _ _)
  · exact .refl s
  · exact .refl s

theorem State.handAmended_descends (s : State) (c : Claim) (i : SlotIx) : s.Descends (s.handAmended c i) := by
  unfold State.handAmended
  split
  · split
    · exact s.join_descends _ i
    · exact .refl s
  · exact s.evalGate_descends _
  · exact .refl s
  · exact .refl s

end Sys2Proof.Machine
end

