-- ==== Sys2Proof/Laws/Lists.lean ====
section
/-! SUPPORT. The lists and the notice sets agree with the slots: one lemma per operation, over `State.TableOk`. -/

namespace Sys2Proof

/-- A kind that is no final notice (R18). -/
def NoticeKind.plain (k : NoticeKind) : Bool := decide (k ≠ .retired) && decide (k ≠ .lapsed)

theorem NoticeKind.plain_bits (k : NoticeKind) (hk : k.plain = true) :
    k.bit &&& NoticeKind.retired.bit = 0#16 ∧ k.bit &&& NoticeKind.lapsed.bit = 0#16 := by
  cases k <;> first | (exact absurd hk (by decide)) | (exact ⟨by decide, by decide⟩)

theorem NoticeEntry.has_merge (e : NoticeEntry) (k r : NoticeKind) (h : k.bit &&& r.bit = 0#16) :
    ({ e with kinds := e.kinds ||| k.bit } : NoticeEntry).has r = e.has r := by
  unfold NoticeEntry.has
  dsimp only
  rw [BitVec.and_or_distrib_right, h, BitVec.or_zero]

/-- A plain kind merged into an entry makes no final notice. -/
theorem NoticeEntry.final_merge (e : NoticeEntry) (k : NoticeKind) (hk : k.plain = true) :
    ({ e with kinds := e.kinds ||| k.bit } : NoticeEntry).final = e.final := by
  obtain ⟨h1, h2⟩ := k.plain_bits hk
  unfold NoticeEntry.final
  rw [e.has_merge k _ h1, e.has_merge k _ h2]

/-- An entry of one plain kind holds no final notice. -/
theorem NoticeEntry.final_single (i : SlotIx) (k : NoticeKind) (hk : k.plain = true) :
    (⟨i, k.bit⟩ : NoticeEntry).final = false := by
  obtain ⟨h1, h2⟩ := k.plain_bits hk
  simp [NoticeEntry.final, NoticeEntry.has, h1, h2]

end Sys2Proof

namespace Sys2Proof.Machine

/-! ### Merging a notice -/

/-- The slots of a set after a merge. -/
theorem mem_mergeNotice_slot (k : NoticeKind) (i : SlotIx) :
    ∀ (l : List NoticeEntry) (e : NoticeEntry), e ∈ mergeNotice k i l → e.slot = i ∨ e ∈ l
  | [], e, h => by
    simp [mergeNotice] at h
    exact .inl (by rw [h])
  | x :: xs, e, h => by
    unfold mergeNotice at h
    split at h
    · rename_i hx
      rcases List.mem_cons.mp h with h | h
      · exact .inl (by rw [h]; exact hx)
      · exact .inr (List.mem_cons_of_mem _ h)
    · split at h
      · rcases List.mem_cons.mp h with h | h
        · exact .inl (by rw [h])
        · exact .inr h
      · rcases List.mem_cons.mp h with h | h
        · exact .inr (by simp [h])
        · rcases mem_mergeNotice_slot k i xs e h with h | h
          · exact .inl h
          · exact .inr (List.mem_cons_of_mem _ h)

/-- A final entry after a plain merge comes from a final entry of the same slot. -/
theorem final_mergeNotice (k : NoticeKind) (hk : k.plain = true) (i : SlotIx) :
    ∀ (l : List NoticeEntry) (e : NoticeEntry), e ∈ mergeNotice k i l → e.final = true →
      ∃ x ∈ l, x.slot = e.slot ∧ x.final = true
  | [], e, h, hf => by
    simp [mergeNotice] at h
    rw [h, NoticeEntry.final_single i k hk] at hf
    contradiction
  | x :: xs, e, h, hf => by
    unfold mergeNotice at h
    split at h
    · rcases List.mem_cons.mp h with h | h
      · rw [h, NoticeEntry.final_merge x k hk] at hf
        exact ⟨x, by simp, by rw [h], hf⟩
      · exact ⟨e, List.mem_cons_of_mem _ h, rfl, hf⟩
    · split at h
      · rcases List.mem_cons.mp h with h | h
        · rw [h, NoticeEntry.final_single i k hk] at hf
          contradiction
        · exact ⟨e, h, rfl, hf⟩
      · rcases List.mem_cons.mp h with h | h
        · exact ⟨e, by simp [h], rfl, hf⟩
        · obtain ⟨y, hy, he⟩ := final_mergeNotice k hk i xs e h hf
          exact ⟨y, List.mem_cons_of_mem _ hy, he⟩

/-- A merge keeps a set in ascending slot order, one entry per slot (R19). -/
theorem mergeNotice_sorted (k : NoticeKind) (i : SlotIx) :
    ∀ l : List NoticeEntry, l.Pairwise (fun x y => x.slot < y.slot) →
      (mergeNotice k i l).Pairwise fun x y => x.slot < y.slot
  | [], _ => by simp [mergeNotice]
  | x :: xs, h => by
    obtain ⟨h1, h2⟩ := List.pairwise_cons.mp h
    unfold mergeNotice
    split
    · exact List.pairwise_cons.mpr ⟨h1, h2⟩
    · rename_i hne
      split
      · rename_i hlt
        refine List.pairwise_cons.mpr ⟨fun y hy => ?_, h⟩
        rcases List.mem_cons.mp hy with e | e
        · rw [e]; exact hlt
        · exact lt_trans hlt (h1 y e)
      · rename_i hnlt
        refine List.pairwise_cons.mpr ⟨fun y hy => ?_, mergeNotice_sorted k i xs h2⟩
        rcases mem_mergeNotice_slot k i xs y hy with e | e
        · rw [e]; exact lt_of_le_of_ne (not_lt.mp hnlt) hne
        · exact h1 y e

/-- A merge leaves the entries of the other slots. -/
theorem mem_mergeNotice_of_ne (k : NoticeKind) (i : SlotIx) (e : NoticeEntry) (he : e.slot ≠ i) :
    ∀ l : List NoticeEntry, e ∈ mergeNotice k i l ↔ e ∈ l
  | [] => by
    have : e ≠ ⟨i, k.bit⟩ := fun h => he (by rw [h])
    simp [mergeNotice, this]
  | x :: xs => by
    unfold mergeNotice
    split
    · rename_i hx
      have h1 : e ≠ { x with kinds := x.kinds ||| k.bit } := fun h => he (by rw [h]; exact hx)
      have h2 : e ≠ x := fun h => he (by rw [h]; exact hx)
      simp [h1, h2]
    · split
      · have : e ≠ ⟨i, k.bit⟩ := fun h => he (by rw [h])
        simp [this]
      · rw [List.mem_cons, List.mem_cons, mem_mergeNotice_of_ne k i e he xs]

/-! ### Notice entries that stand -/

theorem State.NoticesKept.of_eq {s t : State} (h : t.notices = s.notices) (p : SlotIx → Prop) : s.NoticesKept t p :=
  fun _ _ _ => by rw [h]

theorem State.NoticesKept.refl (s : State) (p : SlotIx → Prop) : s.NoticesKept s p := State.NoticesKept.of_eq rfl p

theorem State.NoticesKept.trans {s t u : State} {p : SlotIx → Prop} (h : s.NoticesKept t p) (h' : t.NoticesKept u p) :
    s.NoticesKept u p :=
  fun l e he => (h' l e he).trans (h l e he)

theorem State.NoticesKept.mono {s t : State} {p q : SlotIx → Prop} (h : s.NoticesKept t p) (hpq : ∀ i, p i → q i) :
    s.NoticesKept t q :=
  fun l e he => h l e fun hp => he (hpq _ hp)

/-- A posting leaves the entries of the other slots, in every link's set (R19). -/
theorem State.post_noticesKept (s : State) (k : NoticeKind) (i : SlotIx) : s.NoticesKept (s.post k i) fun j => j = i := by
  intro l e he
  unfold State.post
  cases s.noticeLink k i with
  | none => rfl
  | some l' =>
    dsimp only
    rw [PerLink.get_set]
    split
    · rename_i hl
      rw [hl]
      exact mem_mergeNotice_of_ne k i e he _
    · rfl

theorem State.foldl_noticesKept {α : Type} (work : State → α → State) (p : SlotIx → Prop) (as : List α)
    (h : ∀ (s : State), ∀ a ∈ as, s.NoticesKept (work s a) p) (s : State) : s.NoticesKept (as.foldl work s) p :=
  List.foldlRecOn (motive := fun t => s.NoticesKept t p) as work (State.NoticesKept.refl s p) fun t ht a ha => State.NoticesKept.trans ht (h t a ha)

theorem State.postAll_noticesKept (s : State) (ks : List NoticeKind) (i : SlotIx) :
    s.NoticesKept (s.postAll ks i) fun j => j = i :=
  State.foldl_noticesKept _ _ ks (fun s k _ => s.post_noticesKept k i) s

theorem State.postEach_noticesKept (s : State) (k : NoticeKind) (is : List SlotIx) :
    s.NoticesKept (s.postEach k is) fun j => j ∈ is :=
  State.foldl_noticesKept _ _ is (fun s i hi => (s.post_noticesKept k i).mono fun _ hj => hj ▸ hi) s

/-- The end of a claim's course leaves the entries of the other slots (R18). -/
theorem State.finish_noticesKept (s : State) (i : SlotIx) : s.NoticesKept (s.finish i) fun j => j = i := by
  unfold State.finish
  split
  · exact State.NoticesKept.refl s _
  · split
    · exact State.NoticesKept.of_eq (by rfl) _
    · exact (s.post_noticesKept _ i).trans (State.NoticesKept.of_eq (by rfl) _)

/-! ### Frames and smaller lists -/

variable {L L' : Drive → List SlotIx} {G G' : Gate → List SlotIx}

/-- Lists that lose entries agree as before. -/
theorem State.TableOk.sublists {s : State} (h : s.TableOk L G) (hL : ∀ d, (L' d).Sublist (L d))
    (hG : ∀ g, (G' g).Sublist (G g)) : s.TableOk L' G' where
  driveEntry d i hi := h.driveEntry d i ((hL d).subset hi)
  driveNodup d := (h.driveNodup d).sublist (hL d)
  gateEntry g i hi := h.gateEntry g i ((hG g).subset hi)
  gateNodup g := (h.gateNodup g).sublist (hG g)
  final := h.final
  sorted := h.sorted
  barredEmpty := h.barredEmpty

/-- A state with the same slots, notice sets and barred marks agrees with the same lists. -/
theorem State.TableOk.congr {s t : State} (h : s.TableOk L G) (hs : t.slots = s.slots)
    (hn : t.notices = s.notices) (hb : ∀ l, t.barred l = true → s.barred l = true) : t.TableOk L G where
  driveEntry d i hi := by rw [State.claim_congr hs]; exact h.driveEntry d i hi
  driveNodup := h.driveNodup
  gateEntry g i hi := by rw [State.claim_congr hs]; exact h.gateEntry g i hi
  gateNodup := h.gateNodup
  final l e he hf := by
    rw [State.claim_congr hs]
    rw [hn] at he
    exact h.final l e he hf
  sorted l := by rw [hn]; exact h.sorted l
  barredEmpty l hl := by rw [hn]; exact h.barredEmpty l (hb l hl)

theorem State.barred_congr {s t : State} (hp : t.ports = s.ports) (l : Link) : t.barred l = s.barred l := by
  unfold State.barred
  rw [hp]

/-- A claim in no list of the lists given. -/
def unlisted (L : Drive → List SlotIx) (G : Gate → List SlotIx) (i : SlotIx) : Prop :=
  (∀ d, i ∉ L d) ∧ ∀ g, i ∉ G g

/-- A FREE slot stands in no list. -/
theorem State.TableOk.unlisted_of_free {s : State} (h : s.TableOk L G) {i : SlotIx} (hi : s.claim i = none) :
    unlisted L G i := by
  refine ⟨fun d hd => ?_, fun g hg => ?_⟩
  · obtain ⟨c, hc, -⟩ := h.driveEntry d i hd
    simp [hi] at hc
  · obtain ⟨c, hc, -⟩ := h.gateEntry g i hg
    simp [hi] at hc

/-- A claim in no state of a list entry stands in no list. -/
theorem State.TableOk.unlisted_of_state {s : State} (h : s.TableOk L G) {i : SlotIx} {c : Claim}
    (hc : s.claim i = some c) (h1 : c.state.listed = false) (h2 : c.state ≠ .active) : unlisted L G i := by
  refine ⟨fun d hd => ?_, fun g hg => ?_⟩
  · obtain ⟨d, hd, -, hl⟩ := h.driveEntry d i hd
    rw [hc] at hd
    rw [← Option.some.inj hd, h1] at hl
    contradiction
  · obtain ⟨d, hd, -, hl⟩ := h.gateEntry g i hg
    rw [hc] at hd
    rw [← Option.some.inj hd] at hl
    exact h2 hl

/-! ### Changing one claim, posting, ending -/

/-- A claim changed, with its owner and resource kept: it may leave the states of a list entry or ACTIVE only when
it is in no such list, and it may not leave SPENT. -/
theorem State.TableOk.upd {s : State} (h : s.TableOk L G) (i : SlotIx) (f : Claim → Claim)
    (hf : ∀ c, s.claim i = some c → (f c).owner = c.owner ∧ (f c).resource = c.resource ∧
      (c.state.listed = true → (f c).state.listed = true ∨ ∀ d, i ∉ L d) ∧
      (c.state = .active → (f c).state = .active ∨ ∀ g, i ∉ G g) ∧
      (c.state = .spent → (f c).state = .spent)) : (s.updClaim i f).TableOk L G where
  driveEntry d j hj := by
    obtain ⟨c, hc, hr, hl⟩ := h.driveEntry d j hj
    rw [State.updClaim_claim]
    split
    · rename_i e
      subst e
      obtain ⟨-, h2, h3, -, -⟩ := hf c hc
      refine ⟨f c, by rw [hc]; rfl, h2.trans hr, ?_⟩
      rcases h3 hl with h3 | h3
      · exact h3
      · exact absurd hj (h3 d)
    · exact ⟨c, hc, hr, hl⟩
  driveNodup := h.driveNodup
  gateEntry g j hj := by
    obtain ⟨c, hc, hr, hl⟩ := h.gateEntry g j hj
    rw [State.updClaim_claim]
    split
    · rename_i e
      subst e
      obtain ⟨-, h2, -, h4, -⟩ := hf c hc
      refine ⟨f c, by rw [hc]; rfl, h2.trans hr, ?_⟩
      rcases h4 hl with h4 | h4
      · exact h4
      · exact absurd hj (h4 g)
    · exact ⟨c, hc, hr, hl⟩
  gateNodup := h.gateNodup
  final l e he hfin := by
    obtain ⟨c, hc, ho, hs⟩ := h.final l e he hfin
    rw [State.updClaim_claim]
    split
    · rename_i e'
      rw [e'] at hc
      obtain ⟨h1, -, -, -, h5⟩ := hf c hc
      exact ⟨f c, by rw [hc]; rfl, h1.trans ho, h5 hs⟩
    · exact ⟨c, hc, ho, hs⟩
  sorted := h.sorted
  barredEmpty := h.barredEmpty

/-- A claim changed in none of owner, resource and state. -/
theorem State.TableOk.upd_same {s : State} (h : s.TableOk L G) (i : SlotIx) (f : Claim → Claim)
    (hf : ∀ c, (f c).owner = c.owner ∧ (f c).resource = c.resource ∧ (f c).state = c.state) :
    (s.updClaim i f).TableOk L G :=
  h.upd i f fun c _ => by
    rw [(hf c).2.2]
    exact ⟨(hf c).1, (hf c).2.1, .inl, .inl, id⟩

/-- A plain notice posted. -/
theorem State.TableOk.post {s : State} (h : s.TableOk L G) (k : NoticeKind) (hk : k.plain = true) (i : SlotIx) :
    (s.post k i).TableOk L G := by
  have hn : (s.post k i).notices = match s.noticeLink k i with
      | none => s.notices
      | some l => s.notices.set l (mergeNotice k i (s.notices.get l)) := rfl
  cases hl : s.noticeLink k i with
  | none =>
    rw [hl] at hn
    exact h.congr rfl hn fun _ hb => hb
  | some m =>
    rw [hl] at hn
    have hb : s.barred m = false := by
      unfold State.noticeLink at hl
      split at hl
      · contradiction
      · split at hl
        · contradiction
        · rename_i c _ hcond
          have : c.owner = m := Option.some.inj hl
          rw [not_or] at hcond
          rw [← this]
          simpa using hcond.1
    refine ⟨h.driveEntry, h.driveNodup, h.gateEntry, h.gateNodup, fun l e he hf => ?_, fun l => ?_, fun l hl' => ?_⟩
    · rw [hn, PerLink.get_set] at he
      split at he
      · rename_i e'
        subst e'
        obtain ⟨x, hx, hs, hxf⟩ := final_mergeNotice k hk i _ e he hf
        rw [← hs]
        exact h.final l x hx hxf
      · exact h.final l e he hf
    · rw [hn, PerLink.get_set]
      split
      · rename_i e'
        subst e'
        exact mergeNotice_sorted k i _ (h.sorted l)
      · exact h.sorted l
    · rw [hn, PerLink.get_set]
      split
      · rename_i e'
        subst e'
        have : s.barred l = true := hl'
        simp [hb] at this
      · exact h.barredEmpty l hl'

theorem State.TableOk.postEach {s : State} (h : s.TableOk L G) (k : NoticeKind) (hk : k.plain = true) :
    ∀ is : List SlotIx, (s.postEach k is).TableOk L G := by
  intro is
  unfold State.postEach
  induction is generalizing s with
  | nil => exact h
  | cons i is ih => exact ih (h.post k hk i)

theorem State.TableOk.postAll {s : State} (h : s.TableOk L G) (i : SlotIx) :
    ∀ ks : List NoticeKind, (∀ k ∈ ks, k.plain = true) → (s.postAll ks i).TableOk L G := by
  intro ks hks
  unfold State.postAll
  induction ks generalizing s with
  | nil => exact h
  | cons k ks ih => exact ih (h.post k (hks k (by simp)) i) fun k' hk' => hks k' (by simp [hk'])

/-- A slot freed that stands in no list and for which no final notice waits. -/
theorem State.TableOk.free {s : State} (h : s.TableOk L G) (i : SlotIx) (hu : unlisted L G i)
    (hn : ∀ l e, e ∈ s.notices.get l → e.final = true → e.slot ≠ i) : (s.freeSlot i).TableOk L G where
  driveEntry d j hj := by
    rw [State.freeSlot_claim, if_neg (show ¬ j = i from fun e => hu.1 d (e ▸ hj))]
    exact h.driveEntry d j hj
  driveNodup := h.driveNodup
  gateEntry g j hj := by
    rw [State.freeSlot_claim, if_neg (show ¬ j = i from fun e => hu.2 g (e ▸ hj))]
    exact h.gateEntry g j hj
  gateNodup := h.gateNodup
  final l e he hf := by
    rw [State.freeSlot_claim, if_neg (hn l e he hf)]
    exact h.final l e he hf
  sorted := h.sorted
  barredEmpty := h.barredEmpty

/-- The final notice of a claim that stands in no list, and the claim SPENT (R18). -/
theorem State.TableOk.finish {s : State} (h : s.TableOk L G) (i : SlotIx) (hu : unlisted L G i) :
    (s.finish i).TableOk L G := by
  unfold State.finish
  cases hc : s.claim i with
  | none => exact h
  | some c =>
    dsimp only
    split
    · rename_i hb
      refine h.free i hu fun l e he hf hei => ?_
      obtain ⟨d, hd, ho, -⟩ := h.final l e he hf
      rw [hei, hc] at hd
      rw [← Option.some.inj hd] at ho
      rw [← ho, h.barredEmpty _ hb] at he
      contradiction
    · rename_i hb
      by_cases hsp : c.state = .spent
      · have hl : s.noticeLink (finalKind c.endCause) i = none := by
          simp [State.noticeLink, hc, hsp]
        have hp : s.post (finalKind c.endCause) i = s := by
          unfold State.post
          rw [hl]
        rw [hp]
        refine h.upd i _ fun d hd => ⟨rfl, rfl, fun _ => .inr hu.1, fun _ => .inr hu.2, fun _ => rfl⟩
      · have hk : finalKind c.endCause ≠ .sample := by
          unfold finalKind
          split <;> simp
        have hl : s.noticeLink (finalKind c.endCause) i = some c.owner := by
          simp [State.noticeLink, hc, hsp, hb, hk]
        generalize finalKind c.endCause = k at hl
        have hn : ((s.post k i).updClaim i fun c => { c with state := .spent, deadline := none }).notices =
            s.notices.set c.owner (mergeNotice k i (s.notices.get c.owner)) := by
          simp only [State.updClaim_notices, State.post, hl]
        have hcl : ∀ j, ((s.post k i).updClaim i fun c => { c with state := .spent, deadline := none }).claim j =
            if j = i then some { c with state := .spent, deadline := none } else s.claim j := by
          intro j
          rw [State.updClaim_claim, State.post_claim, State.post_claim, hc]
          rfl
        refine ⟨fun d j hj => ?_, h.driveNodup, fun g j hj => ?_, h.gateNodup, fun l e he hf => ?_, fun l => ?_,
          fun l hl' => ?_⟩
        · rw [hcl, if_neg (show ¬ j = i from fun e => hu.1 d (e ▸ hj))]
          exact h.driveEntry d j hj
        · rw [hcl, if_neg (show ¬ j = i from fun e => hu.2 g (e ▸ hj))]
          exact h.gateEntry g j hj
        · have key : ∀ x ∈ s.notices.get l, x.final = true → x.slot ≠ i := by
            intro x hx hxf hxi
            obtain ⟨d, hd, -, hs⟩ := h.final l x hx hxf
            rw [hxi, hc] at hd
            exact hsp ((Option.some.inj hd) ▸ hs)
          rw [hn, PerLink.get_set] at he
          rw [hcl]
          by_cases hei : e.slot = i
          · rw [if_pos hei]
            split at he
            · rename_i e'
              exact ⟨_, rfl, e'.symm, rfl⟩
            · exact absurd hei (key e he hf)
          · rw [if_neg hei]
            split at he
            · rename_i e'
              subst e'
              rcases mem_mergeNotice_slot k i _ e he with h' | h'
              · exact absurd h' hei
              · exact h.final _ e h' hf
            · exact h.final l e he hf
        · rw [hn, PerLink.get_set]
          split
          · rename_i e'
            subst e'
            exact mergeNotice_sorted k i _ (h.sorted _)
          · exact h.sorted l
        · rw [hn, PerLink.get_set]
          split
          · rename_i e'
            subst e'
            have hl2 : s.barred c.owner = true := hl'
            simp [hl2] at hb
          · exact h.barredEmpty l hl'

theorem State.TableOk.beginEnd {s : State} (h : s.TableOk L G) (i : SlotIx) (c : EndCause) :
    (s.beginEnd i c).TableOk L G :=
  h.upd_same i _ fun _ => ⟨rfl, rfl, rfl⟩

theorem State.TableOk.endNow {s : State} (h : s.TableOk L G) (c : EndCause) (i : SlotIx) (hu : unlisted L G i) :
    (s.endNow c i).TableOk L G :=
  (h.beginEnd i c).finish i hu

/-- A claim that stands in no list goes to COMPLETE (R32). -/
theorem State.TableOk.completeClaim {s : State} (h : s.TableOk L G) (i : SlotIx) (hu : unlisted L G i)
    (hs : ∀ c, s.claim i = some c → c.state ≠ .spent) : (s.completeClaim i).TableOk L G :=
  (h.post .complete rfl i).upd i _ fun c hc =>
    ⟨rfl, rfl, fun _ => .inr hu.1, fun _ => .inr hu.2, fun e => absurd e (hs c hc)⟩

/-! ### Changing a drive channel's list -/

/-- The drive lists of a state with one of them put aside. -/
def State.without (s : State) (d : Drive) : Drive → List SlotIx := fun e => if e = d then [] else s.driveList e

theorem State.driveList_congr {s t : State} (h : t.driveLists = s.driveLists) (d : Drive) :
    t.driveList d = s.driveList d := by
  unfold State.driveList
  rw [h]

theorem State.gateList_congr {s t : State} (h : t.gateLists = s.gateLists) (g : Gate) :
    t.gateList g = s.gateList g := by
  unfold State.gateList
  rw [h]

theorem State.without_congr {s t : State} (h : t.driveLists = s.driveLists) (d : Drive) :
    t.without d = s.without d := by
  funext e
  simp [State.without, State.driveList_congr h]

theorem State.gateList_eq {s t : State} (h : t.gateLists = s.gateLists) : t.gateList = s.gateList :=
  funext (State.gateList_congr h)

theorem State.driveList_eq {s t : State} (h : t.driveLists = s.driveLists) : t.driveList = s.driveList :=
  funext (State.driveList_congr h)

/-- With one drive list put aside the rest agrees. -/
theorem TableInv.without {s : State} (h : TableInv s) (d : Drive) : s.TableOk (s.without d) s.gateList :=
  h.sublists (fun e => by
    unfold State.without
    split
    · exact List.nil_sublist _
    · exact List.Sublist.refl _) fun _ => List.Sublist.refl _

/-- A claim on a drive channel stands in no other list. -/
theorem TableInv.unlisted_without {s : State} (h : TableInv s) {d : Drive} {i : SlotIx} {c : Claim}
    (hc : s.claim i = some c) (hr : c.resource = .drive d) : unlisted (s.without d) s.gateList i := by
  refine ⟨fun e he => ?_, fun g hg => ?_⟩
  · unfold State.without at he
    split at he
    · contradiction
    · rename_i hne
      obtain ⟨x, hx, hxr, -⟩ := h.driveEntry e i he
      rw [hc] at hx
      rw [← Option.some.inj hx, hr] at hxr
      exact hne (Resource.drive.inj hxr).symm
  · obtain ⟨x, hx, hxr, -⟩ := h.gateEntry g i hg
    rw [hc] at hx
    rw [← Option.some.inj hx, hr] at hxr
    contradiction

/-- A drive list's entry stands in no other list. -/
theorem TableInv.entry_unlisted {s : State} (h : TableInv s) {d : Drive} {i : SlotIx} (hi : i ∈ s.driveList d) :
    unlisted (s.without d) s.gateList i := by
  obtain ⟨c, hc, hr, -⟩ := h.driveEntry d i hi
  exact h.unlisted_without hc hr

theorem State.foldl_standby_claim (l : List SlotIx) (s : State) (j : SlotIx) :
    (l.foldl (fun s i => s.updClaim i fun c => { c with state := .standby }) s).claim j =
      if j ∈ l then (s.claim j).map fun c => { c with state := .standby } else s.claim j := by
  induction l generalizing s with
  | nil => simp
  | cons a l ih =>
    rw [List.foldl_cons, ih, State.updClaim_claim]
    by_cases h1 : j = a
    · subst h1
      by_cases h2 : j ∈ l
      · simp only [h2, if_true, List.mem_cons, or_true]
        cases s.claim j <;> rfl
      · simp [h2]
    · by_cases h2 : j ∈ l <;> simp [h1, h2]

/-- The claims after a settling: entries behind the head STANDBY, the head by its gate unless RETIRING (R26). -/
theorem State.settle_claim (s : State) (d : Drive) (h : SlotIx) (t : List SlotIx)
    (hl : s.driveList d = h :: t) (hn : h ∉ t) (j : SlotIx) :
    (s.settle d).claim j =
      if j = h then (s.claim h).map fun c =>
        if c.state = .retiring then c
        else { c with state := if s.gateIsOpen d.parent then .inForce else .suspended }
      else if j ∈ t then (s.claim j).map fun c => { c with state := .standby } else s.claim j := by
  unfold State.settle
  rw [hl]
  dsimp only
  rw [State.updClaim_claim, State.foldl_standby_claim, State.foldl_standby_claim, if_neg hn]

/-- A list changed as one change agrees with the slots, if its entries are claims on the channel that have not
ended (R26, R28). -/
theorem State.TableOk.changeList {s : State} (d : Drive) (old : Option SlotIx) (l : List SlotIx)
    (h : s.TableOk (s.without d) s.gateList)
    (hl : ∀ j ∈ l, ∃ c, s.claim j = some c ∧ c.resource = .drive d ∧ c.state ≠ .spent) (hn : l.Nodup) :
    TableInv (s.changeList d old l) := by
  have hset : TableInv (State.settle { s with driveLists := s.driveLists.set d l } d) := by
    generalize hs0 : ({ s with driveLists := s.driveLists.set d l } : State) = s0
    have h0 : s0.TableOk (s.without d) s.gateList := by
      subst hs0
      exact h.congr rfl rfl fun _ hb => hb
    have hd0 : ∀ e, s0.driveList e = if e = d then l else s.driveList e := by
      intro e
      subst hs0
      exact PerDrive.get_set _ _ _ _
    have hg0 : s0.gateList = s.gateList := by subst hs0; rfl
    have hc0 : ∀ j, s0.claim j = s.claim j := by intro j; subst hs0; rfl
    -- entries of the list stand in no other list
    have hun : ∀ j ∈ l, ∀ g, j ∉ s.gateList g := by
      intro j hj g hg
      obtain ⟨c, hc, hr, -⟩ := hl j hj
      obtain ⟨x, hx, hxr, -⟩ := h.gateEntry g j hg
      rw [hc] at hx
      rw [← Option.some.inj hx, hr] at hxr
      contradiction
    cases hll : l with
    | nil =>
      have hsame : s0.settle d = s0 := by
        unfold State.settle
        rw [hd0, if_pos rfl, hll]
      rw [hsame]
      have hL : s0.driveList = s.without d := by
        funext e
        rw [hd0]
        unfold State.without
        split <;> simp_all
      unfold TableInv
      rw [hL, hg0]
      exact h0
    | cons a t =>
      have hat : a ∉ t := by rw [hll] at hn; exact (List.nodup_cons.mp hn).1
      have hda : s0.driveList d = a :: t := by rw [hd0, if_pos rfl, hll]
      have hcl := s0.settle_claim d a t hda hat
      have hlists : (s0.settle d).driveList = s0.driveList := State.driveList_eq (by simp)
      have hglists : (s0.settle d).gateList = s.gateList := (State.gateList_eq (by simp)).trans hg0
      have hold : ∀ j, j ∉ l → (s0.settle d).claim j = s.claim j := by
        intro j hj
        rw [hll] at hj
        rw [hcl, if_neg (fun e => hj (by simp [e])), if_neg (fun e => hj (by simp [e])), hc0]
      have hnew : ∀ j ∈ l, ∃ c, (s0.settle d).claim j = some c ∧ c.resource = .drive d ∧ c.state.listed = true ∧
          ∃ c0, s.claim j = some c0 ∧ c.owner = c0.owner ∧ c0.state ≠ .spent := by
        intro j hj
        obtain ⟨c, hc, hr, hs⟩ := hl j hj
        rw [hcl]
        by_cases hja : j = a
        · subst hja
          rw [if_pos rfl, hc0, hc]
          by_cases e : c.state = .retiring
          · exact ⟨_, congrArg some (if_pos e), hr, by rw [e]; rfl, c, rfl, rfl, hs⟩
          · exact ⟨_, congrArg some (if_neg e), hr, by dsimp only; split <;> rfl, c, rfl, rfl, hs⟩
        · rw [if_neg hja]
          have hjt : j ∈ t := by
            rw [hll] at hj
            exact (List.mem_cons.mp hj).resolve_left hja
          rw [if_pos hjt, hc0, hc]
          exact ⟨_, rfl, hr, rfl, c, rfl, rfl, hs⟩
      unfold TableInv
      rw [hlists, hglists]
      refine ⟨fun e j hj => ?_, fun e => ?_, fun g j hj => ?_, h.gateNodup, fun m e he hf => ?_, fun m => ?_,
        fun m hm => ?_⟩
      · rw [hd0] at hj
        split at hj
        · rename_i e'
          subst e'
          obtain ⟨c, hc, hr, hst, -⟩ := hnew j hj
          exact ⟨c, hc, hr, hst⟩
        · rename_i hne
          have hj' : j ∈ s.without d e := by simpa [State.without, hne] using hj
          obtain ⟨c, hc, hr, hst⟩ := h.driveEntry e j hj'
          rw [hold j fun hjl => ?_]
          · exact ⟨c, hc, hr, hst⟩
          · obtain ⟨x, hx, hxr, -⟩ := hl j hjl
            rw [hc] at hx
            rw [← Option.some.inj hx, hr] at hxr
            exact hne (Resource.drive.inj hxr)
      · rw [hd0]
        split
        · exact hn
        · rename_i hne
          have := h.driveNodup e
          simpa [State.without, hne] using this
      · rw [hold j fun hjl => hun j hjl g hj]
        exact h.gateEntry g j hj
      · have he' : e ∈ s.notices.get m := by
          rw [State.settle_notices] at he
          subst hs0
          exact he
        obtain ⟨c, hc, ho, hst⟩ := h.final m e he' hf
        rw [hold e.slot fun hjl => ?_]
        · exact ⟨c, hc, ho, hst⟩
        · obtain ⟨x, hx, -, hxs⟩ := hl e.slot hjl
          rw [hc] at hx
          exact hxs ((Option.some.inj hx) ▸ hst)
      · rw [State.settle_notices]
        subst hs0
        exact h.sorted m
      · rw [State.settle_notices]
        have : s.barred m = true := by
          rw [← hm]
          exact (State.barred_congr (by subst hs0; simp) m).symm
        subst hs0
        exact h.barredEmpty m this
  have hpost : ∀ (t : State) (k : NoticeKind) (i : SlotIx), k.plain = true → TableInv t → TableInv (t.post k i) :=
    fun t k i hk ht => State.TableOk.post ht k hk i
  unfold State.changeList State.announce
  repeat' split
  all_goals first
    | exact hset
    | exact hpost _ _ _ rfl hset
    | exact hpost _ _ _ rfl (hpost _ _ _ rfl hset)

end Sys2Proof.Machine
end

