-- ==== Sys2Proof/Laws/PerInstr.lean ====
section
/-! SUPPORT. What holds of every command as syntax, one lemma a constructor: a well-formed request's body fits the
frame that carries it. -/

namespace Sys2Proof.Laws.BodyFits

/-- The body of the frame that a request's window brings; nothing for an event, and for a refused frame. -/
def body? : Instr → Option (List Byte)
  | .poll _ body => some body
  | .status _ body => some body
  | .trips _ body => some body
  | .list _ body => some body
  | .read _ body => some body
  | .lookup _ body => some body
  | .takeNotices _ body => some body
  | .openClaim _ body => some body
  | .amend _ body => some body
  | .renew _ body => some body
  | .retire _ body => some body
  | .dropAll _ body => some body
  | .clearTrip _ body => some body
  | .testTrip _ body => some body
  | .pin _ body => some body
  | .evict _ body => some body
  | .admitLink _ body => some body
  | .setReach _ body => some body
  | .setAnalog _ body => some body
  | .setEdge _ body => some body
  | .setDrive _ body => some body
  | .lockSetup _ body => some body
  | .renewAll _ => some []
  | .powerOnReset => none
  | .resetRelease _ _ _ => none
  | .windowBegin _ => none
  | .frameRefused _ _ => none
  | .cadenceAdvance => none
  | .holdExpiry _ => none
  | .periodEnd _ => none
  | .conversionComplete _ => none
  | .edgePinChange _ _ _ => none
  | .acceptedEdge _ => none
  | .tripTaken _ => none
  | .csRiseAfterReset _ => none

/-- A well-formed request's body is at most 28 bytes long, and a RENEW's is not empty (R154, R165). -/
def Statement (i : Instr) : Prop :=
  i.wellFormed = true → (∀ body, body? i = some body → body.length ≤ 28) ∧ ∀ l body, i = .renew l body → body ≠ []

/-- An event carries no body. -/
theorem of_event (i : Instr) (h : body? i = none) (hr : ∀ l body, i ≠ .renew l body) : Statement i :=
  fun _ => ⟨fun _ hb => by simp [h] at hb, fun l body he => absurd he (hr l body)⟩

/-- A request whose check is that its body fits. -/
theorem of_request (i : Instr) (b : List Byte) (h : body? i = some b) (hw : i.wellFormed = bodyFits b)
    (hr : ∀ l body, i ≠ .renew l body) : Statement i := by
  intro w
  rw [hw] at w
  refine ⟨fun body hb => ?_, fun l body he => absurd he (hr l body)⟩
  obtain rfl : b = body := Option.some.inj (h.symm.trans hb)
  simpa [bodyFits] using w

theorem powerOnReset : Statement .powerOnReset :=
  of_event _ rfl (by simp)

theorem resetRelease (auth : Level) (pins : Vector Level 8) (csLow : PerLink Bool) : Statement (.resetRelease auth pins csLow) :=
  of_event _ rfl (by simp)

theorem windowBegin (l : Link) : Statement (.windowBegin l) :=
  of_event _ rfl (by simp)

theorem frameRefused (l : Link) (bits : List Bool) : Statement (.frameRefused l bits) :=
  of_event _ rfl (by simp)

theorem poll (l : Link) (body : List Byte) : Statement (.poll l body) :=
  of_request _ body rfl rfl (by simp)

theorem status (l : Link) (body : List Byte) : Statement (.status l body) :=
  of_request _ body rfl rfl (by simp)

theorem trips (l : Link) (body : List Byte) : Statement (.trips l body) :=
  of_request _ body rfl rfl (by simp)

theorem list (l : Link) (body : List Byte) : Statement (.list l body) :=
  of_request _ body rfl rfl (by simp)

theorem read (l : Link) (body : List Byte) : Statement (.read l body) :=
  of_request _ body rfl rfl (by simp)

theorem lookup (l : Link) (body : List Byte) : Statement (.lookup l body) :=
  of_request _ body rfl rfl (by simp)

theorem takeNotices (l : Link) (body : List Byte) : Statement (.takeNotices l body) :=
  of_request _ body rfl rfl (by simp)

theorem openClaim (l : Link) (body : List Byte) : Statement (.openClaim l body) :=
  of_request _ body rfl rfl (by simp)

theorem amend (l : Link) (body : List Byte) : Statement (.amend l body) :=
  of_request _ body rfl rfl (by simp)

theorem renew (l : Link) (body : List Byte) : Statement (.renew l body) := by
  intro w
  simp only [Instr.wellFormed, bodyFits, Bool.and_eq_true, decide_eq_true_eq] at w
  refine ⟨fun b hb => ?_, fun l' b he => ?_⟩
  · obtain rfl : body = b := Option.some.inj hb
    exact w.1
  · obtain ⟨rfl, rfl⟩ := Instr.renew.inj he
    rintro rfl
    simp at w

theorem renewAll (l : Link) : Statement (.renewAll l) :=
  fun _ => ⟨fun b hb => by obtain rfl : [] = b := Option.some.inj hb; simp, fun _ _ he => by simp at he⟩

theorem retire (l : Link) (body : List Byte) : Statement (.retire l body) :=
  of_request _ body rfl rfl (by simp)

theorem dropAll (l : Link) (body : List Byte) : Statement (.dropAll l body) :=
  of_request _ body rfl rfl (by simp)

theorem clearTrip (l : Link) (body : List Byte) : Statement (.clearTrip l body) :=
  of_request _ body rfl rfl (by simp)

theorem testTrip (l : Link) (body : List Byte) : Statement (.testTrip l body) :=
  of_request _ body rfl rfl (by simp)

theorem pin (l : Link) (body : List Byte) : Statement (.pin l body) :=
  of_request _ body rfl rfl (by simp)

theorem evict (l : Link) (body : List Byte) : Statement (.evict l body) :=
  of_request _ body rfl rfl (by simp)

theorem admitLink (l : Link) (body : List Byte) : Statement (.admitLink l body) :=
  of_request _ body rfl rfl (by simp)

theorem setReach (l : Link) (body : List Byte) : Statement (.setReach l body) :=
  of_request _ body rfl rfl (by simp)

theorem setAnalog (l : Link) (body : List Byte) : Statement (.setAnalog l body) :=
  of_request _ body rfl rfl (by simp)

theorem setEdge (l : Link) (body : List Byte) : Statement (.setEdge l body) :=
  of_request _ body rfl rfl (by simp)

theorem setDrive (l : Link) (body : List Byte) : Statement (.setDrive l body) :=
  of_request _ body rfl rfl (by simp)

theorem lockSetup (l : Link) (body : List Byte) : Statement (.lockSetup l body) :=
  of_request _ body rfl rfl (by simp)

theorem cadenceAdvance : Statement .cadenceAdvance :=
  of_event _ rfl (by simp)

theorem holdExpiry (i : SlotIx) : Statement (.holdExpiry i) :=
  of_event _ rfl (by simp)

theorem periodEnd (g : Gate) : Statement (.periodEnd g) :=
  of_event _ rfl (by simp)

theorem conversionComplete (value : BitVec 12) : Statement (.conversionComplete value) :=
  of_event _ rfl (by simp)

theorem edgePinChange (e : EdgeIn) (lvl : Level) (micros : Nat) : Statement (.edgePinChange e lvl micros) :=
  of_event _ rfl (by simp)

theorem acceptedEdge (e : EdgeIn) : Statement (.acceptedEdge e) :=
  of_event _ rfl (by simp)

theorem tripTaken (g : Gate) : Statement (.tripTaken g) :=
  of_event _ rfl (by simp)

theorem csRiseAfterReset (l : Link) : Statement (.csRiseAfterReset l) :=
  of_event _ rfl (by simp)

end Sys2Proof.Laws.BodyFits
end

