-- ==== Sys2Proof/Laws/Requests.lean ====
section
/-! SUPPORT. Taking a request: what a link that can bring one makes of it, and the checks of R158 and R9 as equations. -/

namespace Sys2Proof.Machine

/-- A request that a link can bring is carried out, and its response is held (R155). -/
theorem State.takeRequest_of_canTake {s : State} {l : Link} (h : s.canTake l) (code : Byte) {body : List Byte}
    (hb : body.length ≤ 28) (k : State → Answer) :
    s.takeRequest l code body k = (k s).state.holdResponse l ⟨code, (k s).result, (k s).body⟩ := by
  unfold State.takeRequest
  rw [if_neg, if_neg (by omega)]
  rintro (h1 | h1)
  · exact absurd h1 (by simp [h.1])
  · exact h.2 h1

/-- The rise of CS that FRAME_REFUSED stands for, at a link that can end a window (R154). -/
theorem frameRefused_of_canTake {s : State} {l : Link} (h : s.canTake l) (bits : List Bool) :
    execFrameRefused l bits s = riseOfCs l (s.received l ++ bits) s := by
  unfold execFrameRefused
  rw [if_neg]
  rintro (h1 | h1)
  · exact absurd h1 (by simp [h.1])
  · exact h.2 h1

/-- Bits that fail a check leave the failed step's result held (R154). -/
theorem riseOfCs_error {bits : List Bool} {r : Result} (h : frameError bits = some r) (l : Link) (s : State) :
    riseOfCs l bits s = .next (s.holdResponse l ⟨(bytesOfBits bits).getD 0 0#8, r, .empty⟩) := by
  simp [riseOfCs, h]

/-- Bits that pass every check are the request of their code and body (R155). -/
theorem riseOfCs_request {bits : List Bool} (h : frameError bits = none) (l : Link) (s : State) :
    riseOfCs l bits s = takeByCode l ((bytesOfBits bits).getD 0 0#8)
      (((bytesOfBits bits).drop 2).take ((bytesOfBits bits).getD 1 0#8).toNat) s := by
  simp [riseOfCs, h]

/-- No request is taken while reset is held (R171). -/
theorem State.takeRequest_of_held {s : State} (h : s.resetHeld = true) (l : Link) (code : Byte) (body : List Byte)
    (k : State → Answer) : s.takeRequest l code body k = s := by
  unfold State.takeRequest
  rw [if_pos (Or.inl h)]

/-- No request is taken before the link's CS has risen (R152). -/
theorem State.takeRequest_of_awaitRise {s : State} {l : Link} (h : (s.ports.get l).window = .awaitRise) (code : Byte)
    (body : List Byte) (k : State → Answer) : s.takeRequest l code body k = s := by
  unfold State.takeRequest
  rw [if_pos (Or.inr h)]

theorem PartState.ne_config {p : PartState} (h : p = .run) : p ≠ .config := by subst h; decide

theorem State.inRun_of_run {s : State} (h : s.setup.part = .run) (k : Answer) : s.inRun k = k := by
  unfold State.inRun
  rw [if_neg (by simp [h])]

theorem State.inRun_of_config {s : State} (h : s.setup.part = .config) (k : Answer) :
    s.inRun k = s.refuse .notReady := by
  unfold State.inRun
  rw [if_pos h]

theorem State.byAuthority_of_other {s : State} {l : Link} (h : l ≠ s.setup.authority) (k : Answer) :
    s.byAuthority l k = s.refuse .notAuthority := by
  unfold State.byAuthority
  rw [if_pos h]

theorem State.byAuthority_of_authority {s : State} {l : Link} (h : l = s.setup.authority) (k : Answer) :
    s.byAuthority l k = s.inRun k := by
  unfold State.byAuthority
  rw [if_neg (not_not.mpr h)]

theorem State.bySetup_of_other {s : State} {l : Link} (h : l ≠ s.setup.authority) (k : Answer) :
    s.bySetup l k = s.refuse .notAuthority := by
  unfold State.bySetup
  rw [if_pos h]

theorem State.bySetup_of_run {s : State} {l : Link} (h : l = s.setup.authority) (hr : s.setup.part = .run)
    (k : Answer) : s.bySetup l k = s.refuse .locked := by
  unfold State.bySetup
  rw [if_neg (not_not.mpr h), if_pos hr]

theorem State.bySetup_of_config {s : State} {l : Link} (h : l = s.setup.authority) (hr : s.setup.part = .config)
    (k : Answer) : s.bySetup l k = k := by
  unfold State.bySetup
  rw [if_neg (not_not.mpr h), if_neg (by simp [hr])]

/-- A claim that is the link's, unpinned and not ended passes steps 2 to 4 of R9. -/
theorem State.ownedOngoing_of_passes {s : State} {l : Link} {body : List Byte} {i : SlotIx} {c : Claim}
    (h : s.OwnerPasses l body i c) (k : Claim → Answer) : s.ownedOngoing l i k = k c := by
  unfold State.ownedOngoing
  simp only [h.claim, h.owner, h.unpinned, h.ongoing.1, h.ongoing.2, ne_eq, not_true, if_false, false_or,
    Bool.false_eq_true]

/-- The number of slots whose claim has a property, as a count over the slots. -/
theorem State.slotsWhere_length (s : State) (p : Claim → Bool) :
    (s.slotsWhere p).length = (List.finRange 48).countP fun i => (s.claim i).any p := by
  rw [State.slotsWhere, allSlots, List.countP_eq_length_filter]
  rfl

/-- The number of FREE slots, as a count over the slots. -/
theorem State.freeSlots_length (s : State) :
    s.freeSlots.length = (List.finRange 48).countP fun i => (s.claim i).isNone := by
  rw [State.freeSlots, allSlots, List.countP_eq_length_filter]

/-- A claim changed where it stands is a claim put in its place. -/
theorem State.updClaim_eq_putClaim {s : State} {i : SlotIx} {c : Claim} (h : s.claim i = some c)
    (f : Claim → Claim) : s.updClaim i f = s.putClaim i (f c) := by
  unfold State.claim at h
  unfold State.updClaim State.putClaim
  rw [h]
  rfl

/-- A claim put where it stands already changes nothing. -/
theorem State.putClaim_self {s : State} {i : SlotIx} {c : Claim} (h : s.claim i = some c) : s.putClaim i c = s := by
  unfold State.claim at h
  unfold State.putClaim
  have : ({ s.slots[i] with claim := some c } : Slot) = s.slots[i] := by rw [← h]
  rw [this]
  have h2 : s.slots.set i s.slots[i] = s.slots := by
    ext j hj
    simp
  rw [h2]

/-- The slot that a handle names (R2). -/
theorem State.handleAt_some (s : State) (body : List Byte) (n : Nat) (i : SlotIx) :
    s.handleAt body n = some i ↔
      (s.claim i).isSome = true ∧ natAt body n = i.val ∧ natAt body (n + 1) = (s.handle i).gen.val := by
  unfold State.handleAt State.named State.handle
  constructor
  · intro h
    split at h
    · rename_i hlt
      split at h
      · rename_i hc
        cases h
        exact ⟨hc.1, rfl, hc.2.symm⟩
      · simp at h
    · simp at h
  · rintro ⟨hc, hn, hg⟩
    have hlt : natAt body n < 48 := by rw [hn]; exact i.isLt
    have he : (⟨natAt body n, hlt⟩ : SlotIx) = i := Fin.ext hn
    rw [dif_pos hlt, if_pos]
    · rw [he]
    · refine ⟨by rw [he]; exact hc, ?_⟩
      rw [hg]
      subst he
      rfl

/-- A handle that names a claim names it. -/
theorem State.claim_of_handleAt {s : State} {body : List Byte} {n : Nat} {i : SlotIx} (h : s.handleAt body n = some i) :
    ∃ c, s.claim i = some c := Option.isSome_iff_exists.mp ((s.handleAt_some body n i).mp h).1

end Sys2Proof.Machine
end

