-- ==== Sys2Proof/Tests/Slice0.lean ====
section
/-! SUPPORT. The checks of WellFormed refuse what they should; a concrete state and operands for the hypotheses of every
statement; and a few commands worked on small states. -/

open Sys2Proof Sys2Proof.Machine

/-! ### Checks that decide the invariants of a concrete state -/

namespace Sys2Proof.Tests

set_option Elab.async false

abbrev drives : List Drive := [.dl, .dr, .db]
abbrev gates : List Gate := [.gt, .gb]
abbrev links : List Link := [.a, .b, .c]

theorem mem_drives (d : Drive) : d ∈ drives := by cases d <;> simp
theorem mem_gates (g : Gate) : g ∈ gates := by cases g <;> simp
theorem mem_links (l : Link) : l ∈ links := by cases l <;> simp

abbrev StopCheck (s : State) : Prop :=
  (∀ g ∈ gates, ((s.gates.get g).isOpen = true →
      (s.gates.get g).holds = [] ∧ (s.gates.get g).close = .coast ∧
        (s.gates.get g).counter ≤ (s.gates.get g).applied.getD 1 - 1 ∧
        ((s.gates.get g).waited ≠ 0 → (s.gates.get g).counter = (s.gates.get g).applied.getD 1 - 1)) ∧
    ((s.gates.get g).isOpen = false →
      (s.gates.get g).counter = 0 ∧ (s.gates.get g).waited = 0 ∧ (s.gates.get g).staged = none)) ∧
  ∀ d ∈ drives, ((s.drives.get d).phase = .halted ↔ (s.gates.get d.parent).isOpen = false) ∧
    ((s.drives.get d).phase = .halted →
      (s.drives.get d).compare = 0 ∧ (s.drives.get d).pattern = (s.gates.get d.parent).close.pins) ∧
    ((s.drives.get d).phase ≠ .running → (s.drives.get d).phase ≠ .windingDown → (s.drives.get d).duty = 0)

theorem stopInv_of_check {s : State} (h : StopCheck s) : StopInv s :=
  ⟨fun g => h.1 g (mem_gates g), fun d => h.2 d (mem_drives d)⟩

abbrev TableCheck (s : State) : Prop :=
  (∀ d ∈ drives, (∀ i ∈ s.driveList d, ∃ c ∈ s.claim i, c.resource = .drive d ∧ c.state.listed = true) ∧
    (s.driveList d).Nodup) ∧
  (∀ g ∈ gates, (∀ i ∈ s.gateList g, ∃ c ∈ s.claim i, c.resource = .gate g ∧ c.state = .active) ∧
    (s.gateList g).Nodup) ∧
  ∀ l ∈ links, (∀ e ∈ s.notices.get l, e.final = true → ∃ c ∈ s.claim e.slot, c.owner = l ∧ c.state = .spent) ∧
    ((s.notices.get l).Pairwise fun x y => x.slot < y.slot) ∧ (s.barred l = true → s.notices.get l = [])

theorem tableInv_of_check {s : State} (h : TableCheck s) : TableInv s where
  driveEntry d := (h.1 d (mem_drives d)).1
  driveNodup d := (h.1 d (mem_drives d)).2
  gateEntry g := (h.2.1 g (mem_gates g)).1
  gateNodup g := (h.2.1 g (mem_gates g)).2
  final l := (h.2.2 l (mem_links l)).1
  sorted l := (h.2.2 l (mem_links l)).2.1
  barredEmpty l := (h.2.2 l (mem_links l)).2.2

abbrev KindCheck (s : State) : Prop :=
  ∀ i, ∀ c ∈ s.claim i, (c.resource.kind = .drive → c.state ≠ .active) ∧
    (c.resource.kind ≠ .drive → c.state = .active ∨ c.state = .spent)

abbrev DriveListCheck (s : State) (d : Drive) : Prop :=
  ((s.driveList d).Pairwise fun i j => s.classOf j ≤ s.classOf i) ∧
    (∀ i, ∀ c ∈ s.claim i, c.resource = .drive d → c.state.listed = true → i ∈ s.driveList d) ∧
    (∀ j ∈ (s.driveList d).tail, ∀ c ∈ s.claim j, c.state = .standby)

abbrev HeadCheck (s : State) (d : Drive) : Prop :=
  ∀ h ∈ (s.driveList d).take 1, ∀ c ∈ s.claim h,
    (s.gateIsOpen d.parent = true → c.state = .inForce ∨ (c.state = .retiring ∧ (s.driveList d).tail = [])) ∧
    (s.gateIsOpen d.parent = false → c.state = .suspended)

abbrev GateListCheck (s : State) (g : Gate) : Prop :=
  ((s.gateList g).Pairwise fun i j => s.classOf j ≤ s.classOf i) ∧
    ∀ i, ∀ c ∈ s.claim i, c.resource = .gate g → c.state = .active → i ∈ s.gateList g

theorem listInv_of_check {s : State} (hk : KindCheck s) (hd : ∀ d ∈ drives, DriveListCheck s d)
    (hh : ∀ d ∈ drives, HeadCheck s d) (hg : ∀ g ∈ gates, GateListCheck s g) : ListInv s where
  kinds i c hc := by
    unfold Claim.stateFits
    split
    · exact (hk i c hc).1 ‹_›
    · exact (hk i c hc).2 ‹_›
  driveOrder d := (hd d (mem_drives d)).1
  gateOrder g := (hg g (mem_gates g)).1
  driveListed i c d hc hr hs := (hd d (mem_drives d)).2.1 i c hc hr hs
  gateListed i c g hc hr hs := (hg g (mem_gates g)).2 i c hc hr hs
  waiting d x t hl j hj c hc := (hd d (mem_drives d)).2.2 j (by rw [hl]; exact hj) c hc
  headOpen d x t c hl hc ho := by
    have := (hh d (mem_drives d) x (by simp [hl]) c hc).1 ho
    rwa [hl] at this
  headClosed d x t c hl hc ho := (hh d (mem_drives d) x (by simp [hl]) c hc).2 ho

abbrev TagCheck (s : State) : Prop :=
  ∀ i, ∀ c ∈ s.claim i, c.tag ≠ 0#16 → ∀ j, ∀ d ∈ s.claim j, c.owner = d.owner → c.tag = d.tag → i = j

theorem tagInv_of_check {s : State} (h : TagCheck s) : TagInv s :=
  fun i j c d hc hd ho ht hn => h i c hc hn j d hd ho ht

abbrev QuotaCheck (s : State) : Prop :=
  s.setup.part = .run ∧ ∀ l ∈ links, s.unpinnedCount l ≤ (s.setup.reach.get l).quota

theorem quotaInv_of_check {s : State} (h : QuotaCheck s) : QuotaInv s :=
  ⟨fun hp => absurd (h.1.symm.trans hp) (by decide), fun l => h.2 l (mem_links l)⟩

abbrev ClockCheck (s : State) : Prop :=
  s.clock.divider ≤ 2000 ∧ s.clock.stamp = 125#32 * s.clock.cadence + BitVec.ofNat 32 (s.clock.divider / 16)

theorem clockInv_of_check {s : State} (h : ClockCheck s) : ClockInv s := h

abbrev GateCheck (s : State) : Prop :=
  ∀ g ∈ gates, s.gateIsOpen g = s.openCondition g ∧ (s.gates.get g).close = s.closeFor g ∧
    (s.gateIsOpen g = true → (s.gates.get g).staged.or (s.gates.get g).applied = (s.supplier g).map Prod.snd) ∧
    ((s.gates.get g).holds.map TripHold.source).Nodup

theorem gateInv_of_check {s : State} (h : GateCheck s) : GateInv s where
  opens g := (h g (mem_gates g)).1
  close g := (h g (mem_gates g)).2.1
  period g := (h g (mem_gates g)).2.2.1
  holds g := (h g (mem_gates g)).2.2.2

/-- A body in range for a resource, as a check. -/
def bodyCheck : Resource → Body → Bool
  | .drive d, .drive b => decide (b.target ≤ 1024 ∧ b.ramp ≤ 1024 ∧ b.burst ≤ 65535 ∧ ¬(d = .db ∧ b.direction = .reverse))
  | .gate _, .gate b => decide (160 ≤ b.period ∧ b.period ≤ 65535)
  | .analog _, .asense b =>
    decide (b.interval ≤ 10 ∧ 1 ≤ b.urgency ∧ b.urgency ≤ 3 ∧ b.smoothing ≤ 4 ∧ b.highLimit ≤ 4095 ∧
      b.lowLimit ≤ b.highLimit ∧ b.hysteresis ≤ 255 ∧ 1 ≤ b.debounce ∧ b.debounce ≤ 8)
  | .edge _, .esense b => decide (b.interval ≤ 10 ∧ b.stallLimit ≤ 255 ∧ 1 ≤ b.debounce ∧ b.debounce ≤ 8)
  | _, _ => false

theorem bodyInRange_of_check {r : Resource} {b : Body} (h : bodyCheck r b = true) : b.inRange r := by
  cases r <;> cases b <;> simp_all [bodyCheck, Body.inRange, imp_iff_not_or]

/-- A runtime in range, as a check. -/
def runCheck : Payload → Bool
  | .drive b left => decide (left ≤ b.burst)
  | .gate _ => true
  | .asense _ r => decide ((∀ v ∈ r.raw, v ≤ 4095) ∧ (∀ v ∈ r.smoothed, v ≤ 4095) ∧
      r.above ≤ 7 ∧ r.below ≤ 7 ∧ r.missed ≤ 255)
  | .esense _ r => decide ((∀ p ∈ r.lastPeriod, 1 ≤ p ∧ p ≤ 16777215) ∧ r.running ≤ 65535 ∧
      (∀ w ∈ r.window, w ≤ 65535) ∧ r.stallCount ≤ 255 ∧ r.candidate ≤ 7)

theorem runInRange_of_check {p : Payload} (h : runCheck p = true) : p.runInRange := by
  cases p with
  | gate b => trivial
  | drive b n => exact of_decide_eq_true (p := n ≤ b.burst) h
  | asense b r =>
    exact of_decide_eq_true (p := (∀ v ∈ r.raw, v ≤ 4095) ∧ (∀ v ∈ r.smoothed, v ≤ 4095) ∧ _) h
  | esense b r =>
    exact of_decide_eq_true (p := (∀ p ∈ r.lastPeriod, 1 ≤ p ∧ p ≤ 16777215) ∧ r.running ≤ 65535 ∧
      (∀ w ∈ r.window, w ≤ 65535) ∧ _) h

abbrev ClaimCheck (c : Claim) : Prop :=
  (c.hold ≤ 255 ∧ (c.resource.kind = .drive → 1 ≤ c.hold)) ∧ bodyCheck c.resource c.payload.body = true ∧
    runCheck c.payload = true

theorem claimInRange_of_check {c : Claim} (h : ClaimCheck c) : c.inRange :=
  ⟨h.1, bodyInRange_of_check h.2.1, runInRange_of_check h.2.2⟩

abbrev RangeCheck (s : State) : Prop :=
  (∀ i, ∀ c ∈ s.claim i, ClaimCheck c) ∧
  (∀ g ∈ gates, (∀ p ∈ (s.gates.get g).applied, 160 ≤ p ∧ p ≤ 65535) ∧
    ∀ p ∈ (s.gates.get g).staged, 160 ≤ p ∧ p ≤ 65535) ∧
  (∀ d ∈ drives, (s.drives.get d).duty ≤ 1024 ∧ (s.drives.get d).compare ≤ 65535) ∧
  (∀ l ∈ links, (s.setup.reach.get l).quota ≤ 48) ∧
  (∀ c : AnalogCh, 1 ≤ s.setup.windows[c] ∧ s.setup.windows[c] ≤ 32) ∧
  ∀ e : EdgeIn, s.inputs[e].filter ≤ 15 ∧ ∀ p ∈ s.inputs[e].pending, p.filter ≤ 15

theorem rangeInv_of_check {s : State} (h : RangeCheck s) : RangeInv s where
  claims i c hc := claimInRange_of_check (h.1 i c hc)
  periods g p hp := hp.elim ((h.2.1 g (mem_gates g)).1 p) ((h.2.1 g (mem_gates g)).2 p)
  duties d := h.2.2.1 d (mem_drives d)
  quotas l := h.2.2.2.1 l (mem_links l)
  windows := h.2.2.2.2.1
  filters := h.2.2.2.2.2

abbrev NoticeCheck (s : State) : Prop :=
  (∀ l ∈ links, ∀ e ∈ s.notices.get l, ∃ c ∈ s.claim e.slot, c.owner = l) ∧
  ∀ i, ∀ c ∈ s.claim i, c.state = .spent → ∃ e ∈ s.notices.get c.owner, e.slot = i ∧ e.final = true

abbrev PortCheck (s : State) : Prop :=
  ∀ l ∈ links, ((s.ports.get l).inWindow = true ↔ (s.ports.get l).outgoing ≠ none) ∧
    ((s.ports.get l).outgoing ≠ none → (s.ports.get l).held = none)

theorem portInv_of_check {s : State} (h : PortCheck s) : PortInv s := fun l => h l (mem_links l)

abbrev ConfigCheck (s : State) : Prop :=
  (∀ i, s.claim i = none) ∧ (∀ d ∈ drives, s.driveList d = []) ∧
  (∀ g ∈ gates, s.gateList g = [] ∧ s.gates.get g = { s.gates.get g with isOpen := false, holds := [] } ∧
    s.trips.get g = []) ∧
  (∀ l ∈ links, s.notices.get l = []) ∧ (∀ c : AnalogCh, s.arbiter.waiting[c] = none) ∧ s.arbiter.inFlight = none

theorem configInv_of_check {s : State} (h : ConfigCheck s) : ConfigInv s := by
  obtain ⟨slots, lists, units, sets, waiting, free⟩ := h
  have unit g := units g (mem_gates g)
  refine fun _ => ⟨slots, fun d => lists d (mem_drives d), fun g => (unit g).1, fun l => sets l (mem_links l),
    fun g => ?_, waiting, free, fun g => (unit g).2.2⟩
  rw [(unit g).2.1]
  exact ⟨rfl, rfl⟩

theorem noticeInv_of_check {s : State} (h : NoticeCheck s) : NoticeInv s where
  owned l e he := h.1 l (mem_links l) e he
  spent i c hc := h.2 i c hc

abbrev LifeCheck (s : State) : Prop :=
  ∀ i, ∀ c ∈ s.claim i,
    (c.deadline.isSome = true ↔ c.hold ≠ 0 ∧ c.pinned = false ∧ c.state.ongoing = true) ∧
    (c.endCause.isSome = true ↔ c.state.ongoing = false) ∧ (c.pinned = true → c.state.ongoing = true)

theorem lifeInv_of_check {s : State} (h : LifeCheck s) : LifeInv s := fun i c hc => h i c hc

abbrev ArbiterCheck (s : State) : Prop :=
  (∀ c : AnalogCh, ∀ r ∈ s.arbiter.waiting[c],
    r.due ≠ [] ∧ r.due.Pairwise (· < ·) ∧ ∀ i ∈ r.due, i ∈ s.analogMembers c) ∧
  (∀ f ∈ s.arbiter.inFlight, f.due.Pairwise (· < ·) ∧ ∀ i ∈ f.due, i ∈ s.analogMembers f.channel) ∧
  (s.arbiter.inFlight = none → ∀ c : AnalogCh, s.arbiter.waiting[c] = none)

theorem arbiterInv_of_check {s : State} (h : ArbiterCheck s) : ArbiterInv s :=
  ⟨fun c r hr => h.1 c r hr, fun f hf => h.2.1 f hf, h.2.2⟩

/-! ### Small states -/

/-- A DRIVE claim of a link on a channel at class 1 with hold 10, opened at count 0. -/
def driveClaim (l : Link) (d : Drive) (st : ClaimState) (b : DriveBody) (left : Nat) : Claim :=
  ⟨l, .drive d, 0#16, 1, st, 10, some 800#32, false, false, none, .drive b left⟩

/-- An ACTIVE GATE claim of a link at class 3, without a hold. -/
def gateClaim (l : Link) (g : Gate) (b : GateBody) : Claim :=
  ⟨l, .gate g, 0#16, 3, .active, 0, none, false, false, none, .gate b⟩

/-- An ACTIVE sense claim of a link at class 0, without a hold. -/
def senseClaim (l : Link) (r : Resource) (p : Payload) : Claim :=
  ⟨l, r, 0#16, 0, .active, 0, none, false, true, none, p⟩

/-- A claim that has ended: no deadline, and an end cause. -/
def ended (c : Claim) (st : ClaimState) : Claim := { c with state := st, deadline := none, endCause := some .retire }

/-- FORWARD at half duty, ramp 100, with a burst. -/
def forward (burst : Nat) : DriveBody := ⟨512, .forward, 100, burst⟩

/-- Limits 1000 and 3000, debounce 1, interval code 0, urgency 1, trips GB on the high side. -/
def limits : AnalogBody := ⟨0, 1, 0, 3000, 1000, 10, 1, .gb, .noGate, .brake⟩

/-- An edge body that watches every edge, with stall limit 1, debounce 1 and target GT. -/
def watch (m : Mode) : EdgeBody := ⟨m, .both, 0, 1, 1, .high, .gt, .coast⟩

def analogNew : AnalogRun := ⟨none, none, .inBand, 0, 0, false, 0⟩
def edgeNew : EdgeRun := ⟨none, false, none, 0, none, 0, false, .low, 0, false, false⟩

/-- The part in RUN with every resource in every link's reach, and no claim. -/
def empty : State :=
  let m : Reach := ⟨7#3, 3#2, 0xFFF#12, 0xFF#8, 1, 47⟩
  { State.reset with setup := { State.reset.setup with part := .run, reach := ⟨m, m, m⟩ } }

/-- The part at work. GT is OPEN over DL (a head with a counted burst, one claim STANDBY, one COMPLETE) and DR (a
RETIRING head); GB is CLOSED by a hold of A0 and a CLOSED vote over DB (a SUSPENDED head, pinned); A0 is watched by
slot 6 and in conversion, with a request waiting; E0 is watched in the three modes; slot 10 is SPENT. -/
def busy : State :=
  let put := fun (s : State) (x : SlotIx × Claim) => s.putClaim x.1 x.2
  let s := [(0, { driveClaim .b .dl .inForce (forward 3) 2 with tag := 7#16 }), (1, driveClaim .c .dl .standby (forward 0) 0),
    (2, driveClaim .b .dl .complete (forward 1) 0), (3, ended (driveClaim .c .dr .retiring (forward 0) 0) .retiring),
    (4, gateClaim .b .gt ⟨.votesOpen, 160, .coast⟩), (5, gateClaim .a .gb ⟨.votesClosed, 160, .brake⟩),
    (6, senseClaim .b (.analog 0) (.asense limits { analogNew with band := .high })),
    (7, senseClaim .b (.edge 0) (.esense (watch .period) edgeNew)),
    (8, senseClaim .b (.edge 0) (.esense (watch .count) edgeNew)),
    (9, senseClaim .c (.edge 0) (.esense (watch .level) edgeNew)),
    (10, ended (gateClaim .b .gt ⟨.votesOpen, 160, .coast⟩) .spent),
    (11, { driveClaim .c .db .suspended (forward 0) 0 with pinned := true, deadline := none })].foldl put empty
  { s with
    driveLists := ⟨[0, 1], [3], [11]⟩
    gateLists := ⟨[4], [5]⟩
    notices := ⟨[], [⟨0, NoticeKind.bit .taken⟩, ⟨10, NoticeKind.bit .retired⟩], []⟩
    gates := ⟨⟨true, 10, 0, some 160, none, .coast, []⟩,
      ⟨false, 0, 0, none, none, .brake, [⟨.analog 0, .high, .brake, .b⟩]⟩⟩
    drives := ⟨⟨.running, 512, .forward, 80⟩, ⟨.running, 100, .forward, 15⟩, ⟨.halted, 0, .brake, 0⟩⟩
    arbiter := { s.arbiter with
      waiting := s.arbiter.waiting.set 0 (some ⟨0#32, [6]⟩), inFlight := some ⟨0, 0#32, [6], 6#32⟩ }
    trips := ⟨[⟨.edge 0, .stall, .coast, .b, ⟨7, 0⟩⟩], []⟩ }

theorem busy_stop : StopInv busy := stopInv_of_check (by decide +kernel)
theorem busy_table : TableInv busy := tableInv_of_check (by decide +kernel)
theorem busy_list : ListInv busy :=
  listInv_of_check (by decide +kernel) (by decide +kernel) (by decide +kernel) (by decide +kernel)
theorem busy_tag : TagInv busy := tagInv_of_check (by decide +kernel)
theorem busy_quota : QuotaInv busy := quotaInv_of_check (by decide +kernel)
theorem busy_clock : ClockInv busy := clockInv_of_check (by decide +kernel)
theorem busy_gate : GateInv busy := gateInv_of_check (by decide +kernel)
theorem busy_range : RangeInv busy := rangeInv_of_check (by decide +kernel)
theorem busy_notice : NoticeInv busy := noticeInv_of_check (by decide +kernel)
theorem busy_life : LifeInv busy := lifeInv_of_check (by decide +kernel)
theorem busy_arbiter : ArbiterInv busy := arbiterInv_of_check (by decide +kernel)
theorem busy_port : PortInv busy := portInv_of_check (by decide +kernel)
theorem busy_authority : AuthorityInv busy := ⟨by decide, by decide +kernel⟩
theorem busy_config : ConfigInv busy := fun h => absurd h (by decide)
theorem busy_marks : MarksInv busy := fun h => absurd (h 0) (by decide +kernel)
theorem busy_can_take (l : Link) : busy.canTake l := ⟨rfl, by cases l <;> decide +kernel⟩

/-! ### The checks of WellFormed refuse ill-formed commands (R154, R165, R126) -/

/-- A body one byte too long for a frame. -/
def longBody : List Byte := List.replicate 29 0x00#8

theorem test_wellFormed_bodies_too_long :
    [Instr.poll .a longBody, .status .a longBody, .trips .a longBody, .list .a longBody, .read .a longBody,
      .lookup .a longBody, .takeNotices .a longBody, .openClaim .a longBody, .amend .a longBody, .renew .a longBody,
      .retire .a longBody, .dropAll .a longBody, .clearTrip .a longBody, .testTrip .a longBody, .pin .a longBody,
      .evict .a longBody, .admitLink .a longBody, .setReach .a longBody, .setAnalog .a longBody,
      .setEdge .a longBody, .setDrive .a longBody, .lockSetup .a longBody].all (fun i => !i.wellFormed) = true := by
  decide +kernel

theorem test_wellFormed_renew_needs_handle : (Instr.renew .a []).wellFormed = false := by decide

theorem test_wellFormed_refused_frame_fails_a_check :
    (Instr.frameRefused .a (List.replicate 24 false)).wellFormed = false := by decide +kernel

theorem test_wellFormed_pin_moves_in_tick : (Instr.edgePinChange 0 .high 125).wellFormed = false := by decide

theorem test_wellFormed_accepts :
    (Instr.poll .a (List.replicate 28 0xFF#8)).wellFormed = true ∧ (Instr.renew .a [0x00#8]).wellFormed = true ∧
    (Instr.edgePinChange 7 .low 124).wellFormed = true ∧ (Instr.frameRefused .c []).wellFormed = true := by decide

/-! ### Bytes and frames of the spec -/

/-- The empty frame 00h 01h 00h 15h and the frames whose checks the manual prints (R153, R154, section 10.7). -/
theorem test_frames :
    crc8 [0x00#8, 0x01#8, 0x00#8] = 0x15#8 ∧ crc8 [0x00#8, 0x00#8] = 0x00#8 ∧
    requestFrame 0x00#8 [] [] = [0x00#8, 0x00#8, 0x00#8] ∧
    frameError (List.replicate 24 false) = none ∧ frameError (List.replicate 248 false) = none := by
  decide +kernel

/-- The bytes of a window as its bits. -/
def sent (bytes : List Byte) : List Bool := bytes.flatMap bitsOfByte

theorem test_frame_errors_at_their_boundaries :
    frameError (sent (List.replicate 24 0xFF#8)) = some .badFrame ∧
    frameError (List.replicate 16 false) = some .badFrame ∧ frameError (List.replicate 256 false) = some .badFrame ∧
    frameError (List.replicate 25 false) = some .badFrame ∧ frameError [] = some .badFrame ∧
    frameError (sent [0x00#8, 0x01#8, 0x00#8]) = some .badFrame ∧
    frameError (sent (0x00#8 :: 29#8 :: List.replicate 29 0x00#8)) = some .badFrame ∧
    frameError (sent [0x00#8, 0x00#8, 0x01#8]) = some .badCheck ∧
    frameError (sent (requestFrame 0x07#8 [] [])) = some .badRequest ∧
    frameError (sent (requestFrame 0x07#8 (List.replicate 28 0x55#8) [])) = some .badRequest ∧
    frameError (sent (requestFrame 0x44#8 [] [0xAA#8])) = none := by decide +kernel

/-! ### Every hypothesis is met: one theorem a statement, its clauses at their boundaries -/

/-- The state a command leaves. -/
def after (c : Instr) (s : State) : State :=
  match exec c s with
  | .next t => t
  | .fault _ => s
  | .refused _ => s

theorem exec_after (c : Instr) (s : State) : exec c s = .next (after c s) := by
  obtain ⟨t, h, _⟩ := exec_moves c s
  rw [after, h]

/-- A state with one command waiting. -/
def queued (c : Instr) (s : State) : State := { s with pending := [c] }

theorem step_queued (c : Instr) (s : State) : step (queued c s) = .next (after c { queued c s with pending := [] }) :=
  exec_after c _

theorem witness_StepTakesFrontCommand : (queued (.poll .a []) busy).pending = .poll .a [] :: [] := rfl

def held : State := { busy with resetHeld := true }
def tickEnd (divider : Nat) : State :=
  { busy with clock := ⟨divider, 0#32, BitVec.ofNat 32 (divider / 16), false⟩ }

/-- The instant of an event of time has come, as EveryStepAnswersNext says it. -/
abbrev DueCheck (s : State) : Prop :=
  s.clock.divider = 2000 ∨ s.clock.momentsWait = true ∨
  (∃ g ∈ gates, (s.gates.get g).isOpen = true ∧
    (s.gates.get g).applied.getD 1 ≤ (s.gates.get g).counter + (s.gates.get g).waited) ∨
  (∃ f ∈ s.arbiter.inFlight,
    f.completesAt = s.clock.stamp ∨ 2 ^ 31 ≤ (f.completesAt - s.clock.stamp).toNat) ∨
  ∃ e : EdgeIn, ∃ p ∈ s.inputs[e].pending, p.filter ≤ (s.clock.stamp - p.stamp).toNat

/-- GT at its last count, with some clocks waited there. -/
def lastCount (waited : Nat) : State :=
  busy.setGate .gt { busy.gates.get .gt with counter := 159, waited := waited }

/-- E0 with a change pending since stamp 0, some clocks into the tick. -/
def pendingSince (divider : Nat) : State := (tickEnd divider).setInput 0 ⟨.low, some ⟨0#32, 2⟩, 2⟩

/-- An expiry has brought the count to 1, and the moments at 1 wait. -/
def momentsWait : State := { busy with clock := ⟨0, 1#32, 125#32, true⟩ }

/-- The end of the tick, a gate's wrap, a completion and the end of a filter time, each at its instant and one clock
before it; a completion that is late; moments that wait; and reset held. -/
theorem witness_EveryStepAnswersNext :
    (held.pending = [] ∧ held.resetHeld = true) ∧
    (∀ s ∈ [momentsWait, tickEnd 2000, lastCount 1, tickEnd 96, tickEnd 112, pendingSince 32], DueCheck s) ∧
    (∀ s ∈ [lastCount 0, tickEnd 0, tickEnd 95, pendingSince 31], ¬DueCheck s) ∧
    ∀ s ∈ [momentsWait, tickEnd 2000, lastCount 1, tickEnd 96, tickEnd 112, pendingSince 32, lastCount 0, tickEnd 0,
        tickEnd 95, pendingSince 31],
      s.pending = [] ∧ s.resetHeld = false ∧ StopInv s ∧ ClockInv s := by
  refine ⟨⟨rfl, rfl⟩, by decide +kernel, by decide +kernel, fun s hs => ?_⟩
  have checks : ∀ s ∈ [momentsWait, tickEnd 2000, lastCount 1, tickEnd 96, tickEnd 112, pendingSince 32, lastCount 0,
      tickEnd 0, tickEnd 95, pendingSince 31], s.pending = [] ∧ s.resetHeld = false ∧ StopCheck s ∧ ClockCheck s := by
    decide +kernel
  obtain ⟨h₁, h₂, h₃, h₄⟩ := checks s hs
  exact ⟨h₁, h₂, stopInv_of_check h₃, clockInv_of_check h₄⟩

theorem witness_ResetIsHeldAndReleased :
    held.resetHeld = true ∧ Instr.cadenceAdvance ≠ .powerOnReset ∧
    (∀ auth pins csLow, Instr.cadenceAdvance ≠ .resetRelease auth pins csLow) ∧ busy.resetHeld = false :=
  ⟨rfl, by decide, by simp, rfl⟩

theorem witness_ReleaseEmptiesEveryBlockAndMeetsInvariants : held.resetHeld = true := rfl

def awaiting : State := State.released .high (Vector.replicate 8 .high) ⟨true, false, false⟩

/-- Link A in a window that has received some bits. -/
def midWindow (bits : List Bool) : State :=
  busy.setPort .a { (after (.windowBegin .a) busy).ports.get .a with window := .inWindow bits }

/-- Link A before CS rises after reset, between windows, and in a window before its first bit and after its last; Link B
between windows beside it. -/
theorem witness_WindowsOfferHeldResponses :
    (busy.resetHeld = false ∧ (busy.ports.get .a).window = .between ∧ (busy.ports.get .a).window ≠ .awaitRise) ∧
    (awaiting.resetHeld = false ∧ (awaiting.ports.get .a).window = .awaitRise ∧
      Instr.frameRefused .a [] ∈ [Instr.windowBegin .a, .frameRefused .a []]) ∧
    (PortInv awaiting ∧ (awaiting.ports.get .a).inWindow = false) ∧
    (PortInv (after (.windowBegin .a) busy) ∧ ((after (.windowBegin .a) busy).ports.get .a).window = .inWindow [] ∧
      ((after (.windowBegin .a) busy).ports.get .b).inWindow = false ∧
      step (queued (.windowBegin .a) busy) =
        .next (after (.windowBegin .a) { queued (.windowBegin .a) busy with pending := [] })) ∧
    (∀ bits ∈ [[], List.replicate 248 true], PortInv (midWindow bits) ∧ (midWindow bits).resetHeld = false ∧
      ((midWindow bits).ports.get .a).window = .inWindow bits ∧
      ((midWindow bits).ports.get .a).outgoing = some emptyFrame) ∧
    (48 : Nat) ≤ 48 ∧ ∃ r : Response, (∀ left es, r.body = .notices left es → es.length ≤ 6) ∧ r.body ≠ .empty :=
  ⟨by decide +kernel, ⟨rfl, rfl, by simp⟩, ⟨portInv_of_check (by decide +kernel), by decide +kernel⟩,
    ⟨portInv_of_check (by decide +kernel), by decide +kernel, by decide +kernel, step_queued _ _⟩,
    fun _ _ => ⟨portInv_of_check (by decide +revert +kernel), rfl, rfl, rfl⟩, by decide,
    ⟨0x06#8, .ok, .notices 48 (List.replicate 6 (⟨47, 15⟩, 0xFFFF#16))⟩,
    by rintro left es h; obtain ⟨rfl, rfl⟩ := ReplyBody.notices.inj h; simp, by simp⟩

/-- The clauses on a window's bytes: not a whole frame, a wrong check, an unknown code, and a request, with all of the
window's bits received before its last command, some and none. -/
theorem witness_FrameChecksInOrder :
    busy.canTake .a ∧ ([] : List Bool).length < 8 ∧ (List.replicate 7 true).length < 8 ∧
    (∃ r, frameError (sent [0x00#8, 0x00#8, 0x01#8]) = some r) ∧
    (3 ≤ [0x07#8, 0x00#8, 0x00#8].length ∧ ¬[0x07#8, 0x00#8, 0x00#8].getD 2 0x00#8 = crc8 [0x07#8, 0x00#8]) ∧
    (crc8 [0x07#8, 0x00#8] = [0x07#8, 0x00#8, 0x6B#8].getD 2 0x00#8 ∧ ¬0x07#8 ∈ requestCodes) ∧
    0x44#8 ∈ requestCodes ∧
    (∀ bits, (midWindow bits).canTake .a) ∧
    (∀ bytes ∈ [[0x00#8, 0x00#8, 0x01#8], [0x13#8, 0x02#8, 0x0C#8, 0x01#8, 0x70#8]], ∀ n ∈ [0, 11, 24, 40],
      (midWindow ((sent bytes).take n)).received .a ++ (sent bytes).drop n = sent bytes) ∧
    frameError (sent [0x13#8, 0x02#8, 0x0C#8, 0x01#8, 0x70#8]) = none ∧
    (List.replicate 28 0xFF#8).length + ([] : List Byte).length ≤ 28 :=
  ⟨busy_can_take .a, by decide, by decide, ⟨.badCheck, by decide +kernel⟩,
    by decide +kernel, by decide +kernel, by decide,
    fun _ => ⟨rfl, fun h => nomatch h⟩, by decide +kernel, by decide +kernel, by decide⟩

theorem config_can_take (l : Link) : State.reset.canTake l := ⟨rfl, by cases l <;> decide⟩

/-- A request of any link can be taken in CONFIG and in RUN, with the longest body a frame carries. -/
theorem witness_PollReportsFourItems :
    busy.canTake .b ∧ State.reset.canTake .c ∧ (List.replicate 28 0xFF#8).length ≤ 28 :=
  ⟨busy_can_take .b, config_can_take .c, by decide⟩

theorem witness_StatusReportsItsSubject :
    busy.canTake .c ∧ (([] : List Byte).length ≠ 1 ∨ False) ∧ natAt [0x13#8] 0 ≠ 0xFF ∧
    resourceOf? (natAt [0x13#8] 0) = none ∧ resourceOf? (natAt [0x2C#8] 0) = none :=
  ⟨busy_can_take .c, by decide⟩

theorem witness_TripsReportsHolds :
    busy.canTake .a ∧ (19 : Nat) ≤ 19 ∧ [0x00#8].length ≠ 2 ∧ gateOf? (natAt [0x02#8, 0x00#8] 0) = none ∧
    19 < natAt [0x00#8, 0x14#8] 1 := ⟨busy_can_take .a, by decide⟩

theorem witness_ListReportsClaims :
    State.reset.canTake .a ∧ State.reset.setup.part = .config ∧ busy.canTake .c ∧ busy.setup.part = .run ∧
    TableInv busy ∧ (47 : Nat) ≤ 47 ∧ resourceOf? (natAt [0x38#8, 0x00#8] 0) = none ∧ [0x10#8].length ≠ 2 ∧
    47 < natAt [0x10#8, 0x30#8] 1 ∧ (Resource.analog 0).kind = .asense ∧ (Resource.edge 0).kind = .esense ∧
    0 ∈ busy.claimsOn (.drive .dl) ∧ (busy.claim 0).isSome = true :=
  ⟨config_can_take .a, rfl, busy_can_take .c, rfl, busy_table, by decide +kernel⟩

/-- The handles of slots 0, 4, 6, 7 and of the FREE slot 12, with the parts that a READ may and may not name. -/
theorem witness_ReadReportsPartsAndPlace :
    busy.canTake .a ∧ busy.setup.part = .run ∧ busy.handleAt [12#8, 0#8, 0#8] 0 = none ∧
    (∀ i ∈ [(0 : SlotIx), 4, 6, 7], busy.handleAt [BitVec.ofNat 8 i.val, 0#8, 2#8] 0 = some i ∧
      (busy.claim i).isSome = true) ∧
    2 < natAt [0#8, 0#8, 3#8] 2 ∧ natAt [0#8, 0#8, 2#8] 2 = 2 ∧ [0#8, 0#8].length ≠ 3 ∧
    ((busy.claim 6).map Claim.owner = some .b ∧ (busy.claim 6).map Claim.kind = some .asense) ∧
    (busy.claim 7).map Claim.kind = some .esense ∧ (busy.claim 0).map Claim.kind = some .drive ∧
    (busy.claim 4).map Claim.kind = some .gate :=
  ⟨busy_can_take .a, rfl, by decide +kernel⟩

/-- Claims at each place: a head, an entry behind it, a COMPLETE claim, an ACTIVE and a SPENT gate claim, sense
claims. All are in range. -/
theorem witness_ReadReportsPlace :
    TableInv busy ∧ ListInv busy ∧ (∀ i c, busy.claim i = some c → c.inRange) ∧
    ((busy.driveList .dl)[0]? = some 0 ∧ (busy.driveList .dl)[1]? = some 1 ∧ busy.head .dl = some 0 ∧
      busy.head .dl ≠ some 1 ∧ (busy.claim 2).map Claim.state = some .complete ∧
      (busy.gateList .gt)[0]? = some 4 ∧ (busy.claim 4).map Claim.state = some .active ∧
      (busy.claim 10).map Claim.state = some .spent ∧ (busy.claim 6).map Claim.resource = some (.analog 0) ∧
      (busy.claim 7).map Claim.resource = some (.edge 0)) :=
  ⟨busy_table, busy_list, busy_range.claims, by decide +kernel⟩

/-- Slot 0 carries Link B's tag 7; tags 8 and 0 are free for it, and tag 7 for Link C. -/
theorem witness_LookupFindsOwnTag :
    busy.canTake .b ∧ TagInv busy ∧ (∃ c, busy.claim 0 = some c ∧ c.owner = .b ∧ c.tag = 7#16) ∧
    BitVec.ofNat 16 (be16At [0#8, 7#8] 0) = 7#16 ∧ busy.tagFree .b 0#16 ∧ busy.tagFree .b 8#16 ∧
    busy.tagFree .c 7#16 ∧ State.reset.setup.part = .config ∧ [0#8].length ≠ 2 :=
  ⟨busy_can_take .b, busy_tag, ⟨_, rfl, by decide, by decide⟩, by decide, .inl rfl,
    .inr (show ∀ i, ∀ c ∈ busy.claim i, c.owner = .b → c.tag ≠ 8#16 by decide +kernel),
    .inr (show ∀ i, ∀ c ∈ busy.claim i, c.owner = .c → c.tag ≠ 7#16 by decide +kernel), rfl, by decide⟩

/-- Link B's set holds an entry with a final notice and one without. -/
theorem witness_TakeNoticesRemovesEntries :
    busy.canTake .b ∧ TableInv busy ∧ (∃ e ∈ (busy.notices.get .b).take 6, e.final = true) ∧
    (∃ i : SlotIx, ∀ e ∈ (busy.notices.get .b).take 6, e.final = true → e.slot ≠ i) ∧ [0#8] ≠ [] :=
  ⟨busy_can_take .b, busy_table, by decide +kernel, ⟨0, by decide +kernel⟩, by decide⟩

def fields (b : Body) : ClaimFields := ⟨10, true, b⟩

/-- Every slot taken by a claim of Link C. -/
def full : State := { empty with slots := Vector.replicate 48 ⟨0, some (gateClaim .c .gt ⟨.votesOpen, 160, .coast⟩)⟩ }

/-- Link B with quota 7, which is its count. -/
def atQuota : State :=
  { busy with setup := { busy.setup with reach := { busy.setup.reach with b := { busy.setup.reach.b with quota := 7 } } } }

/-- Link C barred, with its notice set empty. -/
def barredC : State := busy.setPort .c { busy.ports.get .c with barred := true }

theorem barredC_table : TableInv barredC := tableInv_of_check (by decide +kernel)
theorem barredC_list : ListInv barredC :=
  listInv_of_check (by decide +kernel) (by decide +kernel) (by decide +kernel) (by decide +kernel)

theorem witness_OpenRefusedInOrder :
    (State.reset.canTake .a ∧ barredC.canTake .c ∧ busy.canTake .b ∧ busy.tagFree .b (openTag [0x12#8])) ∧
    (State.reset.setup.part = .config ∧ barredC.setup.part = .run ∧ barredC.barred .c = true ∧ busy.barred .b = false ∧
      resourceOf? (natAt [0x13#8] 0) = none ∧ resourceOf? (natAt [0x12#8] 0) = some (.drive .db) ∧
      (State.reset.setup.reach.get .b).covers (.drive .db) = false ∧ (busy.setup.reach.get .b).covers (.drive .db) = true ∧
      (∀ i, full.claim i ≠ none) ∧ busy.claim 12 = none ∧
      ((atQuota.setup.reach.get .b).quota ≤ (List.finRange 48).countP fun i =>
        (atQuota.claim i).any fun c => decide (c.owner = .b) && !c.pinned) ∧
      ((List.finRange 48).countP fun i => (busy.claim i).any fun c => decide (c.owner = .b) && !c.pinned) = 7) ∧
    ∃ i c, busy.claim i = some c ∧ c.owner = .b ∧ c.tag = openTag [0x10#8, 0#8, 0#8, 7#8] :=
  ⟨⟨config_can_take .a, ⟨rfl, by decide⟩, busy_can_take .b, .inl (by decide)⟩, by decide +kernel,
    ⟨0, _, rfl, by decide⟩⟩

/-- The fields of a DRIVE claim with a hold, a target and a ramp. -/
def outside (hold target ramp : Nat) : ClaimFields := ⟨hold, false, .drive ⟨target, .forward, ramp, 0⟩⟩

/-- No fields in range spell the OPEN body of a DRIVE claim on DL whose hold, target or ramp is out of range. -/
theorem outside_open {hold target ramp : Nat} (hh : hold < 256) (ht : target < 65536) (hr : ramp < 65536)
    (bad : hold = 0 ∨ 1024 < target ∨ 1024 < ramp) (t t' : BitVec 16) :
    ¬∃ f : ClaimFields, f.inRange (.drive .dl) ∧
      openBytes (.drive .dl) t (outside hold target ramp) = openBytes (.drive .dl) t' f := by
  rintro ⟨⟨h, w, body⟩, ⟨⟨h255, hpos⟩, hb⟩, he⟩
  cases body with
  | drive b =>
    simp only [openBytes, outside, Body.bytes, numBytes, List.cons_append, List.nil_append,
      List.cons.injEq] at he
    obtain ⟨-, -, -, -, e1, -, e2, e3, -, e4, e5, -⟩ := he
    have x1 := congrArg BitVec.toNat e1
    rw [numByte_toNat hh, numByte_toNat (show h < 256 by exact Nat.lt_of_le_of_lt h255 (by decide))] at x1
    obtain ⟨bt, br, -, -⟩ := hb
    have x2 := numBytes_inj ht (show b.target < 65536 by omega) (by simp [numBytes, e2, e3])
    have x3 := numBytes_inj hr (show b.ramp < 65536 by omega) (by simp [numBytes, e4, e5])
    have := hpos rfl
    dsimp only at *
    omega
  | gate _ => exact hb
  | asense _ => exact hb
  | esense _ => exact hb

/-- OPEN's value step refuses a body of a wrong length, and a DRIVE body of the right one with hold 0, target 1025 or
ramp 1025. -/
theorem witness_OpenRefusedInOrder_values :
    (¬∃ f : ClaimFields, f.inRange (.drive .db) ∧ [0x12#8] = openBytes (.drive .db) (openTag [0x12#8]) f) ∧
    ∀ x ∈ [outside 0 512 100, outside 10 1025 100, outside 10 512 1025],
      let body := openBytes (.drive .dl) 0#16 x
      busy.tagFree .b (openTag body) ∧ body.length ≤ 28 ∧
        ¬∃ f : ClaimFields, f.inRange (.drive .dl) ∧ body = openBytes (.drive .dl) (openTag body) f := by
  refine ⟨?_, fun x hx => ?_⟩
  · rintro ⟨f, _, h⟩
    simp [openBytes] at h
  · simp only [List.mem_cons, List.not_mem_nil, or_false] at hx
    rcases hx with rfl | rfl | rfl <;>
      exact ⟨.inl (by decide), by decide, outside_open (by decide) (by decide) (by decide) (by decide) _ _⟩

theorem openPasses (l : Link) (r : Resource) (b : Body) (hr : (busy.setup.reach.get l).covers r = true)
    (hk : resourceOf? (natAt (openBytes r 0#16 (fields b)) 0) = some r)
    (ho : openTag (openBytes r 0#16 (fields b)) = 0#16)
    (hv : openFields? r (openBytes r 0#16 (fields b)) = some (fields b)) :
    busy.OpenPasses l (openBytes r 0#16 (fields b)) r 12 (fields b) where
  run := rfl
  notBarred := by cases l <;> decide +kernel
  known := hk
  reach := hr
  room := ⟨by decide +kernel, by decide +kernel⟩
  quota := by cases l <;> decide +kernel
  tag := .inl ho
  values := hv

/-- An OPEN of each kind that passes every check, at the bounds of its fields. -/
theorem witness_OpenTakesLowestFreeSlot :
    TableInv busy ∧ ListInv busy ∧ busy.canTake .b ∧
    (∃ body f, busy.OpenPasses .b body (.analog 11) 12 f ∧ f.body = .asense ⟨10, 3, 4, 4095, 4095, 255, 8, .both, .gt, .brake⟩) ∧
    (∃ body f, busy.OpenPasses .b body (.edge 7) 12 f ∧ f.body = .esense ⟨.level, .both, 10, 255, 8, .high, .both, .brake⟩) ∧
    (∃ body f, busy.OpenPasses .b body (.drive .db) 12 f ∧ f.body = .drive ⟨1024, .coast, 1024, 65535⟩) ∧
    ∃ body f, busy.OpenPasses .b body (.gate .gb) 12 f ∧ f.body = .gate ⟨.votesOpen, 65535, .brake⟩ :=
  ⟨busy_table, busy_list, busy_can_take .b,
    ⟨_, _, openPasses .b (.analog 11) _ (by decide) (by decide) (by decide) (by decide), rfl⟩,
    ⟨_, _, openPasses .b (.edge 7) _ (by decide) (by decide) (by decide) (by decide), rfl⟩,
    ⟨_, _, openPasses .b (.drive .db) _ (by decide) (by decide) (by decide) (by decide), rfl⟩,
    ⟨_, _, openPasses .b (.gate .gb) _ (by decide) (by decide) (by decide) (by decide), rfl⟩⟩

/-- Fields of each kind in range, at their bounds. -/
theorem witness_ClaimBodiesReadAsLaidOut :
    (fields (.drive ⟨1024, .reverse, 1024, 65535⟩)).inRange (.drive .dl) ∧
    (⟨0, false, .gate ⟨.votesClosed, 160, .brake⟩⟩ : ClaimFields).inRange (.gate .gt) ∧
    (⟨255, true, .asense ⟨10, 3, 4, 4095, 4095, 255, 8, .both, .gt, .brake⟩⟩ : ClaimFields).inRange (.analog 11) ∧
    (⟨0, true, .esense ⟨.period, .falling, 0, 0, 1, .low, .noGate, .coast⟩⟩ : ClaimFields).inRange (.edge 0) ∧
    (∃ body f, resourceOf? (natAt body 0) = some (.gate .gt) ∧ openFields? (.gate .gt) body = some f) ∧
    ∃ body f, kindOf? (natAt body 2) = some (Resource.gate .gt).kind ∧ amendFields? (.gate .gt) body = some f :=
  ⟨⟨by simp [holdInRange, fields], bodyInRange_of_check (by decide)⟩,
    ⟨by simp [holdInRange, Resource.kind], bodyInRange_of_check (by decide)⟩,
    ⟨by simp [holdInRange, Resource.kind], bodyInRange_of_check (by decide)⟩,
    ⟨by simp [holdInRange, Resource.kind], bodyInRange_of_check (by decide)⟩,
    ⟨openBytes (.gate .gt) 0#16 (fields (.gate ⟨.votesOpen, 160, .coast⟩)), _, by decide, rfl⟩,
    ⟨amendBytes 0#8 0#8 (fields (.gate ⟨.votesOpen, 160, .coast⟩)), _, by decide, rfl⟩⟩

/-- The bytes of a handle with generation 0, as each slot has it after reset. -/
def handleBytes (i : SlotIx) : List Byte := [BitVec.ofNat 8 i.val, 0#8]

/-- Slots 0 (Link B, live), 11 (pinned), 3 (RETIRING) and 10 (SPENT) by handle, and the FREE slot 12. -/
theorem busy_handles :
    ∀ i ∈ [(0 : SlotIx), 2, 3, 4, 6, 7, 10, 11], busy.handleAt (handleBytes i) 0 = some i := by decide +kernel

theorem witness_OwnerChecksInOrder :
    busy.canTake .b ∧ State.reset.setup.part = .config ∧ busy.setup.part = .run ∧
    busy.handleAt (handleBytes 12) 0 = none ∧ busy.handleAt [48#8, 0#8] 0 = none ∧
    (∃ c, busy.claim 0 = some c ∧ c.owner ≠ .c ∧ c.owner = .b ∧ c.pinned = false ∧ c.state ≠ .retiring ∧
      c.state ≠ .spent ∧ kindOf? (natAt [0#8, 0#8, 1#8] 2) ≠ some c.kind ∧
      kindOf? (natAt [0#8, 0#8, 0#8] 2) = some c.kind ∧ c.inRange) ∧
    (∃ c, busy.claim 11 = some c ∧ c.owner = .c ∧ c.pinned = true) ∧
    (∃ c, busy.claim 3 = some c ∧ c.owner = .c ∧ c.pinned = false ∧ c.state = .retiring) ∧
    ∃ c, busy.claim 10 = some c ∧ c.owner = .b ∧ c.pinned = false ∧ c.state = .spent :=
  ⟨busy_can_take .b, rfl, rfl, by decide +kernel, by decide +kernel,
    ⟨_, rfl, by decide, by decide, by decide, by decide, by decide, by decide, by decide, busy_range.claims 0 _ rfl⟩,
    ⟨_, rfl, by decide⟩, ⟨_, rfl, by decide⟩, ⟨_, rfl, by decide⟩⟩

/-- An AMEND body cut short is no layout of fields in range, nor is one of a DRIVE claim with hold 0, target 1025 or
ramp 1025. -/
theorem witness_OwnerChecksInOrder_values :
    (¬∃ f : ClaimFields, f.inRange (.drive .dl) ∧ [0#8, 0#8, 0#8] = amendBytes 0#8 0#8 f) ∧
    ∀ x ∈ [outside 0 512 100, outside 10 1025 100, outside 10 512 1025],
      kindOf? (natAt (amendBytes 0#8 0#8 x) 2) = some .drive ∧ busy.handleAt (amendBytes 0#8 0#8 x) 0 = some 0 ∧
        ¬∃ f : ClaimFields, f.inRange (.drive .dl) ∧ amendBytes 0#8 0#8 x = amendBytes 0#8 0#8 f := by
  refine ⟨?_, fun x hx => ?_⟩
  · rintro ⟨f, _, h⟩
    simp [amendBytes] at h
  · have spell : ∀ y f : ClaimFields, amendBytes 0#8 0#8 y = amendBytes 0#8 0#8 f →
        openBytes (.drive .dl) 0#16 y = openBytes (.drive .dl) 0#16 f := by
      intro y f h
      simp_all [amendBytes, openBytes]
    simp only [List.mem_cons, List.not_mem_nil, or_false] at hx
    rcases hx with rfl | rfl | rfl <;> refine ⟨by decide, by decide +kernel, fun ⟨f, hf, h⟩ => ?_⟩ <;>
      exact outside_open (by decide) (by decide) (by decide) (by decide) _ _ ⟨f, hf, spell _ _ h⟩

/-- Slot 0 by its handle, the FREE slot 12 by one that names no claim, and a body of three bytes that names none. -/
theorem witness_HandleAndLengthChecks :
    busy.canTake .a ∧ busy.setup.part = .run ∧ busy.handleAt (handleBytes 0) 0 = some 0 ∧
    busy.handleAt (handleBytes 12) 0 = none ∧ (handleBytes 12).length = 2 ∧ Link.a = busy.setup.authority ∧
    [48#8, 0#8, 0#8].length ≠ 2 ∧ [48#8, 0#8, 0#8] ≠ [] ∧ busy.handleAt [48#8, 0#8, 0#8] 0 = none ∧
    ([] : List Byte).length ≠ 2 :=
  ⟨busy_can_take .a, rfl, by decide +kernel, by decide +kernel, rfl, rfl, by decide, by decide, by decide +kernel,
    by decide⟩

theorem ownerPasses (l : Link) (i : SlotIx) (c : Claim) (body : List Byte) (hn : busy.handleAt body 0 = some i)
    (hc : busy.claim i = some c) (h : c.owner = l ∧ c.pinned = false ∧ c.state ≠ .retiring ∧ c.state ≠ .spent) :
    busy.OwnerPasses l body i c :=
  ⟨rfl, hn, hc, h.1, h.2.1, h.2.2⟩

/-- An AMEND that passes, of an analog claim, of edge claims whose mode changes, whose edge field changes and where
neither does, of a drive claim in its list and of one COMPLETE, and of a gate claim. -/
theorem witness_AmendReplacesBodyAndHold :
    TableInv busy ∧ ListInv busy ∧ busy.canTake .b ∧
    (∀ x ∈ [((6 : SlotIx), Body.asense ⟨10, 3, 4, 4095, 0, 255, 8, .both, .gt, .brake⟩),
        (7, .esense (watch .count)), (7, .esense { watch .period with edge := .rising }), (7, .esense (watch .period)),
        (0, .drive ⟨1024, .reverse, 1024, 65535⟩), (2, .drive (forward 0)), (4, .gate ⟨.votesClosed, 65535, .brake⟩)],
      ∃ c, busy.claim x.1 = some c ∧
        busy.OwnerPasses .b (amendBytes (BitVec.ofNat 8 x.1.val) 0#8 (fields x.2)) x.1 c ∧ c.inRange ∧
        (fields x.2).inRange c.resource ∧
        (amendBytes (BitVec.ofNat 8 x.1.val) 0#8 (fields x.2)).length ≤ 28) ∧
    (busy.claim 2).map Claim.state = some .complete := by
  refine ⟨busy_table, busy_list, busy_can_take .b, fun x hx => ?_, by decide +kernel⟩
  simp only [List.mem_cons, List.not_mem_nil, or_false] at hx
  rcases hx with rfl | rfl | rfl | rfl | rfl | rfl | rfl <;>
    exact ⟨_, rfl, ownerPasses .b _ _ _ (by decide +kernel) rfl (by decide), claimInRange_of_check (by decide +kernel),
      ⟨⟨by decide, by decide⟩, bodyInRange_of_check (by decide)⟩, by decide⟩

theorem witness_RenewSetsDeadlines :
    busy.canTake .b ∧ (∃ c, busy.OwnerPasses .b (handleBytes 0) 0 c ∧ c.hold ≠ 0) ∧
    (∃ c, busy.OwnerPasses .b (handleBytes 4) 4 c ∧ c.hold = 0) ∧ (handleBytes 0).length = 2 ∧
    busy.setup.part = .run ∧ State.reset.setup.part = .config :=
  ⟨busy_can_take .b, ⟨_, ownerPasses .b 0 _ _ (by decide +kernel) rfl (by decide), by decide⟩,
    ⟨_, ownerPasses .b 4 _ _ (by decide +kernel) rfl (by decide), by decide⟩, rfl, rfl, rfl⟩

/-- The count at a value, at the beginning of its tick. -/
def countAt (count : Count32) : State := { busy with clock := ⟨0, count, 125#32 * count, false⟩ }

/-- The deadline of slot 0, 800: the count has reached it, and stands half its range past it; it stands one tick before
it, and two. -/
theorem witness_RetireAndExpiryEndTheClaim :
    busy.canTake .b ∧ (∃ c, busy.OwnerPasses .b (handleBytes 0) 0 c) ∧ (∀ n, (countAt n).resetHeld = false) ∧
    (∀ c, busy.claim 4 = some c → c.deadline = none) ∧
    (∀ n, (countAt n).claim 0 = busy.claim 0) ∧ (busy.claim 0).map Claim.deadline = some (some 800#32) ∧
    (∀ n ∈ [800#32, 0x8000031F#32], ((countAt n).clock.cadence - 800#32).toNat < 2 ^ 31) ∧
    (∀ n ∈ [799#32, 798#32, 0x80000320#32], 2 ^ 31 ≤ ((countAt n).clock.cadence - 800#32).toNat) ∧
    (800#32 = (countAt 799#32).clock.cadence + 1#32 ∧ (countAt 799#32).clock.momentsWait = false ∧
      ClockInv (countAt 799#32)) ∧ momentsWait.clock.momentsWait = true ∧
    (800#32 : Count32) ≠ (countAt 798#32).clock.cadence + 1#32 :=
  ⟨busy_can_take .b, ⟨_, ownerPasses .b 0 _ _ (by decide +kernel) rfl (by decide)⟩, fun _ => rfl,
    show ∀ c ∈ busy.claim 4, c.deadline = none by decide +kernel, fun _ => rfl, by decide +kernel, by simp [countAt],
    by simp [countAt], ⟨by decide, rfl, clockInv_of_check (by decide)⟩, rfl, by decide⟩

/-- DL with its head alone: slot 1 has completed. -/
def alone : State :=
  { busy.updClaim 1 (fun c => { c with state := .complete }) with driveLists := ⟨[0], [3], [11]⟩ }

/-- Claims at each place of an ending: analog, edge, gate, COMPLETE, STANDBY, a head with others behind it, a head
alone at duty 512 and one at duty 0; with the owner barred and not barred. -/
theorem witness_EndingFollowsPlaceAndCourse :
    TableInv busy ∧ ListInv busy ∧ TableInv alone ∧ ListInv alone ∧
    (∀ x ∈ [((6 : SlotIx), Resource.analog 0, ClaimState.active), (7, .edge 0, .active), (4, .gate .gt, .active),
        (2, .drive .dl, .complete), (1, .drive .dl, .standby), (0, .drive .dl, .inForce), (11, .drive .db, .suspended)],
      (busy.claim x.1).map (fun c => (c.resource, c.state)) = some x.2) ∧
    busy.head .dl ≠ some 1 ∧ busy.head .dl = some 0 ∧ (busy.driveList .dl).length ≠ 1 ∧ busy.head .db = some 11 ∧
    (busy.drives.get .db).duty = 0 ∧ (alone.claim 0).isSome = true ∧ alone.head .dl = some 0 ∧
    (alone.driveList .dl).length = 1 ∧ (alone.drives.get .dl).duty ≠ 0 ∧
    barredC.barred .c = true ∧ (barredC.claim 3).map Claim.owner = some .c ∧
    (busy.claim 3).map (fun c => (c.state, c.endCause)) = some (.retiring, some .retire) ∧ busy.barred .c = false := by
  refine ⟨busy_table, busy_list, tableInv_of_check (by decide +kernel),
    listInv_of_check (by decide +kernel) (by decide +kernel) (by decide +kernel) (by decide +kernel), ?_⟩
  decide +kernel

/-- A0 after its member has ended, and while it is still a member; with a request waiting and with none. -/
theorem witness_EndedDemandLeaves :
    empty.members (.analog 0) = [] ∧ busy.members (.analog 0) ≠ [] ∧
    busy.arbiter.waiting[(0 : AnalogCh)] = some ⟨0#32, [6]⟩ ∧ empty.arbiter.waiting[(0 : AnalogCh)] = none ∧
    (1 : AnalogCh) ≠ 0 := by decide +kernel

/-- Link B's vote holds GT open, over a RETIRING head of Link C on DR. -/
def gateOnly : State :=
  let s := (empty.putClaim 3 (ended (driveClaim .c .dr .retiring (forward 0) 0) .retiring)).putClaim 4
    (gateClaim .b .gt ⟨.votesOpen, 160, .coast⟩)
  { s with
    driveLists := ⟨[], [3], []⟩
    gateLists := ⟨[4], []⟩
    gates := ⟨⟨true, 10, 0, some 160, none, .coast, []⟩, s.gates.gb⟩
    drives := ⟨⟨.idle, 0, .coast, 0⟩, ⟨.running, 100, .forward, 15⟩, s.drives.db⟩ }

theorem gateOnly_table : TableInv gateOnly := tableInv_of_check (by decide +kernel)
theorem gateOnly_list : ListInv gateOnly :=
  listInv_of_check (by decide +kernel) (by decide +kernel) (by decide +kernel) (by decide +kernel)

/-- DL alone with its head's burst finished. -/
def finished : State := alone.putClaim 0 (driveClaim .b .dl .inForce (forward 3) 0)

theorem finished_table : TableInv finished := tableInv_of_check (by decide +kernel)
theorem finished_list : ListInv finished :=
  listInv_of_check (by decide +kernel) (by decide +kernel) (by decide +kernel) (by decide +kernel)

/-- Several endings at once: DL's head with a survivor, which is posted TAKEN; DL's two entries, whose head winds down;
a vote whose end closes GT over a RETIRING head, and over a head whose burst is finished. -/
theorem witness_DropAllEndsOwnClaims_lists :
    (StopInv busy ∧ TableInv busy ∧ ListInv busy) ∧ (StopInv gateOnly ∧ TableInv gateOnly ∧ ListInv gateOnly) ∧
    (StopInv finished ∧ TableInv finished ∧ ListInv finished) ∧
    (∀ i ∈ [(0 : SlotIx), 1, 4], (busy.claim i).map (fun c => c.state.ongoing) = some true) ∧
    ((busy.endClaims .retire [0]).driveList .dl = [1] ∧
      ∃ e ∈ (busy.endClaims .retire [0]).notices.get .c, e.slot = 1 ∧ e.has .taken = true) ∧
    ((busy.endClaims .retire [0, 1]).driveList .dl = [0] ∧
      ((busy.endClaims .retire [0, 1]).claim 0).map Claim.state = some .retiring ∧
      ∀ e ∈ (busy.endClaims .retire [0, 1]).notices.get .c, e.has .taken = false) ∧
    (gateOnly.driveList .dr = [3] ∧ (gateOnly.endClaims .retire [4]).driveList .dr = []) ∧
    (finished.driveList .dl = [0] ∧ (finished.endClaims .retire [4]).driveList .dl = []) :=
  ⟨⟨busy_stop, busy_table, busy_list⟩, ⟨stopInv_of_check (by decide +kernel), gateOnly_table, gateOnly_list⟩,
    ⟨stopInv_of_check (by decide +kernel), finished_table, finished_list⟩, by decide +kernel⟩

/-- What DROP_ALL of Link B ends (slot 0), and the claims it leaves: Link C's, RETIRING (3), pinned (11) and live (1),
Link A's vote (5), and its own SPENT one (10). Where its vote is the one that holds GT open, Link C's RETIRING claim
comes to the end of its course. Link C barred, with a claim that goes to FREE. -/
theorem witness_DropAllEndsOwnClaims :
    State.reset.canTake .b ∧ State.reset.setup.part = .config ∧ busy.canTake .b ∧ busy.setup.part = .run ∧
    [0#8] ≠ [] ∧ (TableInv busy ∧ ListInv busy) ∧ (TableInv barredC ∧ ListInv barredC ∧ barredC.canTake .c ∧
      barredC.barred .c = true) ∧
    (∃ c, busy.claim 0 = some c ∧ c.owner = .b ∧ c.pinned = false ∧ c.state = .inForce ∧ c.inRange) ∧
    (∀ x ∈ [((1 : SlotIx), Link.c, false, ClaimState.standby), (3, .c, false, .retiring), (5, .a, false, .active),
        (10, .b, false, .spent), (11, .c, true, .suspended)],
      (busy.claim x.1).map (fun c => (c.owner, c.pinned, c.state)) = some x.2) ∧
    (TableInv gateOnly ∧ ListInv gateOnly ∧ (after (.dropAll .b []) gateOnly).gateIsOpen .gt = false ∧
      ((after (.dropAll .b []) gateOnly).claim 3).map Claim.state = some .spent) ∧
    ∃ c, barredC.claim 1 = some c ∧ c.owner = .c ∧ c.pinned = false ∧ c.state = .standby ∧ c.inRange :=
  ⟨config_can_take .b, rfl, busy_can_take .b, rfl, by decide, ⟨busy_table, busy_list⟩,
    ⟨barredC_table, barredC_list, ⟨rfl, by decide +kernel⟩, by decide +kernel⟩,
    ⟨_, rfl, by decide, by decide, by decide, busy_range.claims 0 _ rfl⟩, by decide +kernel,
    ⟨gateOnly_table, gateOnly_list, by decide +kernel, by decide +kernel⟩,
    ⟨_, rfl, by decide, by decide, by decide, busy_range.claims 1 _ rfl⟩⟩

/-- Postings: to a barred owner, of an unwanted SAMPLE, to a SPENT claim; into an entry that stands, and as a new
one. -/
theorem witness_PostingMergesIntoOwnersSet :
    TableInv busy ∧ TableInv barredC ∧ (∃ c, barredC.claim 1 = some c ∧ barredC.barred c.owner = true) ∧
    (∃ c, busy.claim 0 = some c ∧ c.wantsSample = false ∧ busy.barred c.owner = false ∧ c.state ≠ .spent ∧
      ∃ e ∈ busy.notices.get c.owner, e.slot = 0) ∧
    (∃ c, busy.claim 10 = some c ∧ c.state = .spent) ∧
    (∃ c, busy.claim 4 = some c ∧ ∀ e ∈ busy.notices.get c.owner, e.slot ≠ 4) ∧ busy.resetHeld = false :=
  ⟨busy_table, tableInv_of_check (by decide +kernel), ⟨_, rfl, by decide +kernel⟩,
    ⟨_, rfl, by decide, by decide +kernel, by decide, ⟨0, NoticeKind.bit .taken⟩, by decide +kernel, rfl⟩,
    ⟨_, rfl, by decide⟩, ⟨_, rfl, by decide +kernel⟩, rfl⟩

/-- DL's list turned round: a new head, with the old head still listed, and no longer listed. -/
theorem witness_ListChangeSettlesAndPosts :
    [(1 : SlotIx), 0].Nodup ∧ (∀ j ∈ [(1 : SlotIx), 0], ∃ c, busy.claim j = some c ∧ c.state ≠ .spent) ∧
    [(1 : SlotIx), 0].head? ≠ some 0 ∧ (0 : SlotIx) ∈ [(1 : SlotIx), 0] ∧
    ([(1 : SlotIx)].Nodup ∧ ∀ o : SlotIx, some 0 = some o → o ∉ [(1 : SlotIx)]) ∧ [(0 : SlotIx), 1].head? = some 0 := by
  refine ⟨by decide, fun j hj => ?_, by decide, by decide, ⟨by decide, by rintro o h; cases h; decide⟩, rfl⟩
  simp only [List.mem_cons, List.not_mem_nil, or_false] at hj
  rcases hj with rfl | rfl <;> exact ⟨_, rfl, by decide⟩

/-- A claim about to join: slot 12, STANDBY, and in no list. -/
def joining (d : Drive) (cls : Fin 4) (s : State) : State :=
  s.putClaim 12 { driveClaim .a d .standby (forward 0) 0 with cls := cls }

/-- DB with no claim. -/
def noDB : State := { busy.freeSlot 11 with driveLists := ⟨[0, 1], [3], []⟩ }

theorem joining_invs (d : Drive) (cls : Fin 4) (s : State) (h : TableCheck (joining d cls s)) :
    TableInv (joining d cls s) := tableInv_of_check h

/-- DL with its head's burst finished, and a claim of class 1 behind it. -/
def finishedAhead : State := busy.putClaim 0 (driveClaim .b .dl .inForce (forward 3) 0)

/-- Lists before a join: empty, with a head of the same class, of a lower class, RETIRING, and finished, alone and with
a claim behind it; and the TAKEN of each new head. -/
theorem witness_JoinFollowsWhatTheListHeld :
    TableInv (joining .db 1 noDB) ∧ TableInv (joining .dl 1 busy) ∧ TableInv (joining .dl 3 busy) ∧
    TableInv (joining .dr 0 busy) ∧ TableInv (joining .dl 0 finished) ∧ TableInv (joining .dl 0 finishedAhead) ∧
    (∀ s ∈ [joining .db 1 noDB, joining .dl 1 busy, joining .dl 3 busy, joining .dr 0 busy, joining .dl 0 finished,
        joining .dl 0 finishedAhead],
      (∀ d ∈ drives, (s.driveList d).Pairwise fun x y => s.classOf y ≤ s.classOf x) ∧
      (∀ d ∈ drives, (12 : SlotIx) ∉ s.driveList d) ∧ (s.claim 12).map Claim.state = some .standby) ∧
    ((joining .db 1 noDB).driveList .db = [] ∧ (busy.claim 0).map Claim.cls = some 1 ∧
      (busy.claim 0).map Claim.burstFinished = some false ∧ (busy.claim 3).map Claim.state = some .retiring ∧
      (finished.claim 0).map Claim.burstFinished = some true ∧
      (finishedAhead.claim 0).map Claim.burstFinished = some true) ∧
    ∀ x ∈ [(joining .db 1 noDB, Drive.db, (12 : SlotIx), Link.a), (joining .dl 3 busy, .dl, 12, .a),
        (joining .dr 0 busy, .dr, 12, .a), (joining .dl 0 finished, .dl, 12, .a),
        (joining .dl 0 finishedAhead, .dl, 1, .c)],
      (x.1.join x.2.1 12).head x.2.1 = some x.2.2.1 ∧
        ∃ e ∈ (x.1.join x.2.1 12).notices.get x.2.2.2, e.slot = x.2.2.1 ∧ e.has .taken = true :=
  ⟨joining_invs _ _ _ (by decide +kernel), joining_invs _ _ _ (by decide +kernel), joining_invs _ _ _ (by decide +kernel),
    joining_invs _ _ _ (by decide +kernel), joining_invs _ _ _ (by decide +kernel), joining_invs _ _ _ (by decide +kernel),
    by decide +kernel, by decide +kernel, by decide +kernel⟩

/-! ### Gates and trips -/

theorem witness_GateConditionAndSteadyGate :
    busy.gateIsOpen .gt = busy.openCondition .gt ∧ busy.gateIsOpen .gt = true ∧
    busy.gateIsOpen .gb = busy.openCondition .gb ∧ busy.gateIsOpen .gb = false := by decide +kernel

/-- GT's one vote has become CLOSED, and the gate has not yet evaluated its condition. -/
def closing (s : State) : State := s.putClaim 4 (gateClaim .b .gt ⟨.votesClosed, 160, .brake⟩)

/-- The closing of GT over an IN_FORCE head with its burst running, one whose burst is finished, and a RETIRING head. -/
theorem witness_GateCloses :
    TableInv (closing busy) ∧ ListInv (closing busy) ∧ TableInv (closing finished) ∧ ListInv (closing finished) ∧
    (∀ s ∈ [closing busy, closing finished], s.gateIsOpen .gt = true ∧ s.openCondition .gt = false ∧
      4 ∈ s.gateList .gt ∧ (s.claim 4).map Claim.owner = some .b ∧ s.barred .b = false) ∧
    (((closing busy).claim 0).map Claim.burstFinished = some false ∧
      ((closing busy).claim 0).map Claim.state = some .inForce ∧
      ((closing finished).claim 0).map Claim.burstFinished = some true ∧
      ((closing finished).claim 0).map Claim.state = some .inForce ∧
      ((closing busy).claim 3).map Claim.state = some .retiring) ∧ Drive.db.parent ≠ .gt :=
  ⟨tableInv_of_check (by decide +kernel),
    listInv_of_check (by decide +kernel) (by decide +kernel) (by decide +kernel) (by decide +kernel),
    tableInv_of_check (by decide +kernel),
    listInv_of_check (by decide +kernel) (by decide +kernel) (by decide +kernel) (by decide +kernel),
    by decide +kernel, by decide +kernel, by decide⟩

/-- GB's one vote has become OPEN and its hold is gone, and the gate has not yet evaluated its condition. -/
def opening (s : State) : State :=
  let s := s.putClaim 5 (gateClaim .a .gb ⟨.votesOpen, 65535, .coast⟩)
  s.setGate .gb { s.gates.get .gb with holds := [] }

theorem witness_GateOpens :
    TableInv (opening busy) ∧ ListInv (opening busy) ∧ TableInv (opening noDB) ∧ ListInv (opening noDB) ∧
    (∀ s ∈ [opening busy, opening noDB], s.gateIsOpen .gb = false ∧ s.openCondition .gb = true ∧ 5 ∈ s.gateList .gb ∧
      s.barred .a = false) ∧
    (opening busy).driveList .db = [11] ∧ (opening noDB).driveList .db = [] :=
  ⟨tableInv_of_check (by decide +kernel),
    listInv_of_check (by decide +kernel) (by decide +kernel) (by decide +kernel) (by decide +kernel),
    tableInv_of_check (by decide +kernel),
    listInv_of_check (by decide +kernel) (by decide +kernel) (by decide +kernel) (by decide +kernel),
    by decide +kernel, by decide +kernel⟩

/-- A trip that waits for GT, of a claim that its slot still holds, and of an earlier one. -/
def tripFrom (gen : Fin 16) : Trip := ⟨.edge 0, .stall, .coast, .b, ⟨7, gen⟩⟩

theorem witness_TripsBecomeHolds :
    ((busy.gates.get .gb).holds.map TripHold.source).Nodup ∧
    Source.analog 0 ∈ (busy.gates.get .gb).holds.map TripHold.source ∧
    Source.edge 7 ∉ (busy.gates.get .gb).holds.map TripHold.source ∧ busy.resetHeld = false ∧
    busy.trips.get .gb = [] ∧ busy.trips.get .gt = [tripFrom 0] ∧
    ((busy.takeHold .gt ⟨.edge 0, .stall, .coast, .b⟩).slots[(7 : SlotIx)].gen = (tripFrom 0).raiser.gen) ∧
    (busy.takeHold .gt ⟨.edge 0, .stall, .coast, .b⟩).slots[(7 : SlotIx)].gen ≠ (tripFrom 1).raiser.gen := by
  decide +kernel

theorem witness_TestTripHoldsTheGate :
    busy.canTake .a ∧ busy.setup.part = .run ∧ Link.a = busy.setup.authority ∧ holdBody? [0x00#8, 0x10#8] = none ∧
    holdBody? [0x02#8, 0x20#8] = none ∧ holdBody? [0x00#8] = none ∧ holdBody? [0x01#8, 0x37#8] ≠ none :=
  ⟨busy_can_take .a, rfl, rfl, by decide⟩

/-- Slot 6 back in its band. -/
def settled : State := busy.putClaim 6 (senseClaim .b (.analog 0) (.asense limits analogNew))

/-- GB's hold of A0: asked for by Link C, by its owner while slot 6 stands HIGH, and after slot 6 has returned. -/
theorem witness_ClearTripChecksAndRemoves :
    (State.reset.canTake .b ∧ busy.canTake .b ∧ settled.canTake .a) ∧
    (State.reset.setup.part = .config ∧ busy.setup.part = .run ∧
      sourceOf? (natAt [0x00#8, 0x10#8] 1) = none ∧ gateOf? (natAt [0x02#8, 0x20#8] 0) = none ∧
      (∀ h ∈ (busy.gates.get .gt).holds, h.source ≠ .analog 0) ∧
      (∃ h ∈ (busy.gates.get .gb).holds, h.source = .analog 0 ∧ Link.c ≠ h.owner ∧ Link.c ≠ busy.setup.authority ∧
        Link.b = h.owner) ∧ ((busy.gates.get .gb).holds.map TripHold.source).Nodup ∧
      (settled.claim 6).map Claim.payload = some (.asense limits analogNew) ∧
      ∀ i, ∀ c ∈ settled.claim i, c.resource = .analog 0 → i = 6) ∧
    ∃ i c, busy.claim i = some c ∧ c.state = .active ∧ c.resource = (Source.analog 0).resource ∧
      ∃ b r, c.payload = .asense b r ∧ r.band = .high ∧ b.tripHigh.includes .gb = true :=
  ⟨⟨config_can_take .b, busy_can_take .b, ⟨rfl, by decide +kernel⟩⟩, by decide +kernel,
    ⟨6, _, rfl, rfl, rfl, _, _, rfl, rfl, by decide⟩⟩

/-! ### Authority and setup -/

theorem witness_AuthorityAndPartStateChecks :
    busy.canTake .b ∧ State.reset.canTake .a ∧ Link.b ≠ busy.setup.authority ∧ Link.a = busy.setup.authority ∧
    busy.setup.part = .run ∧ Link.a = State.reset.setup.authority ∧ State.reset.setup.part = .config :=
  ⟨busy_can_take .b, config_can_take .a, by decide, rfl, rfl, rfl, rfl⟩

theorem witness_PinTakesAnyLiveClaim :
    busy.canTake .a ∧ Link.a = busy.setup.authority ∧ busy.setup.part = .run ∧
    (∀ i ∈ [(3 : SlotIx), 10, 11, 0], busy.handleAt (handleBytes i) 0 = some i ∧ (handleBytes i).length = 2) ∧
    (busy.claim 3).map Claim.state = some .retiring ∧ (busy.claim 10).map Claim.state = some .spent ∧
    (busy.claim 11).map (fun c => (c.state, c.pinned)) = some (.suspended, true) ∧
    (busy.claim 0).map (fun c => (c.state, c.pinned)) = some (.inForce, false) :=
  ⟨busy_can_take .a, rfl, rfl, by decide +kernel, by decide +kernel⟩

/-- DR's head alone, Link C's, at a duty above 0. -/
def headOfC : State := gateOnly.putClaim 3 (driveClaim .c .dr .inForce (forward 0) 0)

/-- Link B has live claims, a SPENT one, a notice and a hold; Link C a RETIRING claim and a pinned one. An EVICT of
Link C leaves its RETIRING claim, frees its STANDBY one, and winds a head alone down; an EVICT of Link B closes GT
over it. -/
theorem witness_EvictAndAdmit :
    busy.canTake .a ∧ Link.a = busy.setup.authority ∧ busy.setup.part = .run ∧ [3#8].length = 1 ∧ 2 < natAt [3#8] 0 ∧
    byteAt [0#8] 0 = linkByte .a ∧ Link.b ≠ .a ∧ TableInv busy ∧ ListInv busy ∧ LifeInv busy ∧ TagInv busy ∧
    AuthorityInv busy ∧
    ((busy.claim 10).map (fun c => (c.owner, c.state)) = some (.b, .spent) ∧
      (busy.claim 11).map (fun c => (c.owner, c.pinned)) = some (.c, true) ∧
      (busy.claim 3).map (fun c => (c.owner, c.state)) = some (.c, .retiring) ∧
      (after (.evict .a [0x02#8]) busy).claim 3 = busy.claim 3) ∧
    ((busy.claim 1).map (fun c => (c.owner, c.pinned, c.state.ongoing)) = some (.c, false, true) ∧
      (after (.evict .a [0x02#8]) busy).slots[(1 : SlotIx)] = ⟨1, none⟩ ∧
      ((after (.evict .a [0x02#8]) headOfC).claim 3).map (fun c => (c.state, c.endCause, c.deadline)) =
        some (.retiring, some .retire, none)) ∧
    (TableInv gateOnly ∧ ListInv gateOnly ∧ LifeInv gateOnly ∧ TagInv gateOnly ∧ AuthorityInv gateOnly ∧
      ((after (.evict .a [0x01#8]) gateOnly).claim 3).map Claim.state = some .spent) ∧ busy.tagFree .a 0#16 :=
  ⟨busy_can_take .a, rfl, rfl, rfl, by decide, by decide, by decide, busy_table, busy_list, busy_life, busy_tag,
    busy_authority, by decide +kernel, by decide +kernel,
    ⟨gateOnly_table, gateOnly_list, lifeInv_of_check (by decide +kernel), tagInv_of_check (by decide +kernel),
      ⟨by decide, by decide +kernel⟩, by decide +kernel⟩, .inl rfl⟩

theorem witness_SetupRequestsWrite :
    State.reset.canTake .a ∧ Link.a = State.reset.setup.authority ∧ State.reset.setup.part = .config ∧
    (48 : Nat) ≤ 48 ∧ (1 ≤ 1 ∧ 32 ≤ (32 : Nat)) ∧ (15 : Nat) ≤ 15 ∧
    (¬∃ c w, 1 ≤ w ∧ w ≤ 32 ∧ [0x20#8] = [(Resource.analog c).byte, numByte w]) ∧
    (¬∃ e f, f ≤ 15 ∧ [0x30#8] = [(Resource.edge e).byte, numByte f]) ∧
    (¬∃ d ha hb, [0x10#8] = [(Resource.drive d).byte, polarityByte ha, polarityByte hb]) ∧
    (¬∃ t m, m.quota ≤ 48 ∧ [0x00#8] = reachBytes t m) ∧ [0#8] ≠ [] :=
  ⟨config_can_take .a, rfl, rfl, by decide, by decide, by decide, by simp, by simp, by simp, by simp [reachBytes], by simp⟩

/-- The byte of a number outside a range is the byte of no number within it. -/
theorem numByte_outside {n : Nat} (hn : n < 256) {lo hi : Nat} (hhi : hi < 256) (bad : n < lo ∨ hi < n) :
    ¬∃ m, lo ≤ m ∧ m ≤ hi ∧ numByte n = numByte m := by
  rintro ⟨m, h₁, h₂, h⟩
  have := congrArg BitVec.toNat h
  rw [numByte_toNat hn, numByte_toNat (by omega)] at this
  omega

/-- Bodies of the right length just outside the ranges: windows of 0 and 33 µs, a filter of 16 µs, a quota of 49, a
class of 4, drive bits past DB, a polarity of 2. -/
theorem witness_SetupRequestsWrite_values :
    (∀ n ∈ [0, 33], ¬∃ c w, 1 ≤ w ∧ w ≤ 32 ∧ [(Resource.analog 0).byte, numByte n] = [(Resource.analog c).byte, numByte w]) ∧
    (¬∃ e f, f ≤ 15 ∧ [(Resource.edge 0).byte, numByte 16] = [(Resource.edge e).byte, numByte f]) ∧
    (¬∃ t m, m.quota ≤ 48 ∧ reachBytes .b ⟨7#3, 3#2, 0xFFF#12, 0xFF#8, 1, 49⟩ = reachBytes t m) ∧
    (¬∃ t m, m.quota ≤ 48 ∧ [0x01#8, 0x07#8, 0x03#8, 0x0F#8, 0xFF#8, 0xFF#8, 0x04#8, 0x30#8] = reachBytes t m) ∧
    (¬∃ t m, m.quota ≤ 48 ∧ [0x01#8, 0x08#8, 0x03#8, 0x0F#8, 0xFF#8, 0xFF#8, 0x03#8, 0x30#8] = reachBytes t m) ∧
    ¬∃ d ha hb, [(Resource.drive .dl).byte, 0x00#8, 0x02#8] = [(Resource.drive d).byte, polarityByte ha, polarityByte hb] := by
  refine ⟨fun n hn => ?_, ?_, ?_, ?_, ?_, ?_⟩
  · rintro ⟨c, w, h₁, h₂, h⟩
    simp only [List.mem_cons, List.not_mem_nil, or_false] at hn
    exact numByte_outside (n := n) (by omega) (by decide) (by omega) ⟨w, h₁, h₂, by simpa using (List.cons.inj h).2⟩
  · rintro ⟨e, f, h₁, h⟩
    exact numByte_outside (n := 16) (lo := 0) (by decide) (by decide) (by decide)
      ⟨f, Nat.zero_le _, h₁, by simpa using (List.cons.inj h).2⟩
  · rintro ⟨t, m, h₁, h⟩
    exact numByte_outside (n := 49) (lo := 0) (by decide) (by decide) (by decide)
      ⟨m.quota, Nat.zero_le _, h₁, congrArg (fun bs => byteAt bs 7) h⟩
  · rintro ⟨t, m, -, h⟩
    exact numByte_outside (n := 4) (lo := 0) (hi := 3) (by decide) (by decide) (by decide)
      ⟨m.cls.val, Nat.zero_le _, by omega, congrArg (fun bs => byteAt bs 6) h⟩
  · rintro ⟨t, m, -, h⟩
    exact numByte_outside (n := 8) (lo := 0) (hi := 7) (by decide) (by decide) (by decide)
      ⟨m.drive.toNat, Nat.zero_le _, by omega, congrArg (fun bs => byteAt bs 1) h⟩
  · rintro ⟨d, ha, hb, h⟩
    cases hb <;> simp [polarityByte] at h

/-! ### Events of time and of pins -/

/-- The converter free, with no request waiting. -/
def freeConverter : State := { busy with arbiter := arbiterAtReset }

theorem witness_CadenceAdvanceRaisesRequests :
    busy.resetHeld = false ∧ TableInv busy ∧ ClockInv busy ∧ RangeInv busy ∧ ArbiterInv busy ∧
    busy.arbiter.inFlight ≠ none ∧ freeConverter.arbiter.inFlight = none ∧ TableInv freeConverter ∧
    ArbiterInv freeConverter ∧
    ((freeConverter.dueInterval 0).any fun k => decide (2 ^ k ∣ (freeConverter.clock.cadence + 1#32).toNat)) = true ∧
    (∀ c, empty.dueInterval c = none ∧ empty.arbiter.waiting[c] = none) ∧ TableInv empty ∧ RangeInv empty ∧
    ArbiterInv empty ∧ ClockInv empty ∧ (momentsWait.clock.momentsWait = true ∧ ClockInv momentsWait) ∧
    ∃ q, busy.arbiter.waiting[(0 : AnalogCh)] = some q ∧ 6 ∈ q.due :=
  ⟨rfl, busy_table, busy_clock, busy_range, busy_arbiter, by decide, rfl,
    tableInv_of_check (by decide +kernel), arbiterInv_of_check (by decide +kernel),
    by decide +kernel, by decide +kernel, tableInv_of_check (by decide +kernel), rangeInv_of_check (by decide +kernel),
    arbiterInv_of_check (by decide +kernel), clockInv_of_check (by decide +kernel),
    ⟨rfl, clockInv_of_check (by decide +kernel)⟩, ⟨_, rfl, by decide⟩⟩

theorem witness_CadenceAdvanceWorksEdgeMoments :
    busy.resetHeld = false ∧ (∀ i ∈ [(7 : SlotIx), 8, 9], ∃ c, busy.claim i = some c ∧ c.resource = .edge 0 ∧
      ∃ b r, c.payload = .esense b r ∧ 2 ^ b.interval ∣ (busy.clock.cadence + 1#32).toNat) := by
  refine ⟨rfl, fun i hi => ?_⟩
  simp only [List.mem_cons, List.not_mem_nil, or_false] at hi
  rcases hi with rfl | rfl | rfl <;> exact ⟨_, rfl, rfl, _, _, rfl, by decide⟩

/-- GT's wrap 150 clocks ahead, at the end of the tick and one clock beyond it; and a wrap that is 4 clocks late. -/
theorem witness_PeriodEndWorksThePhases :
    busy.resetHeld = false ∧ busy.gateIsOpen .gb = false ∧ busy.gateIsOpen .gt = true ∧ TableInv busy ∧
    Drive.db.parent ≠ .gt ∧ Drive.dl.parent = .gt ∧ (busy.gates.get .gt).applied.getD 1 - (10 + 0) = 150 ∧
    (tickEnd 1850).clock.divider + 150 ≤ 2000 ∧ 2000 < (tickEnd 1851).clock.divider + 150 ∧ ClockInv (tickEnd 1850) ∧
    ((lastCount 5).gates.get .gt).counter + ((lastCount 5).gates.get .gt).waited -
      ((lastCount 5).gates.get .gt).applied.getD 1 = 4 :=
  ⟨rfl, rfl, rfl, busy_table, by decide, by decide, by decide, by decide, by decide, clockInv_of_check (by decide),
    by decide⟩

/-- DL's head one counted period before the end of its burst, with a claim behind it. -/
def finishing : State := busy.putClaim 0 (driveClaim .b .dl .inForce (forward 3) 1)

/-- The burst finishes: the claim behind becomes head, IN_FORCE, with TAKEN, and a claim that is no head stands. -/
theorem witness_PeriodEndReports_nextHead :
    TableInv finishing ∧ ListInv finishing ∧ finishing.driveList .dl = [0, 1] ∧
    ((after (.periodEnd .gt) finishing).head .dl = some 1 ∧
      ((after (.periodEnd .gt) finishing).claim 1).map Claim.state = some .inForce ∧
      (∃ e ∈ (after (.periodEnd .gt) finishing).notices.get .c, e.slot = 1 ∧ e.has .taken = true) ∧
      (after (.periodEnd .gt) finishing).claim 4 = finishing.claim 4) :=
  ⟨tableInv_of_check (by decide +kernel),
    listInv_of_check (by decide +kernel) (by decide +kernel) (by decide +kernel) (by decide +kernel),
    by decide +kernel, by decide +kernel⟩

/-- A period end over: a burst counted and not finished; a burst that finishes with a claim behind it; a RETIRING head
and a finished head alone whose duty reaches 0; a head that runs without a burst. -/
theorem witness_PeriodEndReports :
    busy.resetHeld = false ∧ busy.gateIsOpen .gt = true ∧ TableInv busy ∧ ListInv busy ∧ TableInv finished ∧
    ListInv finished ∧ busy.clock.divider + ((busy.gates.get .gt).applied.getD 1 -
      ((busy.gates.get .gt).counter + (busy.gates.get .gt).waited)) ≤ 2000 ∧ (∀ s, exec (.periodEnd .gt) s = .next (after (.periodEnd .gt) s)) ∧
    (busy.driveList .dl = [0, 1] ∧ busy.driveList .dr = [3] ∧ finished.driveList .dl = [0]) ∧
    (busy.wanted .dl = (busy.drives.get .dl).pattern ∧ (busy.drives.get .dl).phase = .running) ∧
    0 < ((after (.periodEnd .gt) busy).drives.get .dl).duty ∧ ((after (.periodEnd .gt) busy).drives.get .dr).duty = 0 ∧
    ((after (.periodEnd .gt) (finished.setDrive .dl ⟨.running, 100, .forward, 0⟩)).drives.get .dl).duty = 0 ∧
    (((busy.putClaim 0 (driveClaim .b .dl .inForce (forward 3) 1)).headView .dl).map HeadView.burstLeft = some 1 ∧
      (busy.setDrive .dl ⟨.running, 512, .reverse, 80⟩).wanted .dl ≠ .reverse) :=
  ⟨rfl, rfl, busy_table, busy_list, tableInv_of_check (by decide +kernel),
    listInv_of_check (by decide +kernel) (by decide +kernel) (by decide +kernel) (by decide +kernel),
    by decide +kernel, exec_after _, by decide +kernel⟩

/-- The converter at some clock of the tick, with a completion that stands at a stamp. -/
def convertingTo (divider : Nat) (completesAt : Count32) : State :=
  { tickEnd divider with arbiter := { busy.arbiter with inFlight := some ⟨0, 0#32, [6], completesAt⟩ } }

/-- A completion at the end of the tick, 6 µs ahead and 119 µs gone, and one µs beyond it; and one that is late. -/
theorem witness_ConversionCompleteDelivers :
    busy.resetHeld = false ∧ freeConverter.arbiter.inFlight = none ∧
    (∃ f, busy.arbiter.inFlight = some f ∧ 6 ∈ f.due ∧ (7 : SlotIx) ∉ f.due) ∧ TableInv busy ∧ RangeInv busy ∧
    ArbiterInv busy ∧ busy.arbiter.waiting[(0 : AnalogCh)] ≠ none ∧
    (∀ c : AnalogCh, ({ busy.arbiter with waiting := Vector.replicate 12 none } : Arbiter).waiting[c] = none) ∧
    (∀ s ∈ [convertingTo 1904 125#32, convertingTo 1904 126#32, convertingTo 1904 118#32], ClockInv s) ∧
    (1904 / 16 + (125#32 - (convertingTo 1904 125#32).clock.stamp).toNat ≤ 125 ∧
      125 < 1904 / 16 + (126#32 - (convertingTo 1904 126#32).clock.stamp).toNat ∧
      2 ^ 31 ≤ (118#32 - (convertingTo 1904 118#32).clock.stamp).toNat) := by
  refine ⟨rfl, rfl, ⟨_, rfl, by decide⟩, busy_table, busy_range, busy_arbiter, by decide +kernel, by decide +kernel,
    fun s hs => clockInv_of_check ?_, by decide⟩
  exact (show ∀ s ∈ [convertingTo 1904 125#32, convertingTo 1904 126#32, convertingTo 1904 118#32], ClockCheck s by
    decide +kernel) s hs

/-- E0 LOW; with a change pending since stamp 0 for the 2 µs of its filter: a pin that returns at 1 µs and at 2, an
acceptance 2 µs ahead, and one beyond the tick; with a filter of 0 µs. The three edge claims of E0, and E1, that has
none. -/
theorem witness_GlitchFilterAndAcceptedEdges :
    busy.resetHeld = false ∧ (124 : Nat) < 125 ∧ busy.inputs[(0 : EdgeIn)].pin = .low ∧
    busy.inputs[(0 : EdgeIn)].pin ≠ .high ∧ busy.inputs[(0 : EdgeIn)].pending = none ∧
    busy.inputs[(0 : EdgeIn)].filter ≠ 0 ∧ ClockInv busy ∧ busy.clock.divider ≤ 16 * 0 ∧
    (16 * 124 < (tickEnd 2000).clock.divider ∧ (tickEnd 2000).inputs[(0 : EdgeIn)].pin ≠ .high) ∧
    ((pendingSince 0).inputs[(0 : EdgeIn)].pending = some ⟨0#32, 2⟩ ∧ (pendingSince 0).inputs[(0 : EdgeIn)].pin = .high ∧
      (1#32 - 0#32 : Count32).toNat < 2 ∧ 2 ≤ (2#32 - 0#32 : Count32).toNat ∧ ClockInv (pendingSince 0)) ∧
    (0 / 16 + (2 - ((pendingSince 0).clock.stamp - 0#32).toNat) ≤ 125 ∧
      125 < 2000 / 16 + (2 - (((tickEnd 2000).clock.stamp - 124#32).toNat)) ∧ ClockInv (tickEnd 2000)) ∧
    (busy.setInput 0 ⟨.low, none, 0⟩).inputs[(0 : EdgeIn)].filter = 0 ∧
    (∃ c b r, busy.claim 7 = some c ∧ c.payload = .esense b r ∧ c.resource = .edge 0 ∧ c.state = .active ∧
      b.mode ≠ .level ∧ b.edge.takes .high = true) ∧
    (∃ c b r, busy.claim 9 = some c ∧ c.payload = .esense b r ∧ b.mode = .level) :=
  ⟨rfl, by decide, by decide +kernel, by decide +kernel, by decide +kernel, by decide +kernel, busy_clock, by decide,
    by decide +kernel, ⟨by decide +kernel, by decide +kernel, by decide, by decide, clockInv_of_check (by decide)⟩,
    ⟨by decide, by decide, clockInv_of_check (by decide)⟩, by decide +kernel,
    ⟨_, _, _, rfl, rfl, rfl, rfl, by decide, by decide⟩, ⟨_, _, _, rfl, rfl, rfl⟩⟩

/-! ### Arithmetic -/

/-- The rows of R63 and of R64. -/
theorem witness_EffectiveTargetAndRamp :
    busy.headView .dl = some ⟨0, .inForce, forward 3, 2⟩ ∧ effectiveTarget (busy.headView .dl) = 512 ∧
    effectiveTarget (busy.headView .dr) = 0 ∧ effectiveTarget (finished.headView .dl) = 0 ∧
    effectiveTarget (some ⟨0, .inForce, ⟨512, .brake, 0, 0⟩, 0⟩) = 0 ∧
    moveToward 512 0 100 = 512 ∧ moveToward 512 100 100 = 200 ∧ moveToward 512 1024 100 = 512 ∧
    moveToward 0 100 512 = 412 ∧ moveToward 0 100 50 = 0 ∧ moveToward 7 100 7 = 7 := by decide +kernel

/-- The smoothing step at its corners (R111): first delivery, a gap below 2^s above and below, an exact step. -/
theorem witness_SmoothingStep :
    smooth 4 none 4095 = 4095 ∧ smooth 4 (some 100) 115 = 100 ∧ smooth 4 (some 100) 116 = 101 ∧
    smooth 4 (some 100) 99 = 99 ∧ smooth 2 (some 4095) 0 = 3071 ∧ smooth 0 (some 4095) 0 = 0 := by decide

/-- Deliveries at a band's corners (R112, R113): a value at the limit, past it, and through the band in one. -/
theorem witness_DeliveryWorksTheBand :
    (limits.lowLimit ≤ limits.highLimit) ∧
    (analogDeliver limits 3000 analogNew).run.band = .inBand ∧ (analogDeliver limits 3001 analogNew).run.band = .high ∧
    (analogDeliver limits 3001 analogNew).trip = some .high ∧ (analogDeliver limits 1000 analogNew).trip = none ∧
    (analogDeliver limits 999 { analogNew with band := .high }).run.band = .low ∧
    (analogDeliver limits 2990 { analogNew with band := .high }).posts = [.sample, .band] ∧
    (analogDeliver limits 2991 { analogNew with band := .high }).posts = [.sample] ∧
    (analogDeliver { limits with debounce := 2 } 3001 analogNew).run.above = 1 ∧
    (analogDeliver { limits with debounce := 2 } 3001 { analogNew with above := 1 }).trip = some .high ∧
    (analogDeliver { limits with debounce := 2 } 999 { analogNew with below := 1 }).trip = some .low := by decide

/-- Edges and interval moments at their corners (R132 to R135): a period of 0 and one past the range, a stall, its end,
a level that settles. -/
theorem witness_EdgeClaimsMeasureAndStall :
    (edgeHanded (watch .period) 9#32 { edgeNew with lastStamp := some 9#32 }).run.lastPeriod = some 1 ∧
    (edgeHanded (watch .period) 8#32 { edgeNew with lastStamp := some 9#32 }).run.lastPeriod = some 16777215 ∧
    (edgeHanded (watch .period) 9#32 { edgeNew with stalled := true }).posts = [.motion] ∧
    (edgeHanded (watch .count) 9#32 { edgeNew with running := 65535 }).run.running = 65535 ∧
    (edgeMoment (watch .period) .low edgeNew).trip = some .stall ∧
    (edgeMoment { watch .period with stallLimit := 0 } .low { edgeNew with stallCount := 255 }).run.stallCount = 255 ∧
    (edgeMoment (watch .count) .low { edgeNew with fresh := true }).posts = [.overwrite, .sample, .motion] ∧
    (edgeMoment (watch .count) .low { edgeNew with running := 1, stalled := true }).posts = [.sample, .motion] ∧
    (edgeMoment (watch .level) .high edgeNew).trip = some .level ∧
    (edgeMoment { watch .level with debounce := 2 } .high edgeNew).run.candidate = 1 ∧
    (edgeMoment (watch .level) .low { edgeNew with candidate := 7 }).run.candidate = 0 ∧
    (edgeHanded (watch .period) 9#32 edgeNew).posts = [] ∧
    (edgeMoment (watch .period) .low { edgeNew with edgeSeen := true }).run = edgeNew ∧
    (edgeMoment (watch .period) .low { edgeNew with stalled := true }).trip = none ∧
    (edgeMoment (watch .count) .low { edgeNew with stalled := true }).posts = [.sample] ∧
    (edgeMoment { watch .count with stallLimit := 2 } .low edgeNew).posts = [.sample] := by decide

theorem witness_DueMomentsAndMergedDemands :
    (10 : Nat) ≤ 10 ∧ dueAt 1024#32 10 = true ∧ dueAt 1025#32 10 = false ∧ RangeInv busy ∧
    busy.members (.analog 0) = [6] ∧ busy.members (.analog 1) = [] :=
  ⟨by decide, by decide, by decide, busy_range, by decide +kernel⟩

/-- A1 alone waits, at level 3. -/
def atLevel3 : State :=
  let s := empty.putClaim 6 (senseClaim .b (.analog 1) (.asense { limits with urgency := 3 } analogNew))
  { s with arbiter := { s.arbiter with waiting := s.arbiter.waiting.set 1 (some ⟨0#32, [6]⟩) } }

/-- The decision comes down both chits to A1. -/
theorem witness_GrantDecisionTakesMembers_chits :
    let v1 := atLevel3.visit 1
    let v2 := v1.2.visit 2
    let v3 := v2.2.visit 3
    v1.1 = some .c2 ∧ v2.1 = some .c3 ∧ v3.1 = some (.channel 1) ∧ (busy.visit 1).1 = some (.channel 0) := by
  decide +kernel

/-- A0 waits at level 1, with its mark clear and with it set; A1's list has none that wait. -/
theorem witness_GrantDecisionTakesMembers :
    (∃ after, busy.levelList 1 = [] ++ .channel 0 :: after) ∧ busy.requesting (.channel 0) = true ∧
    Arbiter.marked busy.arbiter (.channel 0) = false ∧
    (∀ x ∈ busy.levelList 1, busy.requesting x = true → x = .channel 0) ∧
    busy.arbiter.waiting[(0 : AnalogCh)] = some ⟨0#32, [6]⟩ ∧ busy.level 0 = some 1 ∧
    (∀ c : AnalogCh, Arbiter.marked busy.arbiter (.channel c) = false) ∧
    Arbiter.marked busy.arbiter .c2 = false ∧ Arbiter.marked busy.arbiter .c3 = false ∧
    (∀ c : AnalogCh, busy.arbiter.waiting[c] ≠ none → busy.level c = some 1 ∧ 0 ≤ c) ∧
    (∀ c : AnalogCh, c ≠ 0 → busy.arbiter.waiting[c] = none) ∧
    ∀ x ∈ busy.levelList 1, busy.requesting x = true →
      Arbiter.marked (Arbiter.setMark busy.arbiter (.channel 0) true) x = true :=
  ⟨⟨[.c2], by decide +kernel⟩, by decide +kernel⟩

/-! ### Invariants, with a command that acts -/


theorem reset_config : ConfigInv State.reset := configInv_of_check (by decide +kernel)

/-- The premises of StepKeepsTableAndNotices, StepKeepsListOrderAndStates, StepKeepsQuotasAndTags, StepKeepsDeadlines,
ConfigSetupClocksAndAuthority, StepKeepsRequestsAndMarks, StepKeepsGatesWithVotes and StepKeepsRanges at one state, with
a step from it that acts. -/
theorem witness_invariants :
    (StopInv busy ∧ TableInv busy ∧ ListInv busy ∧ QuotaInv busy ∧ TagInv busy ∧ LifeInv busy ∧ NoticeInv busy) ∧
    (ConfigInv busy ∧ ConfigInv State.reset ∧ ClockInv busy ∧ AuthorityInv busy) ∧
    (MarksInv busy ∧ ArbiterInv busy ∧ GateInv busy ∧ RangeInv busy) ∧
    ∃ t, step (queued (.periodEnd .gt) busy) = .next t :=
  ⟨⟨busy_stop, busy_table, busy_list, busy_quota, busy_tag, busy_life, busy_notice⟩,
    ⟨busy_config, reset_config, busy_clock, busy_authority⟩,
    ⟨busy_marks, busy_arbiter, busy_gate, busy_range⟩, ⟨_, step_queued _ _⟩⟩

/-- DR below its target in RUNNING: a period end that raises a duty. -/
theorem witness_DutyIsZeroUnlessRunning :
    let s := busy.setDrive .dl ⟨.running, 100, .forward, 15⟩
    StopInv s ∧ exec (.periodEnd .gt) s = .next (after (.periodEnd .gt) s) ∧
      (s.drives.get .dl).duty < ((after (.periodEnd .gt) s).drives.get .dl).duty ∧
      (busy.drives.get .db).phase ∈ [Phase.halted, .idle, .switching, .dwell] ∧ busy.gateIsOpen .gb = false :=
  ⟨stopInv_of_check (by decide +kernel), exec_after _ _, by decide +kernel⟩

/-- DL in SWITCHING, toward FORWARD. -/
def switching : State := busy.setDrive .dl ⟨.switching, 0, .coast, 0⟩

/-- A period end that changes DL's pattern. DL, DR and DB in the four patterns, DL before and after its
compare count; and a SET_DRIVE in CONFIG. -/
theorem witness_PatternChangesOnlyAtZeroDuty :
    (StopInv switching ∧ exec (.periodEnd .gt) switching = .next (after (.periodEnd .gt) switching) ∧
      ((after (.periodEnd .gt) switching).drives.get .dl).pattern ≠ (switching.drives.get .dl).pattern) ∧
    (busy.setup.polarity.get .dl = ⟨.activeHigh, .activeHigh⟩ ∧ busy.drivePins .dl = (.high, .low) ∧
      (lastCount 0).drivePins .dl = (.low, .low) ∧ busy.drivePins .db = (.high, .high) ∧
      (busy.setDrive .dr ⟨.running, 100, .reverse, 15⟩).drivePins .dr = (.low, .high) ∧
      (busy.setDrive .dr ⟨.idle, 0, .coast, 0⟩).drivePins .dr = (.low, .low)) ∧
    (State.reset.canTake .a ∧ Link.a = State.reset.setup.authority ∧ State.reset.setup.part = .config ∧
      ConfigInv State.reset ∧ GateInv State.reset ∧ StopInv State.reset ∧
      (after (.setDrive .a [(Resource.drive .dr).byte, polarityByte .activeLow, polarityByte .activeHigh])
        State.reset).drivePins .dr = (.high, .low)) :=
  ⟨⟨stopInv_of_check (by decide +kernel), exec_after _ _, by decide +kernel⟩, by decide +kernel,
    config_can_take .a, rfl, rfl, reset_config, gateInv_of_check (by decide +kernel), stopInv_of_check (by decide +kernel),
    by decide +kernel⟩

/-- A period end leaves slot 0 occupied, with its burst counted, and so does a refused frame. -/
theorem witness_ClaimFieldsChangeAtTheirEvents :
    exec (.periodEnd .gt) busy = .next (after (.periodEnd .gt) busy) ∧
    (∀ l body, Instr.periodEnd .gt ≠ .openClaim l body) ∧ (∀ l body, Instr.periodEnd .gt ≠ .amend l body) ∧
    (∀ l body, Instr.periodEnd .gt ≠ .pin l body) ∧ (∀ l body, Instr.periodEnd .gt ≠ .evict l body) ∧
    (∀ l more, Instr.periodEnd .gt ≠ .frameRefused l more) ∧
    (busy.claim 0).isSome = true ∧ ((after (.periodEnd .gt) busy).claim 0).isSome = true ∧
    (∀ l more, Instr.frameRefused .a [] = .frameRefused l more → frameError (busy.received l ++ more) ≠ none) ∧
    ((after (.frameRefused .a []) busy).claim 0).isSome = true :=
  ⟨exec_after _ _, by simp, by simp, by simp, by simp, by simp, by decide +kernel, by decide +kernel,
    by rintro l more h; obtain ⟨rfl, rfl⟩ := Instr.frameRefused.inj h; decide +kernel, by decide +kernel⟩

/-- In RUN, a command that is no reset, on a part that is not held in reset. -/
theorem witness_ConfigSetupClocksAndAuthority :
    busy.setup.part = .run ∧ Instr.cadenceAdvance ≠ .powerOnReset ∧ busy.resetHeld = false ∧
    exec .cadenceAdvance busy = .next (after .cadenceAdvance busy) := ⟨rfl, by decide, rfl, exec_after _ _⟩

/-! ### One step of a few commands -/

/-- The claim that an OPEN of DL leaves in slot 0, from a part in RUN with no claim, and its response. -/
theorem test_open_drive :
    let t := after (.openClaim .b (openBytes (.drive .dl) 7#16 (fields (.drive (forward 3))))) empty
    t.claim 0 = some { driveClaim .b .dl .suspended (forward 3) 3 with tag := 7#16, wantsSample := true } ∧
    t.driveList .dl = [0] ∧ t.notices.get .b = [⟨0, NoticeKind.bit .taken⟩] ∧
    (t.ports.get .b).held = some ⟨0x10#8, .ok, .claim ⟨0, 0⟩ .suspended⟩ := by decide +kernel

/-- A gate's first OPEN vote opens it, at counter 0 with the claim's period. -/
theorem test_open_gate :
    let t := after (.openClaim .a (openBytes (.gate .gt) 0#16 ⟨0, false, .gate ⟨.votesOpen, 1600, .coast⟩⟩)) empty
    t.gates.get .gt = ⟨true, 0, 0, some 1600, none, .coast, []⟩ ∧ (t.drives.get .dl).phase = .idle ∧
    t.notices.get .a = [⟨0, NoticeKind.bit .gateOpen⟩] := by decide +kernel

/-- A period end: the counted burst, the compare counts, and a RETIRING head at the end of its course. -/
theorem test_period_end :
    let t := after (.periodEnd .gt) busy
    (t.claim 0).map Claim.payload = some (.drive (forward 3) 1) ∧ (t.drives.get .dl).compare = 80 ∧
    (t.claim 3).map Claim.state = some .spent ∧ t.driveList .dr = [] ∧
    t.notices.get .c = [⟨3, NoticeKind.bit .retired⟩] := by decide +kernel

/-- A completion above the high limit: the delivery, no second BAND for a claim already HIGH, and the request that
waits granted for 4 + 2 µs. -/
theorem test_conversion_complete :
    let t := after (.conversionComplete 4000#12) busy
    (t.claim 6).map Claim.payload =
      some (.asense limits { analogNew with raw := some 4000, smoothed := some 4000, band := .high, fresh := true }) ∧
    t.arbiter.inFlight = some ⟨0, 0#32, [6], 12#32⟩ ∧ t.arbiter.waiting[(0 : AnalogCh)] = none := by decide +kernel

/-- A trip taken: the hold, the gate closed under the channels, TRIP posted to the claim. -/
theorem test_trip_taken :
    let t := after (.tripTaken .gt) busy
    (t.gates.get .gt).holds = [⟨.edge 0, .stall, .coast, .b⟩] ∧ t.gateIsOpen .gt = false ∧
    t.drives.get .dl = ⟨.halted, 0, .coast, 0⟩ ∧ (t.claim 0).map Claim.state = some .suspended ∧
    (∃ e ∈ t.notices.get .b, e.slot = 7 ∧ e.has .trip = true) := by decide +kernel

/-- An eviction of Link C: its pinned claim is the authority link's, its STANDBY claim is gone. -/
theorem test_evict :
    let t := after (.evict .a [0x02#8]) busy
    (t.claim 11).map Claim.owner = some .a ∧ t.claim 1 = none ∧ (t.handle 1).gen = 1 ∧
    (t.claim 3).map Claim.state = some .retiring ∧ t.barred .c = true ∧
    (t.ports.get .a).held = some ⟨0x31#8, .ok, .evicted 2 1 0⟩ := by decide +kernel

/-- A pin that moves for its whole filter time: the change pending, then the accepted edge at its stamp. -/
theorem test_edge_accepted :
    let t := after (.edgePinChange 0 .high 50) busy
    t.inputs[(0 : EdgeIn)] = ⟨.low, some ⟨50#32, 2⟩, 2⟩ ∧
    (after (.acceptedEdge 0) t).inputs[(0 : EdgeIn)] = ⟨.high, none, 2⟩ ∧
    ((after (.acceptedEdge 0) t).claim 7).map Claim.payload =
      some (.esense (watch .period) { edgeNew with lastStamp := some 50#32, edgeSeen := true }) := by decide +kernel

/-- GT opened with a period of 1600 clocks, at the beginning of a tick. -/
def opened : State :=
  after (.openClaim .a (openBytes (.gate .gt) 0#16 ⟨0, false, .gate ⟨.votesOpen, 1600, .coast⟩⟩)) empty

/-- GT's period ends at its instant, wherever its command is taken: 1600 clocks after it opens at the beginning of a
tick, with the 400 clocks that are left of the tick counted when the count advances (R47). -/
theorem test_period_end_within_tick :
    let t := after (.periodEnd .gt) opened
    t.clock.divider = 1600 ∧ (t.gates.get .gt).counter = 0 ∧
    ((after .cadenceAdvance t).gates.get .gt).counter = 400 := by decide +kernel

/-- A completion at the tick's end, taken before the count advances: the next conversion is timed from it (R94, R99). -/
theorem test_completion_at_tick_end :
    let t := after (.conversionComplete 2000#12) (convertingTo 0 125#32)
    t.clock = ⟨2000, 0#32, 125#32, false⟩ ∧ t.arbiter.inFlight = some ⟨0, 0#32, [6], 131#32⟩ := by decide +kernel

/-- A pulse shorter than the filter time leaves nothing; one that stands for it is accepted when the pin returns, and
the return pends from its own stamp (R127). -/
theorem test_pulse_and_filter :
    let up := after (.edgePinChange 0 .high 50) busy
    (after (.edgePinChange 0 .low 51) up).inputs[(0 : EdgeIn)] = ⟨.low, none, 2⟩ ∧
    (after (.edgePinChange 0 .low 52) up).inputs[(0 : EdgeIn)] = ⟨.high, some ⟨52#32, 2⟩, 2⟩ := by decide +kernel

/-- A hold expiry taken ahead of the advance to its deadline (R82, R84): the claim has ended and the count stands at the
deadline, a RENEW between them sets its deadline from that count, and the advance takes the moments of that count. -/
theorem test_expiry_before_advance :
    let t := after (.holdExpiry 0) (countAt 799#32)
    (t.claim 0).map Claim.endCause = some (some .lapse) ∧ t.clock = ⟨0, 800#32, 100000#32, true⟩ ∧
    (((after (.renew .c (handleBytes 1)) t).claim 1).map Claim.deadline = some (some 1600#32)) ∧
    t.takeCount.clock = ⟨0, 800#32, 100000#32, false⟩ ∧
    (t.takeCount.scheduleAdvance.arbiter.waiting[(0 : AnalogCh)]).map ConvRequest.moment = some 800#32 := by
  decide +kernel

/-- The first window after reset shows the empty frame, and the POLL that it brings reports CONFIG and 48 slots. -/
theorem test_first_window :
    let t := after (.windowBegin .c) State.reset
    (List.range 5).map (t.misoByte .c) = [some 0x00#8, some 0x01#8, some 0x00#8, some 0x15#8, some 0x00#8] ∧
    t.received .c = [] ∧ t.misoBit .c = some false ∧
    ((after (.poll .c []) t).ports.get .c).held = some ⟨0x00#8, .ok, .poll .config 0 false 48⟩ := by decide +kernel

/-- Bits that pass every check are the request their code names: RETIRE, LOCK_SETUP and RENEW of all. -/
theorem test_bits_taken_as_their_request :
    after (.frameRefused .c (sent (requestFrame 0x13#8 [0x01#8, 0x00#8] []))) busy =
      after (.retire .c [0x01#8, 0x00#8]) busy ∧
    after (.frameRefused .a (sent (requestFrame 0x44#8 [] []))) State.reset = after (.lockSetup .a []) State.reset ∧
    after (.frameRefused .b (sent (requestFrame 0x12#8 [] []))) busy = after (.renewAll .b) busy := by decide +kernel

/-- MISO shows the empty frame 00h 01h 00h 15h bit by bit, by the number of bits received. -/
theorem test_miso_bits :
    (∀ n ∈ [0, 8, 15, 16, 27, 29, 31, 32, 247], (midWindow (List.replicate n true)).misoBit .a =
      some (decide (n ∈ [15, 27, 29, 31]))) := by decide +kernel

end Sys2Proof.Tests
end

section
/-! SUPPORT. The value steps of OPEN and AMEND: a body that is read is the layout of R165 of the fields it is read as,
and these are in range. -/

namespace Sys2Proof.Machine

/-! ### Bytes of a body by their places -/

/-- The first bytes of a body are the bytes at its first places. -/
theorem take_eq_map_byteAt {body : List Byte} {n : Nat} (h : n ≤ body.length) :
    body.take n = (List.range n).map (byteAt body) := by
  refine List.ext_getElem (by simp [h]) fun i hi _ => ?_
  have hlt : i < body.length := by simp at hi; omega
  simp [byteAt, hlt]

/-- A body is the bytes at its first places and the rest. -/
theorem eq_map_byteAt_append_drop {body : List Byte} {n : Nat} (h : n ≤ body.length) :
    body = (List.range n).map (byteAt body) ++ body.drop n := by
  rw [← take_eq_map_byteAt h, List.take_append_drop]

/-- A body of a known length is the bytes at its places. -/
theorem eq_map_byteAt {body : List Byte} {n : Nat} (h : body.length = n) :
    body = (List.range n).map (byteAt body) := by
  rw [← take_eq_map_byteAt h.ge, ← h, List.take_length]

@[simp] theorem numByte_natAt (body : List Byte) (n : Nat) : numByte (natAt body n) = byteAt body n :=
  numByte_toNat_self _

@[simp] theorem numBytes_be16At (body : List Byte) (n : Nat) :
    numBytes (be16At body n) = [byteAt body n, byteAt body (n + 1)] := numBytes_be16 _ _

/-- A field read from a byte's number stands in that byte. -/
theorem byteAt_eq_of_natAt {body : List Byte} {n : Nat} {b : Byte} (h : natAt body n = b.toNat) :
    byteAt body n = b := BitVec.eq_of_toNat_eq h

theorem natAt_le (body : List Byte) (n : Nat) : natAt body n ≤ 255 := by
  have := (byteAt body n).isLt
  unfold natAt
  omega

theorem be16At_le (body : List Byte) (n : Nat) : be16At body n ≤ 65535 := by
  have := be16_lt (byteAt body n) (byteAt body (n + 1))
  unfold be16At
  omega

/-! ### Bodies of the kinds -/

/-- A DRIVE body that is read is the layout of fields in range (R58). -/
theorem driveBody_layout {d : Drive} {bs : List Byte} {b : DriveBody} (h : driveBody? d bs = some b) :
    (Body.drive b).inRange (.drive d) ∧ bs = (Body.drive b).bytes := by
  unfold driveBody? at h
  split at h
  · cases h
  rename_i hlen
  simp only [Option.bind_eq_bind, Option.bind_eq_some_iff, within_some, directionOf_some] at h
  obtain ⟨target, ⟨rfl, -, ht⟩, direction, hd, ramp, ⟨rfl, -, hr⟩, h⟩ := h
  split at h
  · cases h
  rename_i hdb
  cases h
  refine ⟨⟨ht, hr, be16At_le bs 5, hdb⟩, ?_⟩
  simpa [Body.bytes, List.range_succ, byteAt_eq_of_natAt hd] using eq_map_byteAt (not_not.mp hlen)

/-- A GATE body that is read is the layout of fields in range (R40). -/
theorem gateBody_layout {g : Gate} {bs : List Byte} {b : GateBody} (h : gateBody? bs = some b) :
    (Body.gate b).inRange (.gate g) ∧ bs = (Body.gate b).bytes := by
  unfold gateBody? at h
  split at h
  · cases h
  rename_i hlen
  simp only [Option.bind_eq_bind, Option.bind_eq_some_iff, within_some, voteOf_some, stopPatternOf_some] at h
  obtain ⟨vote, hv, period, ⟨rfl, hp⟩, close, hc, h⟩ := h
  cases h
  refine ⟨hp, ?_⟩
  simpa [Body.bytes, List.range_succ, byteAt_eq_of_natAt hv, byteAt_eq_of_natAt hc] using eq_map_byteAt (not_not.mp hlen)

/-- An ASENSE body that is read is the layout of fields in range (R108). -/
theorem analogBody_layout {c : AnalogCh} {bs : List Byte} {b : AnalogBody} (h : analogBody? bs = some b) :
    (Body.asense b).inRange (.analog c) ∧ bs = (Body.asense b).bytes := by
  unfold analogBody? at h
  split at h
  · cases h
  rename_i hlen
  simp only [Option.bind_eq_bind, Option.bind_eq_some_iff, within_some, targetOf_some, stopPatternOf_some] at h
  obtain ⟨interval, ⟨rfl, -, hi⟩, urgency, ⟨rfl, hu⟩, smoothing, ⟨rfl, -, hs⟩, high, ⟨rfl, -, hh⟩, low, ⟨rfl, -, -⟩,
    debounce, ⟨rfl, hd⟩, tripHigh, hth, tripLow, htl, pattern, hp, h⟩ := h
  split at h
  · cases h
  rename_i hlow
  cases h
  refine ⟨⟨hi, hu.1, hu.2, hs, hh, not_lt.mp hlow, natAt_le bs 7, hd⟩, ?_⟩
  simpa [Body.bytes, List.range_succ, byteAt_eq_of_natAt hth, byteAt_eq_of_natAt htl, byteAt_eq_of_natAt hp]
    using eq_map_byteAt (not_not.mp hlen)

/-- An ESENSE body that is read is the layout of fields in range (R129). -/
theorem edgeBody_layout {e : EdgeIn} {bs : List Byte} {b : EdgeBody} (h : edgeBody? bs = some b) :
    (Body.esense b).inRange (.edge e) ∧ bs = (Body.esense b).bytes := by
  unfold edgeBody? at h
  split at h
  · cases h
  rename_i hlen
  simp only [Option.bind_eq_bind, Option.bind_eq_some_iff, within_some, modeOf_some, edgeSelOf_some, levelOf_some,
    targetOf_some, stopPatternOf_some] at h
  obtain ⟨mode, hm, edge, he, interval, ⟨rfl, -, hi⟩, debounce, ⟨rfl, hd⟩, active, ha, target, ht, pattern, hp, h⟩ := h
  cases h
  refine ⟨⟨hi, natAt_le bs 3, hd⟩, ?_⟩
  simpa [Body.bytes, List.range_succ, byteAt_eq_of_natAt hm, byteAt_eq_of_natAt he, byteAt_eq_of_natAt ha,
    byteAt_eq_of_natAt ht, byteAt_eq_of_natAt hp] using eq_map_byteAt (not_not.mp hlen)

/-- A body that is read for a resource is the layout of fields in range. -/
theorem bodyFor_layout {r : Resource} {bs : List Byte} {b : Body} (h : bodyFor? r bs = some b) :
    b.inRange r ∧ bs = b.bytes := by
  cases r with
  | gate g =>
    obtain ⟨x, hx, rfl⟩ := Option.map_eq_some_iff.mp h
    exact gateBody_layout hx
  | drive d =>
    obtain ⟨x, hx, rfl⟩ := Option.map_eq_some_iff.mp h
    exact driveBody_layout hx
  | analog c =>
    obtain ⟨x, hx, rfl⟩ := Option.map_eq_some_iff.mp h
    exact analogBody_layout hx
  | edge e =>
    obtain ⟨x, hx, rfl⟩ := Option.map_eq_some_iff.mp h
    exact edgeBody_layout hx

/-- A body in range for a resource is of the resource's kind. -/
theorem kind_of_inRange : ∀ {r : Resource} {b : Body}, b.inRange r → b.kind = r.kind
  | .drive _, .drive _, _ => rfl
  | .gate _, .gate _, _ => rfl
  | .analog _, .asense _, _ => rfl
  | .edge _, .esense _, _ => rfl

/-- Every body has at least the four bytes of a GATE body. -/
theorem four_le_bytes_length (b : Body) : 4 ≤ b.bytes.length := by
  cases b <;> simp [Body.bytes, numBytes]

/-! ### The value steps -/

theorem holdFits_iff (r : Resource) (hold : Nat) : holdFits r.kind hold = true ↔ holdInRange r hold := by
  cases r <;> simp [holdFits, Resource.kind, holdInRange, and_comm]

/-- What the common part of the two value steps reads is in range, and is what stands in the body. -/
theorem claimFields_layout {r : Resource} {hold wants : Nat} {bs : List Byte} {f : ClaimFields}
    (h : claimFields? r hold wants bs = some f) :
    f.inRange r ∧ f.hold = hold ∧ f.wantsSample.toNat = wants ∧ bs = f.body.bytes := by
  unfold claimFields? at h
  simp only [Option.bind_eq_bind, Option.bind_eq_some_iff, boolOf_some] at h
  obtain ⟨w, rfl, b, hb, h⟩ := h
  split at h
  · rename_i hh
    cases h
    obtain ⟨hr, hbs⟩ := bodyFor_layout hb
    exact ⟨⟨(holdFits_iff r hold).mp hh, hr⟩, rfl, rfl, hbs⟩
  · cases h

/-- An OPEN body that is read is the layout of fields in range (R4 step 6, R165). -/
theorem openFields_layout {r : Resource} {body : List Byte} {f : ClaimFields}
    (hr : resourceOf? (natAt body 0) = some r) (h : openFields? r body = some f) :
    f.inRange r ∧ body = openBytes r (openTag body) f := by
  unfold openFields? at h
  split at h
  · rename_i hk
    obtain ⟨hf, hhold, hwants, hbs⟩ := claimFields_layout h
    have hlen : 6 ≤ body.length := by
      have := four_le_bytes_length f.body
      rw [← hbs, List.length_drop] at this
      omega
    have hres : byteAt body 0 = r.byte := byteAt_eq_of_natAt ((resourceOf_some _ r).mp hr)
    have hkind : byteAt body 1 = f.body.kind.byte := by
      rw [kind_of_inRange hf.2]
      exact byteAt_eq_of_natAt ((kindOf_some _ _).mp hk)
    have htag : (openTag body).toNat = be16At body 2 := by
      have := be16At_le body 2
      rw [openTag, BitVec.toNat_ofNat, Nat.mod_eq_of_lt (by omega)]
    refine ⟨hf, ?_⟩
    have := eq_map_byteAt_append_drop hlen
    rw [hbs] at this
    simpa [openBytes, List.range_succ, hres, hkind, htag, hhold, hwants] using this
  · cases h

/-- An AMEND body that is read is the layout of fields in range (R9 step 6, R165). -/
theorem amendFields_layout {r : Resource} {body : List Byte} {f : ClaimFields}
    (hk : kindOf? (natAt body 2) = some r.kind) (h : amendFields? r body = some f) :
    f.inRange r ∧ body = amendBytes (byteAt body 0) (byteAt body 1) f := by
  obtain ⟨hf, hhold, hwants, hbs⟩ := claimFields_layout h
  have hlen : 5 ≤ body.length := by
    have := four_le_bytes_length f.body
    rw [← hbs, List.length_drop] at this
    omega
  have hkind : byteAt body 2 = f.body.kind.byte := by
    rw [kind_of_inRange hf.2]
    exact byteAt_eq_of_natAt ((kindOf_some _ _).mp hk)
  refine ⟨hf, ?_⟩
  have := eq_map_byteAt_append_drop hlen
  rw [hbs] at this
  simpa [amendBytes, List.range_succ, hkind, hhold, hwants] using this

end Sys2Proof.Machine
end

section
/-! SUPPORT. The Claim Table's requests at a link that can bring one: what each answers, check by check (R4, R8, R9), and
what a renewal leaves. -/

namespace Sys2Proof.Machine

/-! ### Answers held as responses -/

/-- The outcome of a request that is carried out: its answer's state, with its response held (R155). -/
def Answer.outcome (a : Answer) (l : Link) (code : Byte) : Host.Outcome State Fault Refusal :=
  .next (a.state.holdResponse l ⟨code, a.result, a.body⟩)

@[simp] theorem refuse_outcome (s : State) (r : Result) (l : Link) (code : Byte) :
    (s.refuse r).outcome l code = .next (s.holdResponse l ⟨code, r, .empty⟩) := rfl

@[simp] theorem ok_outcome (s : State) (b : ReplyBody) (l : Link) (code : Byte) :
    (s.ok b).outcome l code = .next (s.holdResponse l ⟨code, .ok, b⟩) := rfl

section Exec

variable {s : State} {l : Link} {body : List Byte} (h : s.canTake l)
include h

/-- A request at a link that can bring one ends in its answer's outcome (R155). -/
theorem takeRequest_outcome (code : Byte) (hb : body.length ≤ 28) (k : State → Answer) :
    .next (s.takeRequest l code body k) = (k s).outcome l code :=
  congrArg _ (State.takeRequest_of_canTake h code hb k)

theorem exec_lookup (hb : body.length ≤ 28) : exec (.lookup l body) s = (s.lookupRequest l body).outcome l 0x05#8 :=
  takeRequest_outcome h _ hb _

theorem exec_openClaim (hb : body.length ≤ 28) : exec (.openClaim l body) s = (s.openRequest l body).outcome l 0x10#8 :=
  takeRequest_outcome h _ hb _

theorem exec_amend (hb : body.length ≤ 28) : exec (.amend l body) s = (s.amendRequest l body).outcome l 0x11#8 :=
  takeRequest_outcome h _ hb _

theorem exec_renew (hb : body.length = 2) : exec (.renew l body) s = (s.renewRequest l body).outcome l 0x12#8 := by
  have hne : body.isEmpty = false := List.isEmpty_eq_false_iff.mpr (by rintro rfl; simp at hb)
  refine (takeRequest_outcome h 0x12#8 (by omega) _).trans ?_
  simp [hne]

theorem exec_renewAll : exec (.renewAll l) s = (s.renewAllRequest l).outcome l 0x12#8 :=
  takeRequest_outcome h _ (by simp) _

theorem exec_retire (hb : body.length ≤ 28) : exec (.retire l body) s = (s.retireRequest l body).outcome l 0x13#8 :=
  takeRequest_outcome h _ hb _

end Exec

/-- A RENEW with an empty body is a RENEW of all the link's claims (R12, R165). -/
theorem exec_renew_nil (l : Link) (s : State) : exec (.renew l []) s = exec (.renewAll l) s := rfl

/-! ### Tags -/

/-- A link's tag map has a slot for a tag exactly when the tag is not free for the link (R7). -/
theorem tagSlot_isSome_iff (s : State) (l : Link) (t : BitVec 16) : (s.tagSlot l t).isSome = true ↔ ¬s.tagFree l t := by
  constructor
  · intro hs hf
    simp [s.tagSlot_none l t hf] at hs
  · intro hf
    by_contra hs
    exact hf (s.tagFree_of_none l t (by simpa using hs))

/-- Where no two claims of a link share a tag, the tag map gives the slot of the claim that carries it (R7). -/
theorem tagSlot_of_claim {s : State} (hinv : TagInv s) {i : SlotIx} {c : Claim} (hc : s.claim i = some c)
    (ht : c.tag ≠ 0#16) : s.tagSlot c.owner c.tag = some i := by
  obtain ⟨j, d, hj, hd, ho, htag⟩ := s.tagSlot_some c.owner c.tag i c ht hc rfl rfl
  rw [hj, hinv i j c d hc hd ho.symm htag.symm ht]

theorem stateOf_of_claim {s : State} {i : SlotIx} {c : Claim} (hc : s.claim i = some c) : s.stateOf i = c.state := by
  simp [State.stateOf, hc]

/-! ### LOOKUP -/

theorem lookupRequest_of_config {s : State} (hp : s.setup.part = .config) (l : Link) (body : List Byte) :
    s.lookupRequest l body = s.refuse .notReady := State.inRun_of_config hp _

section Lookup

variable {s : State} {l : Link} {body : List Byte} (hp : s.setup.part = .run)
include hp

theorem lookupRequest_of_length (hb : body.length ≠ 2) : s.lookupRequest l body = s.refuse .badValue := by
  rw [State.lookupRequest, State.inRun_of_run hp, if_pos hb]

theorem lookupRequest_of_none (hb : body.length = 2) (ht : s.tagSlot l (BitVec.ofNat 16 (be16At body 0)) = none) :
    s.lookupRequest l body = s.refuse .noSuch := by
  rw [State.lookupRequest, State.inRun_of_run hp, if_neg (not_not.mpr hb), ht]

theorem lookupRequest_of_some (hb : body.length = 2) {i : SlotIx}
    (ht : s.tagSlot l (BitVec.ofNat 16 (be16At body 0)) = some i) :
    s.lookupRequest l body = s.ok (.claim (s.handle i) (s.stateOf i)) := by
  rw [State.lookupRequest, State.inRun_of_run hp, if_neg (not_not.mpr hb), ht]

end Lookup

/-! ### OPEN, check by check (R4) -/

/-- The first FREE slot, where one is FREE. -/
theorem freeSlots_head_of_free {s : State} (h : ∃ i, s.claim i = none) : ∃ i, s.freeSlots.head? = some i := by
  obtain ⟨i, hi⟩ := h
  have hm : i ∈ s.freeSlots := (s.mem_freeSlots i).mpr hi
  exact ⟨_, List.head?_eq_some_head (List.ne_nil_of_mem hm)⟩

theorem openRequest_of_config {s : State} (hp : s.setup.part = .config) (l : Link) (body : List Byte) :
    s.openRequest l body = s.refuse .notReady := State.inRun_of_config hp _

section Open

variable {s : State} {l : Link} {body : List Byte} {r : Resource} (hp : s.setup.part = .run)
include hp

theorem openRequest_of_barred (hb : s.barred l = true) : s.openRequest l body = s.refuse .barred := by
  rw [State.openRequest, State.inRun_of_run hp, if_pos hb]

variable (hb : s.barred l = false)
include hb

theorem openRequest_of_unknown (hr : resourceOf? (natAt body 0) = none) :
    s.openRequest l body = s.refuse .badValue := by
  simp [State.openRequest, State.inRun_of_run hp, hb, hr]

variable (hr : resourceOf? (natAt body 0) = some r)
include hr

theorem openRequest_of_outOfReach (hc : (s.setup.reach.get l).covers r = false) :
    s.openRequest l body = s.refuse .outOfReach := by
  simp [State.openRequest, State.inRun_of_run hp, hb, hr, hc]

variable (hc : (s.setup.reach.get l).covers r = true)
include hc

theorem openRequest_of_noRoom (hf : ∀ i, s.claim i ≠ none) : s.openRequest l body = s.refuse .noRoom := by
  simp [State.openRequest, State.inRun_of_run hp, hb, hr, hc, s.freeSlots_nil hf]

variable (hf : ∃ i, s.claim i = none)
include hf

theorem openRequest_of_quota (hq : (s.setup.reach.get l).quota ≤ s.unpinnedCount l) :
    s.openRequest l body = s.refuse .quota := by
  obtain ⟨i, hi⟩ := freeSlots_head_of_free hf
  simp [State.openRequest, State.inRun_of_run hp, hb, hr, hc, hi, hq]

variable (hq : s.unpinnedCount l < (s.setup.reach.get l).quota)
include hq

theorem openRequest_of_tagTaken (ht : ¬s.tagFree l (openTag body)) :
    s.openRequest l body = s.refuse .tagTaken := by
  obtain ⟨i, hi⟩ := freeSlots_head_of_free hf
  have hs : (s.tagSlot l (BitVec.ofNat 16 (be16At body 2))).isSome = true := (tagSlot_isSome_iff s l _).mpr ht
  simp [State.openRequest, State.inRun_of_run hp, hb, hr, hc, hi, not_le.mpr hq, hs]

theorem openRequest_of_badValue (ht : s.tagFree l (openTag body)) (hv : openFields? r body = none) :
    s.openRequest l body = s.refuse .badValue := by
  obtain ⟨i, hi⟩ := freeSlots_head_of_free hf
  have hs : s.tagSlot l (BitVec.ofNat 16 (be16At body 2)) = none := s.tagSlot_none l _ ht
  simp [State.openRequest, State.inRun_of_run hp, hb, hr, hc, hi, not_le.mpr hq, hs, hv]

end Open

/-! ### The checks of R9 -/

section Owned

variable {s : State} {l : Link} {i : SlotIx} {c : Claim} (hc : s.claim i = some c) (k : Claim → Answer)
include hc

theorem ownedOngoing_of_other (ho : c.owner ≠ l) : s.ownedOngoing l i k = s.refuse .notOwner := by
  simp [State.ownedOngoing, hc, ho.symm]

theorem ownedOngoing_of_pinned (ho : c.owner = l) (hu : c.pinned = true) :
    s.ownedOngoing l i k = s.refuse .pinned := by
  simp [State.ownedOngoing, hc, ho, hu]

theorem ownedOngoing_of_ended (ho : c.owner = l) (hu : c.pinned = false) (he : c.state = .retiring ∨ c.state = .spent) :
    s.ownedOngoing l i k = s.refuse .ended := by
  simp [State.ownedOngoing, hc, ho, hu, he]

end Owned

/-- The claim that a handle names, put through the checks of R9 up to the one for an ended claim. -/
def State.ownerChecks (s : State) (l : Link) (body : List Byte) (k : SlotIx → Claim → Answer) : Answer :=
  s.inRun <| s.withHandle body body.length fun i => s.ownedOngoing l i (k i)

theorem ownerChecks_of_config {s : State} (hp : s.setup.part = .config) (l : Link) (body : List Byte)
    (k : SlotIx → Claim → Answer) : s.ownerChecks l body k = s.refuse .notReady := State.inRun_of_config hp _

theorem ownerChecks_of_stale {s : State} {body : List Byte} (hp : s.setup.part = .run) (hn : s.handleAt body 0 = none)
    (l : Link) (k : SlotIx → Claim → Answer) : s.ownerChecks l body k = s.refuse .stale := by
  simp [State.ownerChecks, State.inRun_of_run hp, State.withHandle, hn]

theorem ownerChecks_of_named {s : State} {body : List Byte} {i : SlotIx} (hp : s.setup.part = .run)
    (hn : s.handleAt body 0 = some i) (l : Link) (k : SlotIx → Claim → Answer) :
    s.ownerChecks l body k = s.ownedOngoing l i (k i) := by
  simp [State.ownerChecks, State.inRun_of_run hp, State.withHandle, hn]

/-- What AMEND does with a claim that passes the checks of its owner (R9 steps 5 and 6, R10). -/
def State.amendOwned (s : State) (body : List Byte) (i : SlotIx) (c : Claim) : Answer :=
  if kindOf? (natAt body 2) ≠ some c.kind then s.refuse .wrongKind
  else match amendFields? c.resource body with
    | none => s.refuse .badValue
    | some f =>
      let s' := (s.putClaim i (s.amendedClaim c f)).handAmended c i
      s'.ok (.state (s'.stateOf i))

theorem amendRequest_eq (s : State) (l : Link) (body : List Byte) :
    s.amendRequest l body = s.ownerChecks l body (s.amendOwned body) :=
  congrArg s.inRun (if_neg (not_not.mpr rfl)).symm

theorem renewRequest_eq (s : State) (l : Link) {body : List Byte} (hb : body.length = 2) :
    s.renewRequest l body = s.ownerChecks l body fun i _ => (s.renewClaim i).ok .empty := by
  rw [State.ownerChecks, hb]
  rfl

theorem retireRequest_eq (s : State) (l : Link) {body : List Byte} (hb : body.length = 2) :
    s.retireRequest l body = s.ownerChecks l body fun i _ =>
      (s.endClaims .retire [i]).ok (.state ((s.endClaims .retire [i]).stateOf i)) := by
  rw [State.ownerChecks, hb]
  rfl

theorem amendOwned_of_wrongKind {s : State} {body : List Byte} {c : Claim} (hk : kindOf? (natAt body 2) ≠ some c.kind)
    (i : SlotIx) : s.amendOwned body i c = s.refuse .wrongKind := if_pos hk

theorem amendOwned_of_badValue {s : State} {body : List Byte} {c : Claim} (hk : kindOf? (natAt body 2) = some c.kind)
    (hv : amendFields? c.resource body = none) (i : SlotIx) : s.amendOwned body i c = s.refuse .badValue := by
  simp [State.amendOwned, hk, hv]

/-- AMEND, RENEW with one handle and RETIRE go through the same checks of R9; what follows them is each one's own. -/
theorem exec_ownerChecks {l : Link} {body : List Byte} {s : State} {mk : List Byte → Instr} {code : Byte}
    (h : s.canTake l) (hb : body.length ≤ 28)
    (hmk : mk = .amend l ∧ code = 0x11#8 ∨ body.length = 2 ∧ mk = .renew l ∧ code = 0x12#8 ∨
      body.length = 2 ∧ mk = .retire l ∧ code = 0x13#8) :
    ∃ k, exec (mk body) s = (s.ownerChecks l body k).outcome l code ∧ (mk = .amend l → k = s.amendOwned body) := by
  obtain ⟨rfl, rfl⟩ | ⟨h2, rfl, rfl⟩ | ⟨h2, rfl, rfl⟩ := hmk
  · exact ⟨_, by rw [exec_amend h hb, amendRequest_eq], fun _ => rfl⟩
  · exact ⟨_, by rw [exec_renew h h2, renewRequest_eq s l h2], fun e => by cases congrFun e body⟩
  · exact ⟨_, by rw [exec_retire h hb, retireRequest_eq s l h2], fun e => by cases congrFun e body⟩

/-! ### Renewals (R11, R12) -/

/-- A claim with its deadline anew from its own hold (R11). -/
def State.renewed (s : State) (c : Claim) : Claim := { c with deadline := s.deadlineFor c.hold }

theorem renewClaim_eq (s : State) (i : SlotIx) : s.renewClaim i = s.updClaim i s.renewed := rfl

/-- A renewal reads the present count alone, and no renewal changes it. -/
theorem renewed_renewClaim (s : State) (i : SlotIx) : (s.renewClaim i).renewed = s.renewed := rfl

@[simp] theorem renewed_renewed (s : State) (c : Claim) : s.renewed (s.renewed c) = s.renewed c := rfl

/-- Renewals of several slots change nothing but slots. -/
theorem foldl_renewClaim_frame (is : List SlotIx) (s : State) :
    is.foldl State.renewClaim s = { s with slots := (is.foldl State.renewClaim s).slots } := by
  induction is generalizing s with
  | nil => rfl
  | cons i is ih =>
    rw [List.foldl_cons, ih]
    rfl

/-- Renewals of several slots renew the claims in those slots and leave every other slot. -/
theorem foldl_renewClaim_slot (is : List SlotIx) (s : State) (j : SlotIx) :
    (is.foldl State.renewClaim s).slots[j] =
      if j ∈ is then ⟨s.slots[j].gen, (s.claim j).map s.renewed⟩ else s.slots[j] := by
  induction is generalizing s with
  | nil => simp
  | cons i is ih =>
    rw [List.foldl_cons, ih, renewed_renewClaim, renewClaim_eq, State.updClaim_claim, State.updClaim_slot]
    by_cases hji : j = i
    · subst hji
      simp [Function.comp_def]
    · simp [hji]

theorem foldl_renewClaim_claim (is : List SlotIx) (s : State) (j : SlotIx) :
    (is.foldl State.renewClaim s).claim j = if j ∈ is then (s.claim j).map s.renewed else s.claim j := by
  rw [State.claim, foldl_renewClaim_slot]
  split <;> rfl

theorem foldl_renewClaim_handle (is : List SlotIx) (s : State) (j : SlotIx) :
    (is.foldl State.renewClaim s).handle j = s.handle j := by
  unfold State.handle
  rw [foldl_renewClaim_slot]
  split <;> rfl

/-- Renewals of the slots whose claim has a property renew the claims that have it. -/
theorem foldl_renewClaim_slotsWhere (s : State) (p : Claim → Bool) (j : SlotIx) :
    ((s.slotsWhere p).foldl State.renewClaim s).claim j =
      (s.claim j).map fun c => if p c = true then s.renewed c else c := by
  simp only [foldl_renewClaim_claim, State.mem_slotsWhere]
  cases hc : s.claim j with
  | none => simp
  | some c => by_cases hp : p c = true <;> simp [hp]

/-- A nonzero hold renewed sets a deadline 80 ticks per unit ahead (R11, R13). -/
theorem renewed_of_hold (s : State) {c : Claim} (h : c.hold ≠ 0) :
    s.renewed c = { c with deadline := some (s.clock.cadence + BitVec.ofNat 32 (80 * c.hold)) } := by
  simp [State.renewed, State.deadlineFor, h]

/-- The states of a claim that has not ended (R13), by name. -/
theorem ongoing_eq_decide_mem (st : ClaimState) :
    st.ongoing = decide (st ∈ [ClaimState.standby, .inForce, .suspended, .complete, .active]) := by
  cases st <;> rfl

theorem renewAllRequest_of_config {s : State} (hp : s.setup.part = .config) (l : Link) :
    s.renewAllRequest l = s.refuse .notReady := State.inRun_of_config hp _

theorem renewAllRequest_of_run {s : State} (hp : s.setup.part = .run) (l : Link) :
    s.renewAllRequest l = ((s.renewable l).foldl State.renewClaim s).ok (.count (s.renewable l).length) :=
  State.inRun_of_run hp _

/-- RENEW of a claim that passes the checks of its owner puts the claim with its deadline anew in its place (R11). -/
theorem renewRequest_of_passes {s : State} {l : Link} {body : List Byte} {i : SlotIx} {c : Claim}
    (hb : body.length = 2) (h : s.OwnerPasses l body i c) :
    s.renewRequest l body = (s.putClaim i (s.renewed c)).ok .empty := by
  rw [renewRequest_eq s l hb, ownerChecks_of_named h.run h.named, State.ownedOngoing_of_passes h, renewClaim_eq,
    State.updClaim_eq_putClaim h.claim]

end Sys2Proof.Machine
end

section
/-! PROOFS. The statements about LOOKUP, OPEN, the checks of R9 and RENEW. -/

namespace Sys2Proof.Machine

/-- Settles O14: the checks of OPEN one by one, the value step by the layout of what is read. -/
theorem openRefusedInOrder : Obligations.OpenRefusedInOrder := by
  intro l body s h hb refused reach count
  have hcount : s.unpinnedCount l = count := s.slotsWhere_length _
  have refused_of {r : Result} (hr : s.openRequest l body = s.refuse r) : refused r := by
    simp only [refused]
    rw [exec_openClaim h hb, hr, refuse_outcome]
  refine ⟨fun hp => refused_of (openRequest_of_config hp l body),
    fun hp hbar => refused_of (openRequest_of_barred hp hbar), fun hp hbar => ⟨fun hr => ?_, fun r hr => ⟨fun hc => ?_,
      fun hc hf => ?_, fun hc hf => ⟨fun hq => ?_, fun hq ht => ?_, fun hq ht hv => ?_⟩⟩⟩⟩
  · exact refused_of (openRequest_of_unknown hp hbar hr)
  · exact refused_of (openRequest_of_outOfReach hp hbar hr hc)
  · exact refused_of (openRequest_of_noRoom hp hbar hr hc hf)
  · exact refused_of (openRequest_of_quota hp hbar hr hc hf (hcount ▸ hq))
  · exact refused_of (openRequest_of_tagTaken hp hbar hr hc hf (hcount ▸ hq) ht)
  · have hnone : openFields? r body = none :=
      Option.eq_none_iff_forall_ne_some.mpr fun f hf' => hv ⟨f, openFields_layout hr hf'⟩
    exact refused_of (openRequest_of_badValue hp hbar hr hc hf (hcount ▸ hq) ht hnone)

/-- Settles O17: the three requests go through the same checks; AMEND's last two follow them. -/
theorem ownerChecksInOrder : Obligations.OwnerChecksInOrder := by
  intro l body s mk code h hb hmk refused
  obtain ⟨k, hk, hka⟩ := exec_ownerChecks h hb hmk
  have refused_of {r : Result} (hr : s.ownerChecks l body k = s.refuse r) : refused r := by
    simp only [refused]
    rw [hk, hr, refuse_outcome]
  refine ⟨fun hp => refused_of (ownerChecks_of_config hp l body k),
    fun hp hn => refused_of (ownerChecks_of_stale hp hn l k), fun i c hp hn hc => ?_⟩
  have named := ownerChecks_of_named hp hn l k
  refine ⟨fun ho => refused_of (named.trans (ownedOngoing_of_other hc _ ho)),
    fun ho hu => refused_of (named.trans (ownedOngoing_of_pinned hc _ ho hu)),
    fun ho hu he => refused_of (named.trans (ownedOngoing_of_ended hc _ ho hu he)), fun hamend ho hu hr hs => ?_⟩
  have amends : s.ownerChecks l body k = s.amendOwned body i c := by
    rw [named, State.ownedOngoing_of_passes ⟨hp, hn, hc, ho, hu, hr, hs⟩, hka hamend]
  refine ⟨fun hkind => refused_of (amends.trans (amendOwned_of_wrongKind hkind i)), fun hkind hrange hv => ?_⟩
  have hres : kindOf? (natAt body 2) = some c.resource.kind := hkind.trans (congrArg _ (kind_of_inRange hrange.2.1))
  have hnone : amendFields? c.resource body = none :=
    Option.eq_none_iff_forall_ne_some.mpr fun f hf => hv ⟨f, amendFields_layout hres hf⟩
  exact refused_of (amends.trans (amendOwned_of_badValue hkind hnone i))

/-- Settles O20: RENEW of one claim is a claim put in its place, RENEW of all a fold over the renewable slots. -/
theorem renewSetsDeadlines : Obligations.RenewSetsDeadlines := by
  refine ⟨fun l body i c s h hb hpass => ?_, fun l s h => ⟨exec_renew_nil l s, fun hp => ?_, fun hp => ?_⟩⟩
  · rw [exec_renew h hb, renewRequest_of_passes hb hpass]
    rfl
  · rw [exec_renewAll h, renewAllRequest_of_config hp, refuse_outcome]
  · intro renewed
    have hslots : s.renewable l = s.slotsWhere renewed := by
      simp only [State.renewable, renewed, ongoing_eq_decide_mem]
    refine ⟨(s.slotsWhere renewed).foldl State.renewClaim s, ?_, foldl_renewClaim_frame _ s, fun i =>
      ⟨foldl_renewClaim_handle _ s i, ?_⟩⟩
    · rw [exec_renewAll h, renewAllRequest_of_run hp, ok_outcome, hslots, State.slotsWhere_length]
    · rw [foldl_renewClaim_slotsWhere]
      refine congrArg (fun f => (s.claim i).map f) (funext fun c => ?_)
      split
      · rename_i hr
        obtain ⟨⟨-, hhold⟩, -⟩ := by simpa [renewed] using hr
        exact renewed_of_hold s hhold
      · rfl

/-- Settles O12: the tag map's slot is the one claim of the link with the tag, where it has one. -/
theorem lookupFindsOwnTag : Obligations.LookupFindsOwnTag := by
  intro l body s h hb tag
  refine ⟨fun hp => ?_, fun hp hlen => ⟨fun i c hinv ht hc ho htag => ?_, fun hfree => ?_⟩, fun hp hlen => ?_⟩
  · rw [exec_lookup h hb, lookupRequest_of_config hp, refuse_outcome]
  · have hslot : s.tagSlot l tag = some i := by
      subst ho
      rw [← htag]
      exact tagSlot_of_claim hinv hc (htag ▸ ht)
    rw [exec_lookup h hb, lookupRequest_of_some hp hlen hslot, ok_outcome, stateOf_of_claim hc]
  · rw [exec_lookup h hb, lookupRequest_of_none hp hlen (s.tagSlot_none l tag hfree), refuse_outcome]
  · rw [exec_lookup h hb, lookupRequest_of_length hp hlen, refuse_outcome]

end Sys2Proof.Machine
end

section
/-! SUPPORT. LIST: what the request answers, and its entries by their places in the order of R38. -/

namespace Sys2Proof.Machine

/-! ### The order of LIST (R38) -/

theorem slotsWhere_pairwise_lt (s : State) (p : Claim → Bool) : (s.slotsWhere p).Pairwise (· < ·) :=
  (List.pairwise_lt_finRange 48).filter _

/-- The members of a resource's set are the ACTIVE claims on it (R36). -/
theorem mem_members (s : State) (r : Resource) (i : SlotIx) :
    i ∈ s.members r ↔ ∃ c, s.claim i = some c ∧ c.resource = r ∧ c.state = .active := by
  simp [State.members, State.mem_slotsWhere]

/-- For a sense resource LIST runs over its set. -/
theorem claimsOn_of_sense (s : State) : ∀ {r : Resource}, r.kind = .asense ∨ r.kind = .esense →
    s.claimsOn r = s.members r
  | .analog _, _ => rfl
  | .edge _, _ => rfl

/-- LIST runs over occupied slots. -/
theorem claim_of_mem_claimsOn {s : State} (h : TableInv s) {r : Resource} {i : SlotIx} (hi : i ∈ s.claimsOn r) :
    ∃ c, s.claim i = some c := by
  cases r with
  | drive d => exact (h.driveEntry d i hi).imp fun _ => And.left
  | gate g => exact (h.gateEntry g i hi).imp fun _ => And.left
  | analog c => exact ((mem_members s _ i).mp hi).imp fun _ => And.left
  | edge e => exact ((mem_members s _ i).mp hi).imp fun _ => And.left

/-- An entry of a drive channel's list is not COMPLETE: the list holds the states of R24. -/
theorem driveList_ne_complete {s : State} (h : TableInv s) {d : Drive} {i : SlotIx} {c : Claim}
    (hi : i ∈ s.driveList d) (hc : s.claim i = some c) : c.state ≠ .complete := by
  obtain ⟨c', hc', -, hlisted⟩ := h.driveEntry d i hi
  obtain rfl := Option.some.inj (hc.symm.trans hc')
  intro hcomplete
  simp [hcomplete, ClaimState.listed] at hlisted

/-! ### The entries -/

theorem listEntries_length_le (s : State) (k : Nat) (is : List SlotIx) : (s.listEntries k is).length ≤ is.length := by
  induction is generalizing k with
  | nil => exact Nat.le_refl 0
  | cons i is ih =>
    have hone : (s.listEntry k i).toList.length ≤ 1 := by cases s.listEntry k i <;> simp
    have hrest := ih (k + 1)
    simp only [State.listEntries, List.length_append, List.length_cons]
    omega

/-- Over occupied slots no entry falls out, so that each stands at its slot's place, numbered by it. -/
theorem listEntries_getElem? {s : State} {is : List SlotIx} (h : ∀ i ∈ is, ∃ c, s.claim i = some c) (k n : Nat) :
    (s.listEntries k is)[n]? = is[n]?.bind (s.listEntry (k + n)) := by
  induction is generalizing k n with
  | nil => rfl
  | cons i is ih =>
    obtain ⟨c, hc⟩ := h i List.mem_cons_self
    have hentry : s.listEntry k i = some ⟨k, s.handle i, c.owner, c.cls, c.state, c.gateBody?.map GateBody.vote⟩ := by
      simp [State.listEntry, hc]
    cases n with
    | zero => simp [State.listEntries, hentry]
    | succ n =>
      have hrest := ih (fun j hj => h j (List.mem_cons_of_mem i hj)) (k + 1) n
      simpa [State.listEntries, hentry, Nat.add_assoc, Nat.add_comm 1] using hrest

/-- The entries that LIST answers with, from a start index on. -/
def State.listPage (s : State) (r : Resource) (start : Nat) : List ListEntry :=
  s.listEntries start (((s.claimsOn r).drop start).take 3)

theorem listPage_length_le (s : State) (r : Resource) (start : Nat) : (s.listPage r start).length ≤ 3 :=
  (listEntries_length_le s _ _).trans (List.length_take_le 3 _)

/-- The entries of a page are those of the claims from the start index on. -/
theorem listPage_getElem? {s : State} (h : TableInv s) (r : Resource) (start : Nat) {n : Nat} (hn : n < 3) :
    (s.listPage r start)[n]? = (s.claimsOn r)[start + n]?.bind (s.listEntry (start + n)) := by
  have hocc : ∀ i ∈ ((s.claimsOn r).drop start).take 3, ∃ c, s.claim i = some c := fun _ hi =>
    claim_of_mem_claimsOn h (List.mem_of_mem_drop (List.mem_of_mem_take hi))
  rw [State.listPage, listEntries_getElem? hocc, List.getElem?_take_of_lt hn, List.getElem?_drop]

/-! ### The answer -/

theorem exec_list {s : State} {l : Link} {body : List Byte} (h : s.canTake l) (hb : body.length ≤ 28) :
    exec (.list l body) s = (s.listRequest body).outcome l 0x03#8 :=
  takeRequest_outcome h _ hb _

theorem listRequest_of_config {s : State} (hp : s.setup.part = .config) (body : List Byte) :
    s.listRequest body = s.refuse .notReady := State.inRun_of_config hp _

section List

variable {s : State} {body : List Byte} (hp : s.setup.part = .run)
include hp

theorem listRequest_of_badValue (hv : resourceOf? (natAt body 0) = none ∨ body.length ≠ 2 ∨ 47 < natAt body 1) :
    s.listRequest body = s.refuse .badValue := by
  rw [State.listRequest, State.inRun_of_run hp]
  cases hr : resourceOf? (natAt body 0) with
  | none => rfl
  | some r => exact if_pos (hv.resolve_left (by simp [hr]))

theorem listRequest_of_passes {r : Resource} {start : Nat} (hs : start ≤ 47) :
    s.listRequest [r.byte, numByte start] = s.ok (.list (s.claimsOn r).length (s.listPage r start)) := by
  have hr : resourceOf? (natAt [r.byte, numByte start] 0) = some r := (resourceOf_some _ _).mpr rfl
  have hstart : natAt [r.byte, numByte start] 1 = start := numByte_toNat (by omega)
  rw [State.listRequest, State.inRun_of_run hp, hr]
  simp [hstart, State.listPage, Nat.not_lt.mpr hs]

end List

end Sys2Proof.Machine
end

section
/-! PROOFS. The statement about LIST. -/

namespace Sys2Proof.Machine

/-- Settles O10: the page of entries from the start index, place by place, and the order that LIST runs in. -/
theorem listReportsClaims : Obligations.ListReportsClaims := by
  intro l s h
  refine ⟨fun hp body hb => ?_, fun hp => ⟨fun body hb hv => ?_, fun r start hs hinv =>
    ⟨s.listPage r start, ?_, listPage_length_le s r start, fun n hn => listPage_getElem? hinv r start hn⟩⟩,
    fun d => rfl, fun g => rfl, fun r hr => ?_, fun hinv d i c hi hc => driveList_ne_complete hinv hi hc⟩
  · rw [exec_list h hb, listRequest_of_config hp, refuse_outcome]
  · rw [exec_list h hb, listRequest_of_badValue hp hv, refuse_outcome]
  · rw [exec_list h (by simp), listRequest_of_passes hp hs, ok_outcome]
  · rw [claimsOn_of_sense s hr]
    exact ⟨slotsWhere_pairwise_lt s _, mem_members s r⟩

end Sys2Proof.Machine
end

section
/-! SUPPORT. The rules of chapters 3 and 4 at every command, and the commands at which no channel's duty rises: one lemma
per operation, over `Subsides`. -/

namespace Sys2Proof

/-- A channel's rules read its gate's open state and close pattern alone. -/
theorem DriveChannel.ok_congr {u v : GateUnit} {ch : DriveChannel} (ho : v.isOpen = u.isOpen)
    (hc : v.close = u.close) (h : ch.ok u) : ch.ok v := by
  unfold DriveChannel.ok at *
  rwa [ho, hc]

end Sys2Proof

namespace Sys2Proof.Machine

/-- The gates and channels stay as the rules of chapters 3 and 4 leave them, and no channel's duty rises (R65). -/
structure Subsides (s t : State) : Prop where
  stop : StopInv s → StopInv t
  duty : ∀ d : Drive, (t.drives.get d).duty ≤ (s.drives.get d).duty

theorem Subsides.refl (s : State) : Subsides s s := ⟨id, fun _ => le_rfl⟩

theorem Subsides.trans {s t u : State} (h : Subsides s t) (k : Subsides t u) : Subsides s u :=
  ⟨k.stop ∘ h.stop, fun d => (k.duty d).trans (h.duty d)⟩

theorem Subsides.fold {α : Type} {s t : State} (h : Subsides s t) {work : State → α → State}
    (hw : ∀ now x, Subsides now (work now x)) (xs : List α) : Subsides s (xs.foldl work t) :=
  foldl_holds (fun now x hn => hn.trans (hw now x)) xs h

theorem Subsides.ite {p : Prop} [Decidable p] {s t u : State} (ht : Subsides s t) (hu : Subsides s u) :
    Subsides s (if p then t else u) := by
  split
  · exact ht
  · exact hu

/-- A change that leaves the channels, and the open state and the close pattern of each gate. -/
theorem Subsides.of_drives {s t : State} (hd : t.drives = s.drives)
    (hg : ∀ g, (t.gates.get g).isOpen = (s.gates.get g).isOpen ∧ (t.gates.get g).close = (s.gates.get g).close ∧
      ((s.gates.get g).ok → (t.gates.get g).ok)) : Subsides s t where
  stop := by
    rintro ⟨hgates, hdrives⟩
    refine ⟨fun g => ?_, fun d => ?_⟩
    · obtain ⟨-, -, hok⟩ := hg g
      exact hok (hgates g)
    · obtain ⟨hopen, hclose, -⟩ := hg d.parent
      exact hd ▸ DriveChannel.ok_congr hopen hclose (hdrives d)
  duty d := by rw [hd]

/-- A change that leaves the gates and the channels. -/
theorem Subsides.of_frame {s t : State} (hg : t.gates = s.gates) (hd : t.drives = s.drives) : Subsides s t :=
  .of_drives hd fun g => by simp [hg]

/-- What subsides after a change that leaves the gates and the channels. -/
theorem Subsides.after_frame {s t u : State} (h : Subsides t u) (hg : t.gates = s.gates) (hd : t.drives = s.drives) :
    Subsides s u := (Subsides.of_frame hg hd).trans h

/-- A change that leaves the channels and runs the gates' counters. -/
theorem Subsides.of_runs {s t : State} (hd : t.drives = s.drives) (n : Nat)
    (hg : ∀ g, t.gates.get g = GateUnit.run n (s.gates.get g)) : Subsides s t :=
  .of_drives hd fun g => by simpa [hg g] using GateUnit.run_ok n _

/-! ### Time -/

theorem State.passClocks_subsides (s : State) (n : Nat) : Subsides s (s.passClocks n) :=
  .of_runs (by simp) _ (s.passClocks_gates n)

theorem State.nextTick_subsides (waits : Bool) (s : State) : Subsides s (s.nextTick waits) :=
  .of_runs (by simp) _ (s.nextTick_gates waits)

theorem State.takeCount_subsides (s : State) : Subsides s s.takeCount :=
  .ite (.of_frame rfl rfl) (s.nextTick_subsides false)

theorem State.atInstant_subsides (s : State) (n : Nat) {event : State → State}
    (h : ∀ u, Subsides u (event u)) : Subsides s (s.atInstant n event) :=
  .ite ((s.passClocks_subsides n).trans (h _)) (.refl s)

theorem State.idle_subsides (s : State) : Subsides s s.idle := .ite (.refl s) (s.passClocks_subsides 1)

/-! ### The evaluation of a gate -/

/-- An evaluation of a gate leaves each channel's duty, or halts the channel at 0 (R43, R45, R50). -/
theorem State.evalGate_duty_le (s : State) (g : Gate) (d : Drive) :
    ((s.evalGate g).drives.get d).duty ≤ (s.drives.get d).duty := by
  unfold State.evalGate
  split
  · split
    · exact le_rfl
    · rw [State.closeGate_drive]
      split <;> simp
  · split
    · rw [State.openGate_drive]
      split <;> simp
    · rw [State.rePattern_drive]
      split <;> simp

/-- A gate that evaluates its condition on a hold list that has changed (R41, R52, R53). -/
theorem State.evalGate_holds_subsides (s : State) (g : Gate) (holds : List TripHold) :
    Subsides s ((s.setGate g { s.gates.get g with holds := holds }).evalGate g) where
  stop := by
    rintro ⟨hgates, hdrives⟩
    generalize hu : s.setGate g { s.gates.get g with holds := holds } = u
    have hself : u.gates.get g = { s.gates.get g with holds := holds } := by simp [← hu]
    have hother : ∀ k, k ≠ g → u.gates.get k = s.gates.get k := fun k hk => by simp [← hu, PerGate.get_set, hk]
    have hd : u.drives = s.drives := by simp [← hu]
    obtain ⟨hopened, hclosed⟩ := hgates g
    obtain ⟨hgate, hunder⟩ : (((u.evalGate g).gates.get g).ok ∧
        ∀ d : Drive, d.parent = g → ((u.evalGate g).drives.get d).ok ((u.evalGate g).gates.get g)) := by
      refine u.evalGate_ok g ?_ ?_ ?_ <;> rw [hself]
      · intro ho
        obtain ⟨-, -, hcounts⟩ := hopened ho
        exact hcounts
      · exact hclosed
      · rintro d rfl
        exact hd ▸ DriveChannel.ok_congr rfl rfl (hdrives d)
    refine ⟨fun k => ?_, fun d => ?_⟩
    · by_cases hk : k = g
      · exact hk ▸ hgate
      · rw [u.evalGate_other g k hk, hother k hk]
        exact hgates k
    · by_cases hk : d.parent = g
      · rw [hk]
        exact hunder d hk
      · rw [u.evalGate_otherDrive g d hk, u.evalGate_other g _ hk, hother _ hk, hd]
        exact hdrives d
  duty := State.evalGate_duty_le _ g

theorem State.evalGate_subsides (s : State) (g : Gate) : Subsides s (s.evalGate g) := by
  have h := s.evalGate_holds_subsides g (s.gates.get g).holds
  rwa [State.setGate, PerGate.set_get_self] at h

theorem State.takeHold_subsides (s : State) (g : Gate) (new : TripHold) : Subsides s (s.takeHold g new) :=
  s.evalGate_holds_subsides g _

theorem State.removeHold_subsides (s : State) (g : Gate) (src : Source) : Subsides s (s.removeHold g src) :=
  s.evalGate_holds_subsides g _

theorem State.takeTrip_subsides (s : State) (g : Gate) : Subsides s (s.takeTrip g) := by
  unfold State.takeTrip
  split
  · exact .refl s
  · rename_i t ts _
    have hqueue : Subsides s { s with trips := s.trips.set g ts } := .of_frame rfl rfl
    exact (hqueue.trans (State.takeHold_subsides _ g (s.holdOf t))).trans (.of_frame (by simp) (by simp))

/-! ### The ending of claims -/

theorem State.endInDrive_subsides (s : State) (d : Drive) (cause : EndCause) (ending : List SlotIx) :
    Subsides s (s.endInDrive d cause ending) := .of_frame (by simp) (by simp)

theorem State.endInGate_subsides (s : State) (g : Gate) (cause : EndCause) (ending : List SlotIx) :
    Subsides s (s.endInGate g cause ending) := by
  refine .ite (Subsides.trans ?_ (State.evalGate_subsides _ g)) (.refl s)
  exact (Subsides.refl s).fold (fun now i => .of_frame (by simp) (by simp)) _ |>.trans (.of_frame rfl rfl)

theorem State.endClaims_subsides (s : State) (cause : EndCause) (ending : List SlotIx) :
    Subsides s (s.endClaims cause ending) := by
  have hdrive := fun (now : State) d => now.endInDrive_subsides d cause ending
  have hgate := fun (now : State) g => now.endInGate_subsides g cause ending
  have houtside := fun (now : State) i => Subsides.of_frame (s := now) (t := now.endOutsideLists cause i)
    (by simp) (by simp)
  exact ((((Subsides.refl s).fold hdrive _).fold hgate _).fold hdrive _).fold houtside _

theorem State.expire_subsides (s : State) (i : SlotIx) : Subsides s (s.expire i) := by
  unfold State.expire
  split
  · exact .refl s
  · exact .ite (s.endClaims_subsides _ _)
      (.ite ((s.nextTick_subsides true).trans (State.endClaims_subsides _ _ _)) (.refl s))

/-- The holds that pass to the authority link leave an OPEN gate's hold list empty (R173). -/
theorem State.passHolds_subsides (s : State) (l : Link) : Subsides s (s.passHolds l) := by
  refine .of_drives rfl fun g => ?_
  have hg : (s.passHolds l).gates.get g = { s.gates.get g with
      holds := (s.gates.get g).holds.map (TripHold.pass l s.setup.authority) } := by cases g <;> rfl
  rw [hg]
  refine ⟨rfl, rfl, fun ⟨hopen, hclosed⟩ => ⟨fun ho => ?_, hclosed⟩⟩
  obtain ⟨hholds, hrest⟩ := hopen ho
  exact ⟨by simp [hholds], hrest⟩

theorem State.evictLink_subsides (s : State) (l : Link) : Subsides s (s.evictLink l) := by
  have hbar : Subsides s (s.barLink l) := .of_frame (by simp) (by simp)
  have hover := fun (now : State) i => Subsides.of_frame (s := now) (t := now.handOverPinned i) (by simp) (by simp)
  have hended := (hbar.trans (State.endClaims_subsides _ .retire (s.endable l))).fold hover
    (State.pinnedOf ((s.barLink l).endClaims .retire (s.endable l)) l)
  exact (hended.trans (State.passHolds_subsides _ l)).trans (.of_frame rfl rfl)

/-! ### Events other than a period end -/

theorem State.advance_subsides (s : State) : Subsides s s.advance :=
  s.takeCount_subsides.trans (.of_frame (by simp [State.advance]) (by simp))

theorem State.complete_subsides (s : State) (f : Conversion) (v : Nat) : Subsides s (s.complete f v) := by
  refine .of_frame ?_ (by simp)
  simp only [State.complete, State.decideIfFree_gates]
  exact foldl_keeps State.gates _ (fun _ _ => by simp) _ _

theorem State.pinChange_subsides (s : State) (e : EdgeIn) (v : Level) (n : Nat) : Subsides s (s.pinChange e v n) := by
  have hpass : Subsides s ((s.passToMicro n).acceptDue e) :=
    (s.passClocks_subsides _).trans (.of_frame (State.acceptDue_gates _ e) (State.acceptDue_drives _ e))
  refine .ite (.refl s) (.ite ?_ (.ite ?_ ?_))
  · exact hpass.trans (.of_frame rfl rfl)
  · exact hpass.trans (.of_frame (by simp) (by simp))
  · exact hpass.trans (.of_frame rfl rfl)

/-- The gates and the channels after a reset (R55, R81). -/
theorem Subsides.of_reset {s t : State} (hg : t.gates = ⟨gateAtReset, gateAtReset⟩)
    (hd : t.drives = ⟨driveAtReset, driveAtReset, driveAtReset⟩) : Subsides s t := by
  have hgate : ∀ g, t.gates.get g = gateAtReset := fun g => by rw [hg]; cases g <;> rfl
  have hdrive : ∀ d, t.drives.get d = driveAtReset := fun d => by rw [hd]; cases d <;> rfl
  refine ⟨fun _ => ⟨fun g => ?_, fun d => ?_⟩, fun d => ?_⟩
  · simp [hgate g, GateUnit.ok, gateAtReset]
  · simp [hgate, hdrive d, DriveChannel.ok, driveAtReset, gateAtReset, StopPattern.pins]
  · simp [hdrive d, driveAtReset]

/-! ### Requests -/

theorem State.handOver_subsides (s : State) (r : Resource) (i : SlotIx) : Subsides s (s.handOver r i) := by
  cases r with
  | drive d => exact .of_frame (by simp [State.handOver]) (by simp [State.handOver])
  | gate g => exact (State.evalGate_subsides _ g).after_frame rfl rfl
  | analog _ => exact .refl s
  | edge _ => exact .refl s

theorem State.handAmended_subsides (s : State) (c : Claim) (i : SlotIx) : Subsides s (s.handAmended c i) := by
  unfold State.handAmended
  split
  · exact .ite (.of_frame (by simp) (by simp)) (.refl s)
  · exact s.evalGate_subsides _
  · exact .refl s
  · exact .refl s

theorem Change.subsides {s t : State} (h : Change s t) : Subsides s t := by
  cases h with
  | nothing => exact .refl s
  | tookNotices l =>
    have hentry := fun (now : State) e => Subsides.of_frame (now.takeEntry_gates e) (now.takeEntry_drives e)
    exact ((Subsides.refl _).fold hentry _).after_frame rfl rfl
  | opened l body r i f _ => exact (State.handOver_subsides _ r i).after_frame rfl rfl
  | amended body l i c f _ _ => exact (State.handAmended_subsides _ c i).after_frame rfl rfl
  | renewedAll l =>
    have hrenew := fun (now : State) i => Subsides.of_frame (now.renewClaim_gates i) (now.renewClaim_drives i)
    exact (Subsides.refl s).fold hrenew _
  | retired l body i c _ => exact s.endClaims_subsides _ _
  | droppedAll l _ => exact (s.endClaims_subsides _ _).trans (.of_frame rfl rfl)
  | cleared g src _ => exact s.removeHold_subsides g src
  | tested g src _ => exact s.takeHold_subsides g _
  | evicted l _ _ => exact s.evictLink_subsides l
  | read | renewed | pinned | admitted | reach | window | filter | polarity | locked => exact .of_frame rfl rfl

/-- What taking a request leaves: the state, where it is not taken, or a change and a response held (R155). -/
inductive Requested (s : State) (l : Link) : State → Prop
  | left : Requested s l s
  | answered (u : State) (h : Change s u) (r : Response) : Requested s l (u.holdResponse l r)

theorem State.takeRequest_requested (s : State) (l : Link) (code : Byte) (body : List Byte) {answer : State → Answer}
    (h : Change s (answer s).state) : Requested s l (s.takeRequest l code body answer) := by
  unfold State.takeRequest
  split
  · exact .left
  · split
    · exact .answered s .nothing _
    · exact .answered _ h _

theorem Requested.subsides {s t : State} {l : Link} (h : Requested s l t) : Subsides s t := by
  cases h with
  | left => exact .refl s
  | answered u hu r => exact hu.subsides.trans (.of_frame rfl rfl)

/-- The request that a frame's code names (R155). -/
theorem takeByCode_requested (l : Link) (code : Byte) (body : List Byte) (s : State) :
    ∃ t, takeByCode l code body s = .next t ∧ Requested s l t := by
  unfold takeByCode
  split
  · exact ⟨_, rfl, s.takeRequest_requested _ _ _ .nothing⟩
  · exact ⟨_, rfl, s.takeRequest_requested _ _ _ (by rw [s.statusRequest_state]; exact .nothing)⟩
  · exact ⟨_, rfl, s.takeRequest_requested _ _ _ (by rw [s.tripsRequest_state]; exact .nothing)⟩
  · exact ⟨_, rfl, s.takeRequest_requested _ _ _ (by rw [s.listRequest_state]; exact .nothing)⟩
  · exact ⟨_, rfl, s.takeRequest_requested _ _ _ (s.readRequest_change l body)⟩
  · exact ⟨_, rfl, s.takeRequest_requested _ _ _ (by rw [s.lookupRequest_state]; exact .nothing)⟩
  · exact ⟨_, rfl, s.takeRequest_requested _ _ _ (s.takeNoticesRequest_change l body)⟩
  · exact ⟨_, rfl, s.takeRequest_requested _ _ _ (s.openRequest_change l body)⟩
  · exact ⟨_, rfl, s.takeRequest_requested _ _ _ (s.amendRequest_change l body)⟩
  · split
    · exact ⟨_, rfl, s.takeRequest_requested _ _ _ (s.renewAllRequest_change l)⟩
    · refine ⟨_, rfl, s.takeRequest_requested _ _ _ ?_⟩
      split
      · exact s.renewAllRequest_change l
      · exact s.renewRequest_change l body
  · exact ⟨_, rfl, s.takeRequest_requested _ _ _ (s.retireRequest_change l body)⟩
  · exact ⟨_, rfl, s.takeRequest_requested _ _ _ (s.dropAllRequest_change l body)⟩
  · exact ⟨_, rfl, s.takeRequest_requested _ _ _ (s.clearTripRequest_change l body)⟩
  · exact ⟨_, rfl, s.takeRequest_requested _ _ _ (s.testTripRequest_change l body)⟩
  · exact ⟨_, rfl, s.takeRequest_requested _ _ _ (s.pinRequest_change l body)⟩
  · exact ⟨_, rfl, s.takeRequest_requested _ _ _ (s.evictRequest_change l body)⟩
  · exact ⟨_, rfl, s.takeRequest_requested _ _ _ (s.admitRequest_change l body)⟩
  · exact ⟨_, rfl, s.takeRequest_requested _ _ _ (s.setReachRequest_change l body)⟩
  · exact ⟨_, rfl, s.takeRequest_requested _ _ _ (s.setAnalogRequest_change l body)⟩
  · exact ⟨_, rfl, s.takeRequest_requested _ _ _ (s.setEdgeRequest_change l body)⟩
  · exact ⟨_, rfl, s.takeRequest_requested _ _ _ (s.setDriveRequest_change l body)⟩
  · exact ⟨_, rfl, s.takeRequest_requested _ _ _ (s.lockSetupRequest_change l body)⟩
  · exact ⟨_, rfl, .left⟩

theorem takeByCode_subsides (l : Link) (code : Byte) (body : List Byte) (s : State) :
    ∃ t, takeByCode l code body s = .next t ∧ Subsides s t := by
  obtain ⟨t, ht, hr⟩ := takeByCode_requested l code body s
  exact ⟨t, ht, hr.subsides⟩

/-! ### Commands -/

/-- Every command but a period end keeps the rules of the gates and channels, and raises no duty (R65). -/
theorem exec_subsides (c : Instr) (s : State) (hc : ∀ g, c ≠ .periodEnd g) :
    ∃ t, exec c s = .next t ∧ Subsides s t := by
  cases c with
  | powerOnReset => exact ⟨_, rfl, .of_reset rfl rfl⟩
  | resetRelease auth pins csLow => exact ⟨_, rfl, .ite (.of_reset rfl rfl) (.refl s)⟩
  | windowBegin l => exact ⟨_, rfl, .ite (.refl s) (.of_frame rfl rfl)⟩
  | frameRefused l bits =>
    change ∃ t, execFrameRefused l bits s = .next t ∧ Subsides s t
    unfold execFrameRefused
    split
    · exact ⟨_, rfl, .refl s⟩
    · cases hf : frameError (s.received l ++ bits) with
      | some r => exact ⟨_, riseOfCs_error hf l s, .of_frame rfl rfl⟩
      | none => exact riseOfCs_request hf l s ▸ takeByCode_subsides _ _ _ s
  | poll l body => exact takeByCode_subsides l 0x00#8 body s
  | status l body => exact takeByCode_subsides l 0x01#8 body s
  | trips l body => exact takeByCode_subsides l 0x02#8 body s
  | list l body => exact takeByCode_subsides l 0x03#8 body s
  | read l body => exact takeByCode_subsides l 0x04#8 body s
  | lookup l body => exact takeByCode_subsides l 0x05#8 body s
  | takeNotices l body => exact takeByCode_subsides l 0x06#8 body s
  | openClaim l body => exact takeByCode_subsides l 0x10#8 body s
  | amend l body => exact takeByCode_subsides l 0x11#8 body s
  | renew l body =>
    refine ⟨_, rfl, (s.takeRequest_requested _ _ _ ?_).subsides⟩
    split
    · exact s.renewAllRequest_change l
    · exact s.renewRequest_change l body
  | renewAll l => exact takeByCode_subsides l 0x12#8 [] s
  | retire l body => exact takeByCode_subsides l 0x13#8 body s
  | dropAll l body => exact takeByCode_subsides l 0x14#8 body s
  | clearTrip l body => exact takeByCode_subsides l 0x20#8 body s
  | testTrip l body => exact takeByCode_subsides l 0x21#8 body s
  | pin l body => exact takeByCode_subsides l 0x30#8 body s
  | evict l body => exact takeByCode_subsides l 0x31#8 body s
  | admitLink l body => exact takeByCode_subsides l 0x32#8 body s
  | setReach l body => exact takeByCode_subsides l 0x40#8 body s
  | setAnalog l body => exact takeByCode_subsides l 0x41#8 body s
  | setEdge l body => exact takeByCode_subsides l 0x42#8 body s
  | setDrive l body => exact takeByCode_subsides l 0x43#8 body s
  | lockSetup l body => exact takeByCode_subsides l 0x44#8 body s
  | cadenceAdvance => exact ⟨_, rfl, .ite (.refl s) s.advance_subsides⟩
  | holdExpiry i => exact ⟨_, rfl, .ite (.refl s) (s.expire_subsides i)⟩
  | periodEnd g => exact absurd rfl (hc g)
  | conversionComplete value =>
    refine ⟨_, rfl, .ite (.refl s) ?_⟩
    split
    · exact .refl s
    · exact s.atInstant_subsides _ fun u => u.complete_subsides _ _
  | edgePinChange e lvl micros => exact ⟨_, rfl, .ite (.refl s) (s.pinChange_subsides e lvl micros)⟩
  | acceptedEdge e =>
    refine ⟨_, rfl, .ite (.refl s) ?_⟩
    split
    · exact .refl s
    · exact s.atInstant_subsides _ fun u => .of_frame (by simp) (by simp)
  | tripTaken g => exact ⟨_, rfl, .ite (.refl s) (s.takeTrip_subsides g)⟩
  | csRiseAfterReset l => exact ⟨_, rfl, .ite (.refl s) (.of_frame rfl rfl)⟩

end Sys2Proof.Machine
end

section
/-! SUPPORT. A period end: the rules of the gate and of its channels after it, and the channel whose duty it raises. -/

namespace Sys2Proof.Machine

/-- A gate unit stays as chapter 3 leaves it at its wrap (R47, R48). -/
theorem GateUnit.wrap_ok {u : GateUnit} (ho : u.isOpen = true) (h : u.ok) : (GateUnit.wrap u).ok := by
  obtain ⟨hholds, hclose, -⟩ := h.1 ho
  refine GateUnit.run_ok _ _ ⟨fun _ => ⟨hholds, hclose, Nat.zero_le _, fun hw => absurd rfl hw⟩, fun hc => ?_⟩
  simp [ho] at hc

/-- After a period end of an OPEN gate every gate and channel keeps the rules of chapters 3 and 4. -/
theorem State.gatePeriodEnd_stop {s : State} {g : Gate} (h : StopInv s) (ho : s.gateIsOpen g = true) :
    StopInv (s.gatePeriodEnd g) := by
  obtain ⟨hgates, hdrives⟩ := h
  refine ⟨fun k => ?_, fun d => ?_⟩
  · rw [State.gatePeriodEnd_gates, PerGate.get_set]
    split
    · exact GateUnit.wrap_ok ho (hgates g)
    · exact hgates k
  · by_cases hd : d.parent = g
    · rw [hd]
      exact s.gatePeriodEnd_ok g ho (fun e he => he ▸ hdrives e) d hd
    · rw [State.gatePeriodEnd_otherDrive _ _ _ hd, State.gatePeriodEnd_gates, PerGate.get_set, if_neg hd]
      exact hdrives d

/-- A duty that winds down does not rise (R70). -/
theorem State.windingDuty_le (s : State) (d : Drive) : s.windingDuty d ≤ (s.drives.get d).duty := by
  unfold State.windingDuty moveToward
  split
  · exact Nat.zero_le _
  · simp

/-- The work of a channel's phase raises its duty only as RUNNING (R68, R70). -/
theorem State.workedChannel_rise {s : State} {d : Drive}
    (h : (s.drives.get d).duty < (s.workedChannel d).duty) : (s.workedChannel d).phase = .running := by
  have hwind := not_lt_of_ge (s.windingDuty_le d)
  have hrun (hlt : (s.drives.get d).duty < s.runningDuty d) :
      (if (s.headView d).isNone = true ∧ s.runningDuty d = 0 then Phase.idle else .running) = .running :=
    if_neg fun hzero => by omega
  revert h
  unfold State.workedChannel
  dsimp only
  cases (s.drives.get d).phase with
  | halted | switching | dwell => exact fun h => absurd h (lt_irrefl _)
  | idle =>
    dsimp only
    split
    · exact fun h => absurd h (lt_irrefl _)
    · split
      · exact hrun
      · exact fun h => absurd h (lt_irrefl _)
  | running =>
    dsimp only
    split
    · exact fun h => absurd h hwind
    · exact hrun
  | windingDown =>
    dsimp only
    split
    · exact hrun
    · exact fun h => absurd h hwind

/-- A channel after its own period end: its phase worked, with some compare count (R66). -/
theorem State.channelPeriodEnd_self (s : State) (d : Drive) :
    ∃ n, (s.channelPeriodEnd d).drives.get d = { s.workedChannel d with compare := n } :=
  ⟨_, by rw [State.channelPeriodEnd_drives, PerDrive.get_set_self]⟩

/-- A channel under the gate of a period end, after its work and its compare count (R66), worked from a state that holds
the channel as it was. -/
theorem State.gatePeriodEnd_drive (s : State) (d : Drive) : ∃ (u : State) (n : Nat),
    u.drives.get d = s.drives.get d ∧
      (s.gatePeriodEnd d.parent).drives.get d = { u.workedChannel d with compare := n } := by
  unfold State.gatePeriodEnd
  generalize hw : s.setGate d.parent (GateUnit.wrap (s.gates.get d.parent)) = w
  have hd : w.drives = s.drives := by rw [← hw]; rfl
  cases d with
  | dl =>
    obtain ⟨n, hn⟩ := w.channelPeriodEnd_self .dl
    exact ⟨w, n, by rw [hd], by simpa [Gate.children, Drive.parent] using hn⟩
  | dr =>
    obtain ⟨n, hn⟩ := (w.channelPeriodEnd .dl).channelPeriodEnd_self .dr
    exact ⟨w.channelPeriodEnd .dl, n, by simp [hd], by simpa [Gate.children, Drive.parent] using hn⟩
  | db =>
    obtain ⟨n, hn⟩ := w.channelPeriodEnd_self .db
    exact ⟨w, n, by rw [hd], by simpa [Gate.children, Drive.parent] using hn⟩

/-- A period end raises the duty of a channel under its gate alone, and leaves that channel RUNNING. -/
theorem State.gatePeriodEnd_rise {s : State} {g : Gate} {d : Drive}
    (h : (s.drives.get d).duty < ((s.gatePeriodEnd g).drives.get d).duty) :
    d.parent = g ∧ ((s.gatePeriodEnd g).drives.get d).phase = .running := by
  by_cases hd : d.parent = g
  · subst hd
    obtain ⟨u, n, hu, hworked⟩ := s.gatePeriodEnd_drive d
    rw [hworked] at h ⊢
    exact ⟨rfl, State.workedChannel_rise (hu ▸ h)⟩
  · rw [State.gatePeriodEnd_otherDrive _ _ _ hd] at h
    exact absurd h (lt_irrefl _)

/-- A period end leaves the state, or is worked after some gate clocks at an OPEN gate (R47). -/
theorem exec_periodEnd (g : Gate) (s : State) : exec (.periodEnd g) s = .next s ∨
    s.gateIsOpen g = true ∧ ∃ n, exec (.periodEnd g) s = .next ((s.passClocks n).gatePeriodEnd g) := by
  change execPeriodEnd g s = _ ∨ _ ∧ ∃ n, execPeriodEnd g s = _
  unfold execPeriodEnd State.atInstant
  split
  · exact .inl rfl
  split
  · rename_i ho
    split
    · exact .inr ⟨ho, _, rfl⟩
    · exact .inl rfl
  · exact .inl rfl

/-- A command keeps the rules of the gates and channels. -/
theorem exec_stop {c : Instr} {s t : State} (hs : StopInv s) (h : exec c s = .next t) : StopInv t := by
  by_cases hc : ∃ g, c = .periodEnd g
  · obtain ⟨g, rfl⟩ := hc
    obtain he | ⟨ho, n, he⟩ := exec_periodEnd g s
    · cases he.symm.trans h
      exact hs
    · cases he.symm.trans h
      refine State.gatePeriodEnd_stop ((s.passClocks_subsides n).stop hs) ?_
      simpa [State.gateIsOpen, s.passClocks_gates] using ho
  · obtain ⟨u, hu, hsub⟩ := exec_subsides c s (not_exists.mp hc)
    cases hu.symm.trans h
    exact hsub.stop hs

/-- A duty rises only at a period end that leaves its channel RUNNING. -/
theorem exec_rise {c : Instr} {s t : State} {d : Drive} (h : exec c s = .next t)
    (hlt : (s.drives.get d).duty < (t.drives.get d).duty) :
    c = .periodEnd d.parent ∧ (t.drives.get d).phase = .running := by
  by_cases hc : ∃ g, c = .periodEnd g
  · obtain ⟨g, rfl⟩ := hc
    obtain he | ⟨-, n, he⟩ := exec_periodEnd g s
    · cases he.symm.trans h
      exact absurd hlt (lt_irrefl _)
    · cases he.symm.trans h
      obtain ⟨rfl, hphase⟩ := State.gatePeriodEnd_rise (s := s.passClocks n) (by simpa using hlt)
      exact ⟨rfl, hphase⟩
  · obtain ⟨u, hu, hsub⟩ := exec_subsides c s (not_exists.mp hc)
    cases hu.symm.trans h
    exact absurd hlt (not_lt_of_ge (hsub.duty d))

/-- A step keeps the rules of the gates and channels. -/
theorem step_stop {s t : State} (hs : StopInv s) (h : step s = .next t) : StopInv t := by
  unfold step at h
  split at h
  · cases h
    exact s.idle_subsides.stop hs
  · rename_i c rest _
    exact exec_stop (s := { s with pending := rest }) hs h

end Sys2Proof.Machine
end

section
/-! SUPPORT. The head as its channel reads it, the effective target (R63), and the course toward a value (R64). -/

namespace Sys2Proof.Machine

/-- The head's view is the claim record of the first entry of the channel's list (R57, R66). -/
theorem headView_eq_some_iff (s : State) (d : Drive) (v : HeadView) : s.headView d = some v ↔
    ∃ c tl, s.driveList d = v.slot :: tl ∧ s.claim v.slot = some c ∧ c.state = v.state ∧
      c.payload = .drive v.body v.burstLeft := by
  constructor
  · intro h
    unfold State.headView at h
    split at h
    · contradiction
    rename_i i hhead
    split at h
    · contradiction
    rename_i c hc
    split at h
    · rename_i b left hp
      cases h
      exact ⟨c, _, List.eq_cons_of_mem_head? hhead, hc, rfl, hp⟩
    · contradiction
  · rintro ⟨c, tl, hl, hc, hstate, hp⟩
    simp [State.headView, State.head, hl, hc, hp, hstate]

/-- The effective target of a head (R63). -/
theorem effectiveTarget_some (v : HeadView) : effectiveTarget (some v) =
    if v.state = .retiring ∨ (v.body.burst ≠ 0 ∧ v.burstLeft = 0) ∨ v.body.direction = .brake ∨
      v.body.direction = .coast then 0 else v.body.target := by
  simp [effectiveTarget, HeadView.finished]

/-- A duty below the value rises by at most the ramp (R64). -/
theorem moveToward_of_lt {value ramp duty : Nat} (hr : ramp ≠ 0) (h : duty < value) :
    moveToward value ramp duty = min value (duty + ramp) := by
  rw [moveToward, if_neg hr, if_pos h]

/-- A duty at or above the value falls by at most the ramp, to the value at least (R64). -/
theorem moveToward_of_le {value ramp duty : Nat} (hr : ramp ≠ 0) (h : value ≤ duty) :
    moveToward value ramp duty = max value (duty - ramp) := by
  rw [moveToward, if_neg hr, if_neg (not_lt_of_ge h)]

/-- A duty at the value stays (R64). -/
theorem moveToward_self (value ramp : Nat) : moveToward value ramp value = value := by
  by_cases hr : ramp = 0
  · exact if_pos hr
  · rw [moveToward_of_le hr le_rfl]
    exact max_eq_left (Nat.sub_le _ _)

end Sys2Proof.Machine
end

section
/-! PROOFS. The statements about the drive channels. -/

namespace Sys2Proof.Machine

/-- Settles O50: the rules of the gates and channels at every step, and the one event at which a duty rises. -/
theorem dutyIsZeroUnlessRunning : Obligations.DutyIsZeroUnlessRunning := by
  refine ⟨fun s ⟨_, hdrives⟩ d => ?_, fun s t hs => step_stop hs, fun c s t d _ h hlt => exec_rise h hlt⟩
  obtain ⟨hhalted, -, hzero⟩ := hdrives d
  refine ⟨fun hp => ?_, fun hclosed => ?_⟩
  · exact hzero (fun e => by simp [e] at hp) (fun e => by simp [e] at hp)
  · have hp := hhalted.mpr hclosed
    exact hzero (by simp [hp]) (by simp [hp])

/-- Settles O44: the head's view from the claim record, then the rows of R63 and the cases of R64. -/
theorem effectiveTargetAndRamp : Obligations.EffectiveTargetAndRamp := by
  refine ⟨headView_eq_some_iff, rfl, rfl, fun v => ⟨rfl, fun hz => ?_, fun hz => ?_⟩, fun value ramp duty =>
    ⟨fun hr => if_pos hr, moveToward_of_lt, fun hr h => moveToward_of_le hr h.le, ?_⟩⟩
  · rw [effectiveTarget_some, if_pos hz]
  · rw [effectiveTarget_some, if_neg hz]
  · rintro rfl
    exact moveToward_self _ _

end Sys2Proof.Machine
end

section
/-! SUPPORT. CLEAR_TRIP: the hold that its body names, the condition that keeps a hold, and its checks one by one (R145
to R147). -/

namespace Sys2Proof.Machine

/-! ### The body of CLEAR_TRIP and TEST_TRIP -/

theorem holdBody_none_iff (body : List Byte) :
    holdBody? body = none ↔ body.length ≠ 2 ∨ gateOf? (natAt body 0) = none ∨ sourceOf? (natAt body 1) = none := by
  unfold holdBody?
  split
  · rename_i hlen
    simp [hlen]
  · rename_i hlen
    cases gateOf? (natAt body 0) <;> cases sourceOf? (natAt body 1) <;> simp [hlen]

/-- The two bytes of a gate and a source are read as that gate and that source. -/
theorem holdBody_bytes (g : Gate) (src : Source) :
    holdBody? [(Resource.gate g).byte, src.resource.byte] = some (g, src) := by
  have hg : gateOf? (natAt [(Resource.gate g).byte, src.resource.byte] 0) = some g := (gateOf_some _ g).mpr rfl
  have hs : sourceOf? (natAt [(Resource.gate g).byte, src.resource.byte] 1) = some src := (sourceOf_some _ src).mpr rfl
  simp [holdBody?, hg, hs]

/-! ### The hold for a source -/

theorem holdFor_of_forall_ne {s : State} {g : Gate} {src : Source}
    (h : ∀ x ∈ (s.gates.get g).holds, x.source ≠ src) : s.holdFor g src = none := by
  simpa [State.holdFor] using h

/-- Where no two holds have the same source, a hold is the one for its source (R51). -/
theorem holdFor_of_mem {s : State} {g : Gate} {x : TripHold} (hx : x ∈ (s.gates.get g).holds)
    (hn : ((s.gates.get g).holds.map TripHold.source).Nodup) : s.holdFor g x.source = some x := by
  obtain ⟨y, hy⟩ : ∃ y, s.holdFor g x.source = some y :=
    Option.isSome_iff_exists.mp (List.find?_isSome.mpr ⟨x, hx, by simp⟩)
  have hsrc : y.source = x.source := by simpa using List.find?_some hy
  rw [hy, List.inj_on_of_nodup_map hn (List.mem_of_find?_eq_some hy) hx hsrc]

/-- Where no two holds have the same source, one hold leaves the list with its source (R53). -/
theorem length_filter_source_ne {holds : List TripHold} {x : TripHold} (hx : x ∈ holds)
    (hn : (holds.map TripHold.source).Nodup) :
    (holds.filter fun y => decide (y.source ≠ x.source)).length = holds.length - 1 := by
  have hone : holds.countP (fun y => y.source == x.source) = 1 := by
    have := List.count_eq_one_of_mem hn (List.mem_map_of_mem hx)
    rwa [List.count, List.countP_map] at this
  have hsum := List.length_eq_countP_add_countP (fun y : TripHold => y.source == x.source) (l := holds)
  have hrest : (holds.filter fun y => decide (y.source ≠ x.source)).length =
      holds.countP fun y => decide ¬(y.source == x.source) = true := by
    simp [List.countP_eq_length_filter]
  omega

/-! ### The standing condition (R146) -/

/-- What a sense claim's body and runtime say when its condition stands for a gate (R146). -/
def Payload.Stands (g : Gate) (p : Payload) : Prop :=
  (∃ b r, p = .asense b r ∧ r.band = .high ∧ b.tripHigh.includes g = true) ∨
    (∃ b r, p = .asense b r ∧ r.band = .low ∧ b.tripLow.includes g = true) ∨
    (∃ b r, p = .esense b r ∧ b.mode ≠ .level ∧ r.stalled = true ∧ b.target.includes g = true) ∨
    ∃ b r, p = .esense b r ∧ b.mode = .level ∧ r.stable = b.active ∧ b.target.includes g = true

theorem analogStands_iff (b : AnalogBody) (r : AnalogRun) (g : Gate) :
    analogStands b r g = true ↔ Payload.Stands g (.asense b r) := by
  unfold analogStands
  cases hb : r.band <;> simp [Payload.Stands, hb]

theorem edgeStands_iff (b : EdgeBody) (r : EdgeRun) (g : Gate) :
    edgeStands b r g = true ↔ Payload.Stands g (.esense b r) := by
  unfold edgeStands
  cases hm : b.mode <;> simp [Payload.Stands, hm]

theorem standsAgainst_iff (src : Source) (g : Gate) (c : Claim) :
    Claim.standsAgainst src g c = true ↔ c.state = .active ∧ c.resource = src.resource ∧ Payload.Stands g c.payload := by
  unfold Claim.standsAgainst
  cases hp : c.payload with
  | asense b r => simp [analogStands_iff, and_assoc, and_left_comm]
  | esense b r => simp [edgeStands_iff, and_assoc, and_left_comm]
  | drive b n => simp [Payload.Stands]
  | gate b => simp [Payload.Stands]

theorem standing_iff (s : State) (g : Gate) (src : Source) :
    s.standing g src = true ↔
      ∃ i c, s.claim i = some c ∧ c.state = .active ∧ c.resource = src.resource ∧ Payload.Stands g c.payload := by
  simp only [State.standing, Bool.not_eq_true', List.isEmpty_eq_false_iff_exists_mem, State.mem_slotsWhere,
    standsAgainst_iff]

/-! ### The removal (R53) -/

/-- The evaluation of the gate keeps the holds that a removal leaves. -/
theorem removeHold_holds (s : State) (g : Gate) (src : Source) :
    ((s.removeHold g src).gates.get g).holds =
      (s.gates.get g).holds.filter fun x => decide (x.source ≠ src) := by
  simp [State.removeHold]

/-! ### The checks in order (R145) -/

theorem exec_clearTrip {s : State} {l : Link} {body : List Byte} (h : s.canTake l) (hb : body.length ≤ 28) :
    exec (.clearTrip l body) s = (s.clearTripRequest l body).outcome l 0x20#8 :=
  takeRequest_outcome h _ hb _

theorem clearTripRequest_of_config {s : State} (hp : s.setup.part = .config) (l : Link) (body : List Byte) :
    s.clearTripRequest l body = s.refuse .notReady := State.inRun_of_config hp _

section ClearTrip

variable {s : State} {l : Link} {body : List Byte} (hp : s.setup.part = .run)
include hp

theorem clearTripRequest_of_badValue (hv : holdBody? body = none) :
    s.clearTripRequest l body = s.refuse .badValue := by
  rw [State.clearTripRequest, State.inRun_of_run hp, hv]

variable {g : Gate} {src : Source} (hv : holdBody? body = some (g, src))
include hv

theorem clearTripRequest_of_notHeld (hh : s.holdFor g src = none) :
    s.clearTripRequest l body = s.refuse .notHeld := by
  simp only [State.clearTripRequest, State.inRun_of_run hp, hv, hh]

variable {x : TripHold} (hh : s.holdFor g src = some x)
include hh

theorem clearTripRequest_of_notOwner (ho : l ≠ x.owner) (ha : l ≠ s.setup.authority) :
    s.clearTripRequest l body = ⟨s, .notOwner, .holder x.owner⟩ := by
  simp only [State.clearTripRequest, State.inRun_of_run hp, hv, hh]
  exact if_pos ⟨ho, ha⟩

variable (hl : l = x.owner ∨ l = s.setup.authority)
include hl

theorem clearTripRequest_of_standing (hs : s.standing g src = true) :
    s.clearTripRequest l body = ⟨s, .stillActive, .holder x.owner⟩ := by
  simp only [State.clearTripRequest, State.inRun_of_run hp, hv, hh]
  rw [if_neg (fun ⟨ho, ha⟩ => hl.elim ho ha), if_pos hs]

theorem clearTripRequest_of_removed (hs : ¬s.standing g src = true) :
    s.clearTripRequest l body = (s.removeHold g src).gateAnswer g := by
  simp only [State.clearTripRequest, State.inRun_of_run hp, hv, hh]
  rw [if_neg (fun ⟨ho, ha⟩ => hl.elim ho ha), if_neg hs]

end ClearTrip

end Sys2Proof.Machine
end

section
/-! PROOFS. The statement about CLEAR_TRIP. -/

namespace Sys2Proof.Machine

/-- Settles O33: the checks of CLEAR_TRIP one by one on the one hold for the source, and the list that the removal
leaves. -/
theorem clearTripChecksAndRemoves : Obligations.ClearTripChecksAndRemoves := by
  intro l s h answer
  refine ⟨fun body hb hp => ?_, fun body hb hp hv => ?_, ?_⟩
  · rw [exec_clearTrip h hb, clearTripRequest_of_config hp, refuse_outcome]
  · rw [exec_clearTrip h hb, clearTripRequest_of_badValue hp ((holdBody_none_iff body).mpr hv), refuse_outcome]
  intro g src hp holds req standing
  have hexec : exec req s = (s.clearTripRequest l [(Resource.gate g).byte, src.resource.byte]).outcome l 0x20#8 :=
    exec_clearTrip h (by simp)
  have hbody := holdBody_bytes g src
  have hstands : s.standing g src = true ↔ standing := standing_iff s g src
  refine ⟨fun hne => ?_, fun x hx hsrc hnodup => ?_⟩
  · rw [hexec, clearTripRequest_of_notHeld hp hbody (holdFor_of_forall_ne hne), refuse_outcome]
  subst hsrc
  have hheld := holdFor_of_mem hx hnodup
  refine ⟨fun ho ha => ?_, fun hl hst => ?_, fun hl hst => ?_⟩
  · rw [hexec, clearTripRequest_of_notOwner hp hbody hheld ho ha]
    rfl
  · rw [hexec, clearTripRequest_of_standing hp hbody hheld hl (hstands.mpr hst)]
    rfl
  · intro t
    have hcount : ((s.removeHold g x.source).gates.get g).holds.length = holds.length - 1 := by
      rw [removeHold_holds, length_filter_source_ne hx hnodup]
    rw [hexec, clearTripRequest_of_removed hp hbody hheld hl (mt hstands.mp hst), State.gateAnswer, ok_outcome, hcount]
    rfl

end Sys2Proof.Machine
end

section
/-! SUPPORT. POLL and TRIPS: what each request answers, check by check (R160, R164). -/

namespace Sys2Proof.Machine

section Exec

variable {s : State} {l : Link} {body : List Byte} (h : s.canTake l) (hb : body.length ≤ 28)
include h hb

/-- The answer to POLL is of the link alone: its body is not read (R160). -/
theorem exec_poll : exec (.poll l body) s = (s.pollRequest l).outcome l 0x00#8 := takeRequest_outcome h _ hb _

theorem exec_trips : exec (.trips l body) s = (s.tripsRequest body).outcome l 0x02#8 := takeRequest_outcome h _ hb _

end Exec

/-- A response held changes the link's port alone, and keeps its barred mark (R155). -/
theorem State.holdResponse_eq_setPort (s : State) (l : Link) (r : Response) :
    s.holdResponse l r = s.setPort l ⟨.between, none, some r, (s.ports.get l).barred⟩ := rfl

/-- POLL answers with the four items of R160. -/
theorem pollRequest_eq (s : State) (l : Link) :
    s.pollRequest l = s.ok (.poll s.setup.part (s.notices.get l).length (s.ports.get l).barred
      ((List.finRange 48).countP fun i => (s.claim i).isNone)) := by
  rw [State.pollRequest, s.freeSlots_length, State.barred]

theorem tripsRequest_of_badValue {body : List Byte}
    (hv : body.length ≠ 2 ∨ gateOf? (natAt body 0) = none ∨ 19 < natAt body 1) (s : State) :
    s.tripsRequest body = s.refuse .badValue := by
  rw [State.tripsRequest]
  cases hg : gateOf? (natAt body 0) with
  | none => rfl
  | some g => exact if_pos (by simpa [hg] using hv)

/-- The body of a gate and a start index in range is read as these. -/
theorem tripsRequest_of_passes (s : State) (g : Gate) {start : Nat} (hs : start ≤ 19) :
    s.tripsRequest [(Resource.gate g).byte, numByte start] =
      s.ok (.trips (s.gates.get g).holds.length (((s.gates.get g).holds.drop start).take 6)) := by
  have hg : gateOf? (natAt [(Resource.gate g).byte, numByte start] 0) = some g := (gateOf_some _ g).mpr rfl
  have hstart : natAt [(Resource.gate g).byte, numByte start] 1 = start := numByte_toNat (by omega)
  rw [State.tripsRequest, hg]
  simp [hstart, Nat.not_lt.mpr hs]

end Sys2Proof.Machine
end

section
/-! PROOFS. The statements about POLL and TRIPS. -/

namespace Sys2Proof.Machine

/-- Settles O7: POLL passes every state and body, and its response is all that is put into the state. -/
theorem pollReportsFourItems : Obligations.PollReportsFourItems := by
  intro l body s h hb
  rw [exec_poll h hb, pollRequest_eq, ok_outcome, State.holdResponse_eq_setPort]

/-- Settles O9: a body that is read gives the page from its start index, any other is refused. -/
theorem tripsReportsHolds : Obligations.TripsReportsHolds := by
  intro l s h
  refine ⟨fun g start hs => ?_, fun body hb hv => ?_⟩
  · rw [exec_trips h (by simp), tripsRequest_of_passes s g hs, ok_outcome]
  · rw [exec_trips h hb, tripsRequest_of_badValue hv, refuse_outcome]

end Sys2Proof.Machine
end

section
/-! PROOFS. The arithmetic of one sense claim: the smoothed value, the band of an ASENSE claim, and the measurements of
an ESENSE claim at an edge and at an interval moment. -/

namespace Sys2Proof.Machine

/-! ### The smoothed value (R111) -/

/-- The floor of a gap over a power of two lies between 0 and the gap. -/
theorem ediv_two_pow_bounds (gap : Int) (s : Nat) :
    (0 ≤ gap → 0 ≤ gap / 2 ^ s ∧ gap / 2 ^ s ≤ gap) ∧ (gap < 0 → gap ≤ gap / 2 ^ s ∧ gap / 2 ^ s < 0) := by
  have hp : (1 : Int) ≤ 2 ^ s := one_le_pow₀ (by norm_num)
  have hpos : (0 : Int) < 2 ^ s := by omega
  refine ⟨fun h => ⟨Int.ediv_nonneg h hpos.le, Int.ediv_le_self _ h⟩, fun h => ⟨?_, Int.ediv_neg_of_neg_of_pos h hpos⟩⟩
  rw [Int.le_ediv_iff_mul_le hpos]
  nlinarith

theorem smooth_some (s old raw : Nat) : (smooth s (some old) raw : Int) = old + ((raw : Int) - old) / 2 ^ s := by
  obtain ⟨hup, hdown⟩ := ediv_two_pow_bounds ((raw : Int) - old) s
  have hnonneg : (0 : Int) ≤ old + ((raw : Int) - old) / 2 ^ s := by
    rcases le_or_gt 0 ((raw : Int) - old) with h | h
    · obtain ⟨hlo, -⟩ := hup h
      omega
    · obtain ⟨hlo, -⟩ := hdown h
      omega
  simp [smooth, Int.toNat_of_nonneg hnonneg]

/-- Settles O45: the smoothed value moves by the floor of the gap, whose bounds give every clause. -/
theorem smoothingStep : Obligations.SmoothingStep := by
  intro s old raw
  have hv := smooth_some s old raw
  obtain ⟨hup, hdown⟩ := ediv_two_pow_bounds ((raw : Int) - old) s
  have hpos : (0 : Int) < 2 ^ s := by positivity
  have hcast : ((2 ^ s : Nat) : Int) = 2 ^ s := by norm_num
  have hbetween : min old raw ≤ smooth s (some old) raw ∧ smooth s (some old) raw ≤ max old raw := by
    rcases le_or_gt 0 ((raw : Int) - old) with h | h
    · obtain ⟨hlo, hhi⟩ := hup h
      omega
    · obtain ⟨hlo, hhi⟩ := hdown h
      omega
  refine ⟨rfl, ?_, hbetween.1, hbetween.2, ?_, fun hle hlt => ?_, fun hle hge => ?_, fun hlt => ?_⟩
  · rw [hv, Int.fdiv_eq_ediv_of_nonneg _ hpos.le]
  · have h0 := smooth_some 0 old raw
    rw [pow_zero, Int.ediv_one] at h0
    omega
  · have hzero : ((raw : Int) - old) / 2 ^ s = 0 := Int.ediv_eq_zero_of_lt (by omega) (by omega)
    omega
  · have hone : 1 ≤ ((raw : Int) - old) / 2 ^ s := by
      rw [Int.le_ediv_iff_mul_le hpos]
      omega
    omega
  · obtain ⟨-, hneg⟩ := hdown (by omega)
    omega

/-! ### The band (R112 to R114) -/

theorem returnsToBand_iff (b : AnalogBody) (band : Band) (v : Nat) : returnsToBand b band v = true ↔
    (band = .high ∧ (v : Int) ≤ max 0 ((b.highLimit : Int) - b.hysteresis)) ∨
      (band = .low ∧ min 4095 (b.lowLimit + b.hysteresis) ≤ v) := by
  cases band <;> simp [returnsToBand]
  omega

/-- A claim that was in HIGH or LOW and does not return is not tested against its limits (R112). -/
theorem analogDeliver_of_outside {b : AnalogBody} {raw : Nat} {r : AnalogRun} (hb : r.band ≠ .inBand)
    (hr : returnsToBand b r.band (smooth b.smoothing r.smoothed raw) = false) :
    analogDeliver b raw r =
      ⟨{ r with raw := some raw, smoothed := some (smooth b.smoothing r.smoothed raw), fresh := true }, [.sample],
        none⟩ := by
  simp [analogDeliver, hr, hb]

/-- A claim in the band, or back in it, is tested against its limits (R113, R114). -/
theorem analogDeliver_of_tested {b : AnalogBody} {raw : Nat} {r : AnalogRun}
    (h : r.band = .inBand ∨ returnsToBand b r.band (smooth b.smoothing r.smoothed raw) = true) :
    let v := smooth b.smoothing r.smoothed raw
    let posts := if returnsToBand b r.band v = true then [NoticeKind.sample, .band] else [.sample]
    let stored := { r with raw := some raw, smoothed := some v, fresh := true }
    analogDeliver b raw r =
      if b.highLimit < v then
        if b.debounce ≤ r.above + 1 then
          ⟨{ stored with band := .high, above := 0, below := 0 }, posts ++ [.band], some .high⟩
        else ⟨{ stored with band := .inBand, above := r.above + 1, below := 0 }, posts, none⟩
      else if v < b.lowLimit then
        if b.debounce ≤ r.below + 1 then
          ⟨{ stored with band := .low, above := 0, below := 0 }, posts ++ [.band], some .low⟩
        else ⟨{ stored with band := .inBand, above := 0, below := r.below + 1 }, posts, none⟩
      else ⟨{ stored with band := .inBand, above := 0, below := 0 }, posts, none⟩ := by
  intro v posts stored
  have hband : (if returnsToBand b r.band v then Band.inBand else r.band) = .inBand := by
    split
    · rfl
    · exact h.resolve_right (by assumption)
  simp only [analogDeliver]
  rw [if_pos hband]

/-- Settles O46, by whether the claim is tested, and by where the smoothed value lies. -/
theorem deliveryWorksTheBand : Obligations.DeliveryWorksTheBand := by
  intro b raw r hlim o v back tested stored
  have hback : returnsToBand b r.band v = true ↔ back := returnsToBand_iff b r.band v
  by_cases ht : tested
  · have ho : o = _ := analogDeliver_of_tested (b := b) (raw := raw) (r := r) (ht.imp_right hback.mpr)
    rw [ho]
    refine ⟨?_, fun hn => absurd ht hn, fun _ => ⟨?_, fun hv => ⟨fun hd => ?_, fun hd => ?_⟩,
      fun hv => ⟨fun hd => ?_, fun hd => ?_⟩, fun hlo hhi => ?_⟩⟩
    · split_ifs <;> rfl
    · rw [← hback]
      cases hr : returnsToBand b r.band (smooth b.smoothing r.smoothed raw) <;> split_ifs <;> simp_all
    · simp [v, stored, hv, hd]
    · simp [v, stored, hv, not_le.mpr hd]
    · simp [v, stored, hv, hd, not_lt.mpr (hv.le.trans hlim)]
    · simp [v, stored, hv, not_le.mpr hd, not_lt.mpr (hv.le.trans hlim)]
    · simp [v, stored, not_lt.mpr hlo, not_lt.mpr hhi]
  · have hband : r.band ≠ .inBand := fun h => ht (.inl h)
    have hr : returnsToBand b r.band v = false := by
      rw [Bool.eq_false_iff]
      exact fun h => ht (.inr (hback.mp h))
    have ho : o = ⟨stored, [.sample], none⟩ := analogDeliver_of_outside hband hr
    exact ⟨by rw [ho]; rfl, fun _ => ho, fun h => absurd h ht⟩

/-! ### Edges and interval moments (R131 to R136) -/

/-- An empty interval that reaches the stall limit stalls the claim (R133). -/
theorem emptyInterval_of_stalls {b : EdgeBody} {r : EdgeRun}
    (h : b.stallLimit ≠ 0 ∧ b.stallLimit ≤ min 255 (r.stallCount + 1)) :
    EdgeRun.emptyInterval b r = { r with stallCount := min 255 (r.stallCount + 1), stalled := true } := by
  simp only [EdgeRun.emptyInterval, decide_eq_true h.1, decide_eq_true h.2, Bool.and_self]

/-- An empty interval that does not reach it leaves the claim unstalled (R133). -/
theorem emptyInterval_of_not_stalls {b : EdgeBody} {r : EdgeRun}
    (h : ¬(b.stallLimit ≠ 0 ∧ b.stallLimit ≤ min 255 (r.stallCount + 1))) :
    EdgeRun.emptyInterval b r = { r with stallCount := min 255 (r.stallCount + 1), stalled := false } := by
  simp only [EdgeRun.emptyInterval, ← Bool.decide_and, decide_eq_false h]

/-- Settles O47: each mode's event is a case on the flags that its rule reads. -/
theorem edgeClaimsMeasureAndStall : Obligations.EdgeClaimsMeasureAndStall := by
  refine ⟨fun b stamp r => ?_, fun b filtered r => ?_⟩
  · cases hm : b.mode with
    | period => cases hl : r.lastStamp <;> cases hs : r.stalled <;>
        simp [edgeHanded, hm, periodEdge, hl, hs, EdgeRun.measured, EdgeRun.measurePosts, periodOf]
    | count => simp [edgeHanded, hm, countEdge]
    | level => simp [edgeHanded, hm]
  · intro o counted stalls measured sample
    refine ⟨fun hm => ?_, fun hm => ?_, fun hm => ?_⟩
    · have ho : o = periodMoment b r := by simp [o, edgeMoment, hm]
      refine ⟨fun hs => ?_, fun hs ht => ?_, fun hs ht hl => ?_, fun hs ht hl => ?_⟩ <;>
        rw [ho, periodMoment]
      · simp [hs]
      · simp [hs, ht]
      · simp [hs, ht, emptyInterval_of_stalls (r := r) hl, counted]
      · simp [hs, ht, emptyInterval_of_not_stalls (r := r) hl, counted]
    · have ho : o = countMoment b r := by simp [o, edgeMoment, hm]
      refine ⟨fun hz ht => ?_, fun hz ht hl => ?_, fun hz ht hl => ?_, fun hz => ?_⟩ <;>
        rw [ho, countMoment]
      · simp [hz, ht, EdgeRun.measured, EdgeRun.measurePosts, measured, sample]
      · rw [emptyInterval_of_stalls (by exact hl)]
        simp [hz, ht, counted, EdgeRun.measured, EdgeRun.measurePosts, measured, sample]
      · rw [emptyInterval_of_not_stalls (by exact hl)]
        simp [hz, ht, counted, EdgeRun.measured, EdgeRun.measurePosts, measured, sample]
      · cases ht : r.stalled <;>
          simp [hz.ne', ht, EdgeRun.measured, EdgeRun.measurePosts, measured, sample]
    · have ho : o = levelMoment b filtered r := by simp [o, edgeMoment, hm]
      refine ⟨fun he => ?_, fun hne hlt => ?_, fun hne hle => ?_⟩ <;> rw [ho, levelMoment]
      · simp [he]
      · simp [hne, not_le.mpr hlt]
      · simp [hne, hle, EdgeRun.measured, EdgeRun.measurePosts, measured, sample]

end Sys2Proof.Machine
end

section
/-! SUPPORT. The requests of the authority link, of setup and of the reports: what each is carried out as at a link that can
bring one, and the checks of R158 that come before it. -/

namespace Sys2Proof.Machine

section Exec

variable {s : State} {l : Link} {body : List Byte} (h : s.canTake l) (hb : body.length ≤ 28)
include h hb

theorem exec_status : exec (.status l body) s = (s.statusRequest body).outcome l 0x01#8 := takeRequest_outcome h _ hb _

theorem exec_read : exec (.read l body) s = (s.readRequest l body).outcome l 0x04#8 := takeRequest_outcome h _ hb _

theorem exec_takeNotices : exec (.takeNotices l body) s = (s.takeNoticesRequest l body).outcome l 0x06#8 :=
  takeRequest_outcome h _ hb _

theorem exec_dropAll : exec (.dropAll l body) s = (s.dropAllRequest l body).outcome l 0x14#8 :=
  takeRequest_outcome h _ hb _

theorem exec_testTrip : exec (.testTrip l body) s = (s.testTripRequest l body).outcome l 0x21#8 :=
  takeRequest_outcome h _ hb _

theorem exec_pin : exec (.pin l body) s = (s.pinRequest l body).outcome l 0x30#8 := takeRequest_outcome h _ hb _

theorem exec_evict : exec (.evict l body) s = (s.evictRequest l body).outcome l 0x31#8 := takeRequest_outcome h _ hb _

theorem exec_admitLink : exec (.admitLink l body) s = (s.admitRequest l body).outcome l 0x32#8 :=
  takeRequest_outcome h _ hb _

theorem exec_setReach : exec (.setReach l body) s = (s.setReachRequest l body).outcome l 0x40#8 :=
  takeRequest_outcome h _ hb _

theorem exec_setAnalog : exec (.setAnalog l body) s = (s.setAnalogRequest l body).outcome l 0x41#8 :=
  takeRequest_outcome h _ hb _

theorem exec_setEdge : exec (.setEdge l body) s = (s.setEdgeRequest l body).outcome l 0x42#8 :=
  takeRequest_outcome h _ hb _

theorem exec_setDrive : exec (.setDrive l body) s = (s.setDriveRequest l body).outcome l 0x43#8 :=
  takeRequest_outcome h _ hb _

theorem exec_lockSetup : exec (.lockSetup l body) s = (s.lockSetupRequest l body).outcome l 0x44#8 :=
  takeRequest_outcome h _ hb _

/-- RENEW of any body in CONFIG: one handle's renewal and RENEW of all are refused alike (R158). -/
theorem exec_renew_of_config (hp : s.setup.part = .config) :
    exec (.renew l body) s = .next (s.holdResponse l ⟨0x12#8, .notReady, .empty⟩) := by
  refine (takeRequest_outcome h 0x12#8 hb _).trans ?_
  split
  · rw [renewAllRequest_of_config hp, refuse_outcome]
  · rw [State.renewRequest, State.inRun_of_config hp, refuse_outcome]

end Exec

/-! ### The checks before the values (R158) -/

section Checks

variable {s : State} {l : Link}

/-- A request of the authority link, and one of setup, from another link (R158 step 1). -/
theorem refused_of_other (ho : l ≠ s.setup.authority) (k : Answer) (code : Byte) :
    (s.bySetup l k).outcome l code = .next (s.holdResponse l ⟨code, .notAuthority, .empty⟩) ∧
      (s.byAuthority l k).outcome l code = .next (s.holdResponse l ⟨code, .notAuthority, .empty⟩) := by
  rw [State.bySetup_of_other ho, State.byAuthority_of_other ho]
  exact ⟨rfl, rfl⟩

/-- A setup request of the authority link in RUN (R158 step 2). -/
theorem locked_of_run (ho : l = s.setup.authority) (hp : s.setup.part = .run) (k : Answer) (code : Byte) :
    (s.bySetup l k).outcome l code = .next (s.holdResponse l ⟨code, .locked, .empty⟩) := by
  rw [State.bySetup_of_run ho hp]
  rfl

/-- A request of RUN in CONFIG (R158 step 3). -/
theorem notReady_of_config (hp : s.setup.part = .config) (k : Answer) (code : Byte) :
    (s.inRun k).outcome l code = .next (s.holdResponse l ⟨code, .notReady, .empty⟩) := by
  rw [State.inRun_of_config hp]
  rfl

end Checks

/-- Settles O34: every request named goes through the check of its step first. -/
theorem authorityAndPartStateChecks : Obligations.AuthorityAndPartStateChecks := by
  intro l body s h hb refused
  refine ⟨fun ho => ?_, fun ho hp => ?_, fun ho hp => ?_, fun hp => ?_⟩
  · have hother := fun k code => refused_of_other (s := s) ho k code
    exact ⟨(exec_setReach h hb).trans (hother _ _).1, (exec_setAnalog h hb).trans (hother _ _).1,
      (exec_setEdge h hb).trans (hother _ _).1, (exec_setDrive h hb).trans (hother _ _).1,
      (exec_lockSetup h hb).trans (hother _ _).1, (exec_pin h hb).trans (hother _ _).2,
      (exec_evict h hb).trans (hother _ _).2, (exec_admitLink h hb).trans (hother _ _).2,
      (exec_testTrip h hb).trans (hother _ _).2⟩
  · have hlocked := fun k code => locked_of_run (s := s) ho hp k code
    exact ⟨(exec_setReach h hb).trans (hlocked _ _), (exec_setAnalog h hb).trans (hlocked _ _),
      (exec_setEdge h hb).trans (hlocked _ _), (exec_setDrive h hb).trans (hlocked _ _),
      (exec_lockSetup h hb).trans (hlocked _ _)⟩
  · have hready : ∀ k code, (s.byAuthority l k).outcome l code =
        .next (s.holdResponse l ⟨code, .notReady, .empty⟩) := fun k code => by
      rw [State.byAuthority_of_authority ho, notReady_of_config hp]
    exact ⟨(exec_pin h hb).trans (hready _ _), (exec_evict h hb).trans (hready _ _),
      (exec_admitLink h hb).trans (hready _ _), (exec_testTrip h hb).trans (hready _ _)⟩
  · have hready := fun k code => notReady_of_config (l := l) hp k code
    exact ⟨(exec_openClaim h hb).trans (hready _ _), (exec_amend h hb).trans (hready _ _),
      exec_renew_of_config h hb hp, (exec_retire h hb).trans (hready _ _), (exec_dropAll h hb).trans (hready _ _),
      (exec_lookup h hb).trans (hready _ _), (exec_read h hb).trans (hready _ _), (exec_list h hb).trans (hready _ _),
      (exec_clearTrip h hb).trans (hready _ _)⟩

/-! ### PIN (R20) -/

theorem slotsWhere_nodup (s : State) (p : Claim → Bool) : (s.slotsWhere p).Nodup := (List.nodup_finRange 48).filter _

/-- A slot whose new claim no longer has a property drops out of the slots that have it. -/
theorem slotsWhere_length_putClaim {s : State} {i : SlotIx} {c d : Claim} (hc : s.claim i = some c) {p : Claim → Bool}
    (hp : p c = true) (hd : p d = false) :
    ((s.putClaim i d).slotsWhere p).length + 1 = (s.slotsWhere p).length := by
  have hi : i ∉ (s.putClaim i d).slotsWhere p := by
    rw [State.mem_slotsWhere]
    rintro ⟨x, hx, hpx⟩
    rw [State.putClaim_claim, if_pos rfl] at hx
    cases hx
    simp [hd] at hpx
  have hperm : (i :: (s.putClaim i d).slotsWhere p).Perm (s.slotsWhere p) := by
    refine (List.perm_ext_iff_of_nodup (List.nodup_cons.mpr ⟨hi, slotsWhere_nodup _ p⟩) (slotsWhere_nodup s p)).mpr
      fun j => ?_
    rw [List.mem_cons, State.mem_slotsWhere, State.mem_slotsWhere, State.putClaim_claim]
    by_cases hj : j = i
    · subst hj
      simp [hc, hp]
    · simp [hj]
  simpa using hperm.length_eq

section Pin

variable {s : State} {l : Link} {body : List Byte} {i : SlotIx} {c : Claim} (hb : body.length = 2)
  (ho : l = s.setup.authority) (hp : s.setup.part = .run) (hn : s.handleAt body 0 = some i)
include hb ho hp hn

/-- PIN of the claim that its handle names (R20). -/
theorem pinRequest_of_named (hc : s.claim i = some c) : s.pinRequest l body =
    if c.state = .retiring ∨ c.state = .spent then s.refuse .ended
    else if c.pinned = true then s.ok .empty
    else (s.putClaim i (Claim.pin c)).ok .empty := by
  rw [State.pinRequest, State.byAuthority_of_authority ho, State.inRun_of_run hp, State.withHandle,
    if_neg (not_not.mpr hb), hn, ← State.updClaim_eq_putClaim hc]
  simp only [hc]

end Pin

/-- Settles O35, by the claim's state and pin. -/
theorem pinTakesAnyLiveClaim : Obligations.PinTakesAnyLiveClaim := by
  intro l body i c s h hb ho hp hn hc answer
  have hexec := (exec_pin h (by omega : body.length ≤ 28)).trans
    (congrArg (Answer.outcome · l 0x30#8) (pinRequest_of_named hb ho hp hn hc))
  refine ⟨fun he => ?_, fun h1 h2 hpin => ?_, fun h1 h2 hpin => ⟨?_, ?_⟩⟩
  · rw [hexec, if_pos he, refuse_outcome]
  · rw [hexec, if_neg (by simp [h1, h2]), if_pos hpin, ok_outcome]
  · rw [hexec, if_neg (by simp [h1, h2]), if_neg (by simp [hpin]), ok_outcome]
    rfl
  · exact slotsWhere_length_putClaim hc (by simp [hpin]) (by simp)

/-! ### Setup (R168, R169, R170) -/

theorem mask_some {w n : Nat} {m : BitVec w} : mask? w n = some m ↔ n = m.toNat := by
  unfold mask?
  constructor
  · intro h
    split at h
    · rename_i hlt
      cases h
      exact (Nat.mod_eq_of_lt hlt).symm
    · cases h
  · rintro rfl
    rw [if_pos m.isLt, BitVec.ofNat_toNat, BitVec.setWidth_eq]

/-- A SET_REACH body that is read is the layout of a map in range, and no other is (R168). -/
theorem reachBody_iff (body : List Byte) (l : Link) (m : Reach) :
    reachBody? body = some (l, m) ↔ m.quota ≤ 48 ∧ body = reachBytes l m := by
  constructor
  · intro h
    unfold reachBody? at h
    split at h
    · cases h
    rename_i hlen
    simp only [Option.bind_eq_bind, Option.bind_eq_some_iff, within_some, linkOf_some, mask_some] at h
    obtain ⟨l', hl, d, hd, g, hg, a, ha, e, he, q, ⟨rfl, -, hq⟩, h⟩ := h
    split at h
    · cases h
      refine ⟨hq, ?_⟩
      simpa [reachBytes, List.range_succ, byteAt_eq_of_natAt hl, ← hd, ← hg, ← ha, ← he] using
        eq_map_byteAt (not_not.mp hlen)
    · cases h
  · rintro ⟨hq, rfl⟩
    obtain ⟨d, g, a, e, cls, q⟩ := m
    have hl : linkOf? (linkByte l).toNat = some l := (linkOf_some _ _).mpr rfl
    have hd : mask? 3 (numByte d.toNat).toNat = some d := mask_some.mpr (numByte_toNat (by omega))
    have hg : mask? 2 (numByte g.toNat).toNat = some g := mask_some.mpr (numByte_toNat (by omega))
    have ha : mask? 12 (be16 (numByte (a.toNat / 256)) (numByte (a.toNat % 256))) = some a :=
      mask_some.mpr (be16_numBytes (by omega))
    have he : mask? 8 (numByte e.toNat).toNat = some e := mask_some.mpr (numByte_toNat (by omega))
    have hcls : (numByte cls.val).toNat = cls.val := numByte_toNat (by omega)
    have hquota : (numByte q).toNat = q := numByte_toNat (by simp at hq; omega)
    simp [reachBody?, reachBytes, natAt, be16At, numBytes, hl, hd, hg, ha, he, hcls, hquota, within?, hq]

/-- A SET_ANALOG body that is read is a channel's byte and a window of 1 to 32 µs, and no other is (R169). -/
theorem windowBody_iff (body : List Byte) (c : AnalogCh) (w : Nat) : windowBody? body = some (c, w) ↔
    1 ≤ w ∧ w ≤ 32 ∧ body = [(Resource.analog c).byte, numByte w] := by
  constructor
  · intro h
    unfold windowBody? at h
    split at h
    · cases h
    rename_i hlen
    simp only [Option.bind_eq_bind, Option.bind_eq_some_iff, within_some, analogOf_some] at h
    obtain ⟨c', hc, w', ⟨rfl, h1, h2⟩, h⟩ := h
    cases h
    refine ⟨h1, h2, ?_⟩
    simpa [List.range_succ, byteAt_eq_of_natAt (hc.trans (Resource.analog_byte_toNat c).symm)] using
      eq_map_byteAt (not_not.mp hlen)
  · rintro ⟨h1, h2, rfl⟩
    have hc : analogOf? (Resource.analog c).byte.toNat = some c :=
      (analogOf_some _ _).mpr (Resource.analog_byte_toNat c)
    simp [windowBody?, natAt, hc, numByte_toNat (show w < 256 by omega), within?, h1, h2]

/-- A SET_EDGE body that is read is an input's byte and a filter of 0 to 15 µs, and no other is (R169). -/
theorem filterBody_iff (body : List Byte) (e : EdgeIn) (f : Nat) : filterBody? body = some (e, f) ↔
    f ≤ 15 ∧ body = [(Resource.edge e).byte, numByte f] := by
  constructor
  · intro h
    unfold filterBody? at h
    split at h
    · cases h
    rename_i hlen
    simp only [Option.bind_eq_bind, Option.bind_eq_some_iff, within_some, edgeOf_some] at h
    obtain ⟨e', he, f', ⟨rfl, -, h2⟩, h⟩ := h
    cases h
    refine ⟨h2, ?_⟩
    simpa [List.range_succ, byteAt_eq_of_natAt (he.trans (Resource.edge_byte_toNat e).symm)] using
      eq_map_byteAt (not_not.mp hlen)
  · rintro ⟨h2, rfl⟩
    have he : edgeOf? (Resource.edge e).byte.toNat = some e := (edgeOf_some _ _).mpr (Resource.edge_byte_toNat e)
    simp [filterBody?, natAt, he, numByte_toNat (show f < 256 by omega), within?, h2]

/-- A SET_DRIVE body that is read is a channel's byte and two polarities, and no other is (R169). -/
theorem polarityBody_iff (body : List Byte) (d : Drive) (p : PinPolarity) : polarityBody? body = some (d, p) ↔
    body = [(Resource.drive d).byte, polarityByte p.ha, polarityByte p.hb] := by
  constructor
  · intro h
    unfold polarityBody? at h
    split at h
    · cases h
    rename_i hlen
    simp only [Option.bind_eq_bind, Option.bind_eq_some_iff, driveOf_some, polarityOf_some] at h
    obtain ⟨d', hd, ha, h1, hb, h2, h⟩ := h
    cases h
    simpa [List.range_succ, byteAt_eq_of_natAt hd, byteAt_eq_of_natAt h1, byteAt_eq_of_natAt h2] using
      eq_map_byteAt (not_not.mp hlen)
  · rintro rfl
    obtain ⟨ha, hb⟩ := p
    have hd : driveOf? (Resource.drive d).byte.toNat = some d := (driveOf_some _ _).mpr rfl
    have h1 : polarityOf? (polarityByte ha).toNat = some ha := (polarityOf_some _ _).mpr rfl
    have h2 : polarityOf? (polarityByte hb).toNat = some hb := (polarityOf_some _ _).mpr rfl
    simp [polarityBody?, natAt, hd, h1, h2]

/-- Nothing is read from a body that is the layout of no pair. -/
theorem eq_none_of_forall_pair {α β : Type} {o : Option (α × β)} (h : ∀ a b, o ≠ some (a, b)) : o = none :=
  Option.eq_none_iff_forall_ne_some.mpr fun x => h x.1 x.2

/-- Settles O37: each body is read exactly when it is the layout of values in range. -/
theorem setupRequestsWrite : Obligations.SetupRequestsWrite := by
  intro l s h ho hp ok refused
  have hset := fun k => State.bySetup_of_config (s := s) ho hp k
  refine ⟨fun t m hq => ?_, fun c w h1 h2 => ?_, fun e f hf => ?_, fun d ha hb => ?_, ?_, fun body hb =>
    ⟨fun hn => ?_, fun hn => ?_, fun hn => ?_, fun hn => ?_, fun hn => ?_⟩⟩
  · refine (exec_setReach h (by simp [reachBytes, numBytes])).trans ?_
    rw [State.setReachRequest, hset, (reachBody_iff _ t m).mpr ⟨hq, rfl⟩]
    rfl
  · refine (exec_setAnalog h (by simp)).trans ?_
    rw [State.setAnalogRequest, hset, (windowBody_iff _ c w).mpr ⟨h1, h2, rfl⟩]
    rfl
  · refine (exec_setEdge h (by simp)).trans ?_
    rw [State.setEdgeRequest, hset, (filterBody_iff _ e f).mpr ⟨hf, rfl⟩]
    rfl
  · refine (exec_setDrive h (by simp)).trans ?_
    rw [State.setDriveRequest, hset, (polarityBody_iff _ d ⟨ha, hb⟩).mpr rfl]
    rfl
  · refine (exec_lockSetup h (by simp)).trans ?_
    rw [State.lockSetupRequest, hset]
    rfl
  · refine (exec_setReach h hb).trans ?_
    rw [State.setReachRequest, hset, eq_none_of_forall_pair fun t m hr => hn ⟨t, m, (reachBody_iff _ t m).mp hr⟩]
    rfl
  · refine (exec_setAnalog h hb).trans ?_
    rw [State.setAnalogRequest, hset, eq_none_of_forall_pair fun c w hr => hn ⟨c, w, (windowBody_iff _ c w).mp hr⟩]
    rfl
  · refine (exec_setEdge h hb).trans ?_
    rw [State.setEdgeRequest, hset, eq_none_of_forall_pair fun e f hr => hn ⟨e, f, (filterBody_iff _ e f).mp hr⟩]
    rfl
  · refine (exec_setDrive h hb).trans ?_
    rw [State.setDriveRequest, hset,
      eq_none_of_forall_pair fun d p hr => hn ⟨d, p.ha, p.hb, (polarityBody_iff _ d p).mp hr⟩]
    rfl
  · refine (exec_lockSetup h hb).trans ?_
    rw [State.lockSetupRequest, hset, if_pos (by simpa using hn)]
    rfl

end Sys2Proof.Machine
end

section
/-! PROOFS. The layouts of the bodies of OPEN and AMEND, the checks on a handle, STATUS, TEST_TRIP, and the trips that a
gate takes. -/

namespace Sys2Proof.Machine

/-- Settles O1. -/
theorem stepTakesFrontCommand : Obligations.StepTakesFrontCommand := fun c rest s h => by rw [step, h]

/-! ### Bodies in range are read back (R165) -/

theorem within_of {lo hi n : Nat} (h : lo ≤ n ∧ n ≤ hi) : within? lo hi n = some n := if_pos h

theorem driveBody_bytes {d : Drive} {b : DriveBody} (h : (Body.drive b).inRange (.drive d)) :
    driveBody? d (Body.drive b).bytes = some b := by
  obtain ⟨ht, hr, hb, hdb⟩ := h
  have hdir : directionOf? b.direction.byte.toNat = some b.direction := (directionOf_some _ _).mpr rfl
  simp [driveBody?, Body.bytes, numBytes, be16At, natAt, be16_numBytes (show b.target < 65536 by omega),
    be16_numBytes (show b.ramp < 65536 by omega), be16_numBytes (show b.burst < 65536 by omega), hdir,
    within_of (show 0 ≤ b.target ∧ b.target ≤ 1024 by omega), within_of (show 0 ≤ b.ramp ∧ b.ramp ≤ 1024 by omega)]
  exact fun hd => fun hrev => hdb ⟨hd, hrev⟩

theorem gateBody_bytes {g : Gate} {b : GateBody} (h : (Body.gate b).inRange (.gate g)) :
    gateBody? (Body.gate b).bytes = some b := by
  obtain ⟨hlo, hhi⟩ := h
  have hvote : voteOf? b.vote.byte.toNat = some b.vote := (voteOf_some _ _).mpr rfl
  have hclose : stopPatternOf? b.close.byte.toNat = some b.close := (stopPatternOf_some _ _).mpr rfl
  simp [gateBody?, Body.bytes, numBytes, be16At, natAt, be16_numBytes (show b.period < 65536 by omega), hvote, hclose,
    within_of ⟨hlo, hhi⟩]

theorem analogBody_bytes {c : AnalogCh} {b : AnalogBody} (h : (Body.asense b).inRange (.analog c)) :
    analogBody? (Body.asense b).bytes = some b := by
  obtain ⟨hint, hu1, hu3, hsm, hhigh, hlow, hhys, hd1, hd8⟩ := h
  have hth : targetOf? b.tripHigh.byte.toNat = some b.tripHigh := (targetOf_some _ _).mpr rfl
  have htl : targetOf? b.tripLow.byte.toNat = some b.tripLow := (targetOf_some _ _).mpr rfl
  have hpat : stopPatternOf? b.pattern.byte.toNat = some b.pattern := (stopPatternOf_some _ _).mpr rfl
  simp [analogBody?, Body.bytes, numBytes, be16At, natAt, numByte_toNat (show b.interval < 256 by omega),
    numByte_toNat (show b.urgency < 256 by omega), numByte_toNat (show b.smoothing < 256 by omega),
    numByte_toNat (show b.hysteresis < 256 by omega), numByte_toNat (show b.debounce < 256 by omega),
    be16_numBytes (show b.highLimit < 65536 by omega), be16_numBytes (show b.lowLimit < 65536 by omega), hth, htl, hpat,
    within_of (show 0 ≤ b.interval ∧ b.interval ≤ 10 by omega), within_of ⟨hu1, hu3⟩,
    within_of (show 0 ≤ b.smoothing ∧ b.smoothing ≤ 4 by omega), within_of ⟨hd1, hd8⟩,
    within_of (show 0 ≤ b.highLimit ∧ b.highLimit ≤ 4095 by omega),
    within_of (show 0 ≤ b.lowLimit ∧ b.lowLimit ≤ 4095 by omega), hlow]

theorem edgeBody_bytes {e : EdgeIn} {b : EdgeBody} (h : (Body.esense b).inRange (.edge e)) :
    edgeBody? (Body.esense b).bytes = some b := by
  obtain ⟨hint, hstall, hd1, hd8⟩ := h
  have hmode : modeOf? b.mode.byte.toNat = some b.mode := (modeOf_some _ _).mpr rfl
  have hedge : edgeSelOf? b.edge.byte.toNat = some b.edge := (edgeSelOf_some _ _).mpr rfl
  have hact : levelOf? b.active.byte.toNat = some b.active := (levelOf_some _ _).mpr rfl
  have htar : targetOf? b.target.byte.toNat = some b.target := (targetOf_some _ _).mpr rfl
  have hpat : stopPatternOf? b.pattern.byte.toNat = some b.pattern := (stopPatternOf_some _ _).mpr rfl
  simp [edgeBody?, Body.bytes, natAt, numByte_toNat (show b.interval < 256 by omega),
    numByte_toNat (show b.stallLimit < 256 by omega), numByte_toNat (show b.debounce < 256 by omega), hmode, hedge, hact,
    htar, hpat, within_of (show 0 ≤ b.interval ∧ b.interval ≤ 10 by omega), within_of ⟨hd1, hd8⟩]

/-- A body in range for a resource is read back from its layout. -/
theorem bodyFor_bytes : ∀ {r : Resource} {b : Body}, b.inRange r → bodyFor? r b.bytes = some b
  | .drive _, .drive _, h => by simp [bodyFor?, driveBody_bytes h]
  | .gate g, .gate _, h => by simp [bodyFor?, gateBody_bytes (g := g) h]
  | .analog c, .asense _, h => by simp [bodyFor?, analogBody_bytes (c := c) h]
  | .edge e, .esense _, h => by simp [bodyFor?, edgeBody_bytes (e := e) h]

/-- Fields in range are read back from their layout. -/
theorem claimFields_bytes {r : Resource} {f : ClaimFields} (h : f.inRange r) :
    claimFields? r f.hold f.wantsSample.toNat f.body.bytes = some f := by
  obtain ⟨hhold, hbody⟩ := h
  simp [claimFields?, (boolOf_some _ f.wantsSample).mpr rfl, bodyFor_bytes hbody, (holdFits_iff r f.hold).mpr hhold]

theorem bytes_length_le (b : Body) : b.bytes.length ≤ 12 := by cases b <;> simp [Body.bytes, numBytes]

theorem hold_lt {r : Resource} {f : ClaimFields} (h : f.inRange r) : f.hold < 256 := by
  obtain ⟨⟨hhold, -⟩, -⟩ := h
  omega

/-- Settles O16: both directions of each layout, field by field. -/
theorem claimBodiesReadAsLaidOut : Obligations.ClaimBodiesReadAsLaidOut := by
  refine ⟨fun r tag f h => ?_, fun r body f hr hf => openFields_layout hr hf, fun r slot gen f h => ?_,
    fun r body f hk hf => amendFields_layout hk hf⟩
  · have hlen := bytes_length_le f.body
    have hkind : kindOf? f.body.kind.byte.toNat = some r.kind := (kindOf_some _ _).mpr (by rw [kind_of_inRange h.2])
    have hfields := claimFields_bytes h
    refine ⟨(resourceOf_some _ _).mpr rfl, ?_, ?_, ?_⟩
    · simp [openTag, openBytes, be16At, numBytes, be16_numBytes tag.isLt]
    · have hwants : (numByte f.wantsSample.toNat).toNat = f.wantsSample.toNat :=
        numByte_toNat (by cases f.wantsSample <;> decide)
      simpa [openFields?, openBytes, numBytes, natAt, hkind, numByte_toNat (hold_lt h), hwants] using hfields
    · simp [openBytes, numBytes]
      omega
  · have hlen := bytes_length_le f.body
    have hwants : (numByte f.wantsSample.toNat).toNat = f.wantsSample.toNat :=
      numByte_toNat (by cases f.wantsSample <;> decide)
    refine ⟨?_, (kindOf_some _ _).mpr (by rw [← kind_of_inRange h.2]; rfl), by simp [amendBytes]; omega⟩
    simpa [amendFields?, amendBytes, natAt, numByte_toNat (hold_lt h), hwants] using claimFields_bytes h

/-! ### Handles (R2) -/

/-- RENEW, RETIRE and PIN check the length of their bodies before the handle (R158, R165). -/
theorem withHandle_of_length {s : State} {body : List Byte} (h : body.length ≠ 2) (k : SlotIx → Answer) :
    s.withHandle body 2 k = s.refuse .badValue := if_pos h

theorem withHandle_of_stale {s : State} {body : List Byte} (h : body.length = 2) (hn : s.handleAt body 0 = none)
    (k : SlotIx → Answer) : s.withHandle body 2 k = s.refuse .stale := by
  simp [State.withHandle, h, hn]

/-- RENEW of a body with bytes goes to the renewal of one handle (R165). -/
theorem exec_renew_of_ne {s : State} {l : Link} {body : List Byte} (h : s.canTake l) (hb : body.length ≤ 28)
    (hne : body ≠ []) : exec (.renew l body) s = (s.renewRequest l body).outcome l 0x12#8 := by
  refine (takeRequest_outcome h 0x12#8 hb _).trans ?_
  rw [if_neg (by simpa using hne)]

/-- Settles O18. -/
theorem handleAndLengthChecks : Obligations.HandleAndLengthChecks := by
  refine ⟨fun l body s h hb hp => ⟨s.handleAt_some body, fun hn => ⟨?_, ?_, fun hlen => ⟨?_, ?_, fun ho => ?_⟩⟩⟩,
    fun l body s h hb hp hlen => ⟨fun hne => ?_, ?_, fun ho => ?_⟩⟩
  · rw [exec_amend h hb, amendRequest_eq, ownerChecks_of_stale hp hn, refuse_outcome]
  · rw [exec_read h hb, State.readRequest, State.inRun_of_run hp, hn]
    rfl
  · rw [exec_renew h hlen, renewRequest_eq s l hlen, ownerChecks_of_stale hp hn, refuse_outcome]
  · rw [exec_retire h hb, retireRequest_eq s l hlen, ownerChecks_of_stale hp hn, refuse_outcome]
  · rw [exec_pin h hb, State.pinRequest, State.byAuthority_of_authority ho, State.inRun_of_run hp,
      withHandle_of_stale hlen hn, refuse_outcome]
  · rw [exec_renew_of_ne h hb hne, State.renewRequest, State.inRun_of_run hp, withHandle_of_length hlen, refuse_outcome]
  · rw [exec_retire h hb, State.retireRequest, State.inRun_of_run hp, withHandle_of_length hlen, refuse_outcome]
  · rw [exec_pin h hb, State.pinRequest, State.byAuthority_of_authority ho, State.inRun_of_run hp,
      withHandle_of_length hlen, refuse_outcome]

/-! ### STATUS (R163) -/

theorem byte_ne_ff (r : Resource) : r.byte.toNat ≠ 0xFF := by
  cases r with
  | gate g => cases g <;> decide
  | drive d => cases d <;> decide
  | analog c => rw [Resource.analog_byte_toNat]; omega
  | edge e => rw [Resource.edge_byte_toNat]; omega

/-- STATUS of a resource carries its items (R163). -/
theorem statusRequest_resource (s : State) (r : Resource) : s.statusRequest [r.byte] = s.ok (.status s.clock.cadence
    (match r with
      | .gate g => s.gateStatus g
      | .drive d => s.driveStatus d
      | .analog c => s.analogStatus c
      | .edge e => s.edgeStatus e)) := by
  have hr : resourceOf? (natAt [r.byte] 0) = some r := (resourceOf_some _ _).mpr rfl
  have hne : natAt [r.byte] 0 ≠ 0xFF := byte_ne_ff r
  rw [State.statusRequest, if_neg (by simp), State.statusItems?, if_neg hne, hr]
  rfl

theorem voteCount_eq (s : State) (g : Gate) (v : Vote) :
    s.voteCount g v = (s.gateBodies g).countP fun b => decide (b.vote = v) := List.countP_eq_length_filter.symm

/-- Settles O8. -/
theorem statusReportsItsSubject : Obligations.StatusReportsItsSubject := by
  intro l s h answer
  have hexec := fun r : Resource => (exec_status h (body := [r.byte]) (by simp)).trans
    (congrArg (Answer.outcome · l 0x01#8) (statusRequest_resource s r))
  refine ⟨fun g => ?_, fun d => hexec (.drive d), fun c => hexec (.analog c), fun e => hexec (.edge e), ?_,
    fun body hb hv => ?_⟩
  · rw [hexec (.gate g), ok_outcome]
    simp only [answer, State.gateStatus, voteCount_eq]
  · rw [exec_status h (by simp), ← s.freeSlots_length]
    rfl
  · rw [exec_status h hb, State.statusRequest]
    split
    · rfl
    · rename_i hlen
      obtain ⟨hff, hr⟩ := hv.resolve_left hlen
      rw [State.statusItems?, if_neg hff, hr]
      rfl

/-! ### Holds (R52) -/

/-- A trip updates the hold of its source in its place, or is added last (R52). -/
theorem addHold_eq (new : TripHold) : ∀ holds : List TripHold, (holds.map TripHold.source).Nodup →
    addHold new holds = if new.source ∈ holds.map TripHold.source then
      holds.map fun h => if h.source = new.source then
        { new with pattern := if h.pattern = .brake ∨ new.pattern = .brake then .brake else .coast } else h
      else holds ++ [new]
  | [], _ => by simp [addHold]
  | h :: hs, hn => by
    obtain ⟨hnot, hn'⟩ := List.nodup_cons.mp hn
    by_cases he : h.source = new.source
    · have hkeep : ∀ x ∈ hs, x.source ≠ new.source := fun x hx e => hnot (List.mem_map.mpr ⟨x, hx, e.trans he.symm⟩)
      have hmap : (hs.map fun x => if x.source = new.source then
          { new with pattern := if x.pattern = .brake ∨ new.pattern = .brake then .brake else .coast } else x) = hs :=
        (List.map_congr_left fun x hx => if_neg (hkeep x hx)).trans (List.map_id _)
      simp [addHold, he, hmap]
    · have hmem : new.source ∈ (h :: hs).map TripHold.source ↔ new.source ∈ hs.map TripHold.source := by
        rw [List.map_cons, List.mem_cons, or_iff_right fun e => he e.symm]
      rw [addHold, if_neg he, addHold_eq new hs hn']
      rw [if_congr hmem rfl rfl, List.map_cons, if_neg he]
      split_ifs <;> rfl

theorem addHold_ne_nil (new : TripHold) (holds : List TripHold) : addHold new holds ≠ [] := by
  cases holds with
  | nil => simp [addHold]
  | cons h hs => unfold addHold; split <;> simp

/-- The sources of a hold list after a trip: the trip's own is added last, if it is not there. -/
theorem addHold_sources (new : TripHold) : ∀ holds : List TripHold, (addHold new holds).map TripHold.source =
    if new.source ∈ holds.map TripHold.source then holds.map TripHold.source
    else holds.map TripHold.source ++ [new.source]
  | [] => by simp [addHold]
  | h :: hs => by
    by_cases he : h.source = new.source
    · simp [addHold, he]
    · have hmem : new.source ∈ (h :: hs).map TripHold.source ↔ new.source ∈ hs.map TripHold.source := by
        rw [List.map_cons, List.mem_cons, or_iff_right fun e => he e.symm]
      rw [addHold, if_neg he, List.map_cons, addHold_sources new hs]
      rw [if_congr hmem rfl rfl, List.map_cons]
      split_ifs <;> rfl

/-- One hold per source stays so at a trip (R51, R52). -/
theorem addHold_nodup (new : TripHold) {holds : List TripHold} (h : (holds.map TripHold.source).Nodup) :
    ((addHold new holds).map TripHold.source).Nodup := by
  rw [addHold_sources]
  split
  · exact h
  · rename_i hm
    exact List.nodup_append.mpr ⟨h, by simp, by simpa using fun x hx e => hm (by simpa [e] using ⟨x, hx, e⟩)⟩

@[simp] theorem takeHold_holds (s : State) (g : Gate) (new : TripHold) :
    ((s.takeHold g new).gates.get g).holds = addHold new (s.gates.get g).holds := by
  simp [State.takeHold]

/-- A gate that has taken a trip is CLOSED (R41, R52). -/
theorem takeHold_closed (s : State) (g : Gate) (new : TripHold) : (s.takeHold g new).gateIsOpen g = false := by
  rw [State.gateIsOpen, State.takeHold, State.evalGate_isOpen, Bool.eq_false_iff]
  intro h
  have hnil := State.openCondition_holds _ g h
  rw [State.setGate_gates, PerGate.get_set_self] at hnil
  exact addHold_ne_nil new _ hnil

/-- Settles O31: the hold list is that of `addHold`, whose hold keeps the gate CLOSED. -/
theorem tripsBecomeHolds : Obligations.TripsBecomeHolds := by
  refine ⟨fun s g new hn => ?_, fun g s hr => ⟨fun ht => ?_, fun tr rest ht => ?_⟩⟩
  · intro holds t
    have hadd : addHold new (s.gates.get g).holds = holds := addHold_eq new _ hn
    refine ⟨by rw [← hadd]; rfl, by rw [← hadd]; exact takeHold_holds s g new, takeHold_closed s g new, ?_⟩
    rw [← hadd]
    exact addHold_nodup new hn
  · show Host.Outcome.next _ = _
    rw [if_neg (by simp [hr]), State.takeTrip, ht]
  · have hexec : exec (.tripTaken g) s = .next
        ((({ s with trips := s.trips.set g rest } : State).takeHold g (s.holdOf tr)).postTrip tr.raiser) := by
      show Host.Outcome.next _ = _
      rw [if_neg (by simp [hr]), State.takeTrip, ht]
    exact ⟨fun hgen => hexec.trans (congrArg _ (if_pos hgen)), fun hgen => hexec.trans (congrArg _ (if_neg hgen))⟩

/-- Settles O32: the gate's body is read back, and the hold closes the gate. -/
theorem testTripHoldsTheGate : Obligations.TestTripHoldsTheGate := by
  intro l s h
  refine ⟨fun body hb hp ho hv => ?_, fun g src hp ho => ?_⟩
  · rw [exec_testTrip h hb, State.testTripRequest, State.byAuthority_of_authority ho, State.inRun_of_run hp, hv]
    rfl
  · subst ho
    intro t
    have hclosed : t.gateIsOpen g = false := takeHold_closed s g _
    rw [exec_testTrip h (by simp), State.testTripRequest, State.byAuthority_of_authority rfl, State.inRun_of_run hp,
      holdBody_bytes, ← hclosed]
    rfl

end Sys2Proof.Machine
end

section
/-! PROOFS. What the reports of a claim say (READ), the entries that TAKE_NOTICES takes, and the end of a claim by RETIRE
and by a hold expiry. -/

namespace Sys2Proof.Machine

/-! ### READ (R22) -/

section Read

variable {s : State} {l : Link} {body : List Byte} {i : SlotIx} {c : Claim} (hp : s.setup.part = .run)
  (hn : s.handleAt body 0 = some i) (hc : s.claim i = some c)
include hp hn hc

/-- READ of the claim that its handle names, by the part of the report asked for (R22). -/
theorem readRequest_of_named : s.readRequest l body =
    if body.length ≠ 3 then s.refuse .badValue
    else match natAt body 2 with
      | 0 => s.ok (.common (s.commonReport i c))
      | 1 => s.ok (.body (bodyReport c))
      | 2 => (if l = c.owner then s.updClaim i Claim.readByOwner else s).ok (.run (s.runReport i c))
      | _ => s.refuse .badValue := by
  rw [State.readRequest, State.inRun_of_run hp, hn]
  simp only [hc] <;> rfl

theorem readRequest_of_badValue (hv : body.length ≠ 3 ∨ 2 < natAt body 2) :
    s.readRequest l body = s.refuse .badValue := by
  rw [readRequest_of_named hp hn hc]
  split
  · rfl
  · rename_i hlen
    have hlt := hv.resolve_left hlen
    split
    all_goals first | omega | rfl

end Read

/-- A list without repeats has each entry at one place. -/
theorem positionIn_of_getElem? {l : List SlotIx} (hn : l.Nodup) {n : Nat} {i : SlotIx} (h : l[n]? = some i) :
    positionIn i l = some n := by
  obtain ⟨hlt, he⟩ := List.getElem?_eq_some_iff.mp h
  refine List.findIdx?_eq_some_iff_getElem.mpr ⟨hlt, by simpa using he, fun j hj => ?_⟩
  simp only [decide_eq_true_eq]
  intro e
  exact absurd (hn.getElem_inj_iff.mp (e.trans he.symm)) (by omega)

theorem positionIn_of_not_mem {l : List SlotIx} {i : SlotIx} (h : i ∉ l) : positionIn i l = none := by
  refine List.findIdx?_eq_none_iff.mpr fun j hj => ?_
  simp only [decide_eq_false_iff_not]
  rintro rfl
  exact h hj

/-- A claim in range on a channel carries a DRIVE payload. -/
theorem payload_of_drive {c : Claim} {d : Drive} (h : c.inRange) (hr : c.resource = .drive d) :
    ∃ b left, c.payload = .drive b left := by
  obtain ⟨-, hb, -⟩ := h
  rw [hr] at hb
  cases hp : c.payload <;> simp_all [Payload.body, Body.inRange]

theorem payload_of_gate {c : Claim} {g : Gate} (h : c.inRange) (hr : c.resource = .gate g) :
    ∃ b, c.payload = .gate b := by
  obtain ⟨-, hb, -⟩ := h
  rw [hr] at hb
  cases hp : c.payload <;> simp_all [Payload.body, Body.inRange]

/-- A claim that is not in a state of R24 stands in no channel's list. -/
theorem not_mem_driveList {s : State} (h : TableInv s) {i : SlotIx} {c : Claim} (hc : s.claim i = some c)
    (hl : c.state.listed = false) (d : Drive) : i ∉ s.driveList d := by
  intro hi
  obtain ⟨x, hx, -, hs⟩ := h.driveEntry d i hi
  cases hc.symm.trans hx
  simp [hl] at hs

/-- What READ says of a drive claim's place and channel (R37, R80). -/
theorem readOfDrive {s : State} (h : TableInv s) {i : SlotIx} {c : Claim} (hc : s.claim i = some c) (hrange : c.inRange)
    {d : Drive} (hr : c.resource = .drive d) :
    (∀ n : Nat, (s.driveList d)[n]? = some i → s.place i c = ⟨some n, (s.driveList d).length, none⟩) ∧
      ((c.state = .complete ∨ c.state = .spent) → s.place i c = ⟨none, (s.driveList d).length, none⟩) ∧
      (s.head d = some i → s.runReport i c =
        .drive (some ⟨(s.drives.get d).phase, (s.drives.get d).duty, (s.drives.get d).pattern⟩)) ∧
      (s.head d ≠ some i → s.runReport i c = .drive none) := by
  have hplace : s.place i c = ⟨positionIn i (s.driveList d), (s.driveList d).length, none⟩ := by
    simp [State.place, hr]
  obtain ⟨b, left, hpay⟩ := payload_of_drive hrange hr
  have hrun : s.runReport i c = .drive (if s.head d = some i then
      some ⟨(s.drives.get d).phase, (s.drives.get d).duty, (s.drives.get d).pattern⟩ else none) := by
    simp [State.runReport, hpay, hr]
  refine ⟨fun n hn => ?_, fun hs => ?_, fun hh => ?_, fun hh => ?_⟩
  · rw [hplace, positionIn_of_getElem? (h.driveNodup d) hn]
  · rw [hplace, positionIn_of_not_mem (not_mem_driveList h hc (by rcases hs with hs | hs <;> rw [hs] <;> rfl) d)]
  · rw [hrun, if_pos hh]
  · rw [hrun, if_neg hh]

/-- What READ says of a gate claim's place and gate (R37, R54). -/
theorem readOfGate {s : State} (h : TableInv s) {i : SlotIx} {c : Claim} (hrange : c.inRange) {g : Gate}
    (hr : c.resource = .gate g) :
    s.runReport i c = .gate (s.gateIsOpen g) ∧
      (∀ n : Nat, c.state = .active → (s.gateList g)[n]? = some i → s.place i c =
        ⟨some n, (s.gateList g).length, some (decide ((s.supplier g).map Prod.fst = some i))⟩) ∧
      (c.state = .spent → s.place i c = ⟨none, (s.gateList g).length, none⟩) := by
  obtain ⟨b, hpay⟩ := payload_of_gate hrange hr
  refine ⟨by simp [State.runReport, hpay, hr], fun n hs hn => ?_, fun hs => by simp [State.place, hr, hs]⟩
  simp [State.place, hr, hs, positionIn_of_getElem? (h.gateNodup g) hn]

/-- Settles O11, by the parts of the report and by the claim's kind. -/
theorem readReportsPartsAndPlace : Obligations.ReadReportsPartsAndPlace := by
  refine ⟨fun l body s h hb => ?_, fun s i c htable _ hc hrange =>
    ⟨fun d hr => readOfDrive htable hc hrange hr, fun g hr => readOfGate htable hrange hr, fun ch b r hr hpay => ?_,
      fun e b r hr hpay => ?_⟩⟩
  · intro answer
    refine ⟨fun hp => ?_, fun hp hn => ?_, fun i c hp hn hc => ?_⟩
    · rw [exec_read h hb, State.readRequest, notReady_of_config hp]
    · rw [exec_read h hb, State.readRequest, State.inRun_of_run hp, hn]
      rfl
    have hreq := readRequest_of_named (l := l) hp hn hc
    refine ⟨fun hv => ?_, fun hlen hpart => ?_, fun hlen hpart => ?_, fun hlen hpart =>
      ⟨if l = c.owner then s.updClaim i Claim.readByOwner else s, ?_, fun ho => if_neg ho, fun ho => ?_⟩⟩
    · rw [exec_read h hb, readRequest_of_badValue hp hn hc hv, refuse_outcome]
    · rw [exec_read h hb, hreq, if_neg (not_not.mpr hlen), hpart]
      rfl
    · rw [exec_read h hb, hreq, if_neg (not_not.mpr hlen), hpart]
      cases hpay : c.payload <;> simp [bodyReport, hpay, answer]
    · rw [exec_read h hb, hreq, if_neg (not_not.mpr hlen), hpart]
      rfl
    · rw [if_pos ho, State.updClaim_eq_putClaim hc]
      refine ⟨fun b r hpay => ?_, fun b r hpay => ?_, fun hk => ?_⟩
      · simp [Claim.readByOwner, hpay, AnalogRun.readByOwner]
      · simp [Claim.readByOwner, hpay, EdgeRun.readByOwner]
      · have hsame : Claim.readByOwner c = c := by
          unfold Claim.kind at hk
          cases hpay : c.payload <;> simp_all [Claim.readByOwner, Payload.body, Body.kind]
        rw [hsame, State.putClaim_self hc]
  · refine ⟨by simp [State.place, hr, State.analogMembers], ?_⟩
    cases hw : s.arbiter.waiting[ch] <;> simp [State.runReport, hpay, hr, hw]
  · exact ⟨by simp [State.place, hr, State.edgeMembers], by simp [State.runReport, hpay, hr, State.edgeMembers]⟩

/-! ### TAKE_NOTICES (R162) -/

/-- The slot of an entry taken (R3). -/
theorem takeEntry_slot (s : State) (e : NoticeEntry) (j : SlotIx) : (s.takeEntry e).slots[j] =
    if e.final = true ∧ e.slot = j then ⟨s.slots[j].gen + 1, none⟩ else s.slots[j] := by
  unfold State.takeEntry
  by_cases hf : e.final = true
  · rw [if_pos hf, State.freeSlot_slot]
    by_cases hj : j = e.slot
    · subst hj
      simp [hf]
    · rw [if_neg hj, if_neg fun h => hj h.2.symm]
  · rw [if_neg hf, if_neg fun h => hf h.1]

/-- The slots of entries taken, one entry per slot (R3, R162). -/
theorem foldl_takeEntry_slot (j : SlotIx) : ∀ (es : List NoticeEntry) (s : State),
    es.Pairwise (fun x y => x.slot < y.slot) → (es.foldl State.takeEntry s).slots[j] =
      if ∃ e ∈ es, e.final = true ∧ e.slot = j then ⟨s.slots[j].gen + 1, none⟩ else s.slots[j]
  | [], s, _ => by simp
  | e :: es, s, h => by
    obtain ⟨hlt, hes⟩ := List.pairwise_cons.mp h
    rw [List.foldl_cons, foldl_takeEntry_slot j es _ hes, takeEntry_slot]
    by_cases he : e.final = true ∧ e.slot = j
    · have hnot : ¬∃ x ∈ es, x.final = true ∧ x.slot = j := by
        rintro ⟨x, hx, -, hxj⟩
        exact absurd (hlt x hx) (by rw [he.2, hxj]; exact lt_irrefl _)
      rw [if_neg hnot, if_pos he, if_pos ⟨e, List.mem_cons_self, he⟩]
    · simp [he]

/-- Entries taken change nothing but slots. -/
theorem foldl_takeEntry_frame (es : List NoticeEntry) (s : State) :
    es.foldl State.takeEntry s = { s with slots := (es.foldl State.takeEntry s).slots } := by
  induction es generalizing s with
  | nil => rfl
  | cons e es ih =>
    rw [List.foldl_cons, ih]
    unfold State.takeEntry
    split <;> rfl

/-- Settles O13. -/
theorem takeNoticesRemovesEntries : Obligations.TakeNoticesRemovesEntries := by
  refine fun l s h => ⟨fun htable => ?_, fun body hb hne => ?_⟩
  · have hsorted := htable.sorted l
    generalize hs' : ({ s with notices := s.notices.set l ((s.notices.get l).drop 6) } : State) = s'
    have hslots : s'.slots = s.slots := by rw [← hs']
    have hslot := fun j => foldl_takeEntry_slot j _ s' (hsorted.sublist (List.take_sublist 6 _))
    have hframe := foldl_takeEntry_frame ((s.notices.get l).take 6) s'
    refine ⟨((s.notices.get l).take 6).foldl State.takeEntry s', ?_, ?_, hsorted, fun e he hf => ?_, fun i hi => ?_, ?_⟩
    · rw [exec_takeNotices h (by simp), State.takeNoticesRequest, if_neg (by simp), ← hs']
      simp only [ok_outcome, List.length_drop]
    · rw [hframe, ← hs']
    · have := hslot e.slot
      rw [if_pos ⟨e, he, hf, rfl⟩, hslots] at this
      exact ⟨congrArg Slot.claim this, congrArg Slot.gen this⟩
    · rw [hslot i, if_neg fun ⟨e, he, hf, hei⟩ => hi e he hf hei, hslots]
    · rw [hframe, ← hs']
      simp [State.alertLow, h.1, List.isEmpty_iff]
  · rw [exec_takeNotices h hb, State.takeNoticesRequest, if_pos (by simpa using hne), refuse_outcome]

/-! ### RETIRE and HOLD_EXPIRY (R14, R17) -/

/-- The stamp counter moves with the divider within a tick (R126). -/
theorem stamp_add (cadence : Count32) {a b c : Nat} (h : a + b = c) :
    125#32 * cadence + BitVec.ofNat 32 a + BitVec.ofNat 32 b = 125#32 * cadence + BitVec.ofNat 32 c := by
  rw [← h, BitVec.ofNat_add, add_assoc]

/-- The clock at the beginning of the next tick (R82, R126). -/
theorem nextTick_clock {s : State} (h : ClockInv s) (waits : Bool) :
    (s.nextTick waits).clock = ⟨0, s.clock.cadence + 1#32, 125#32 * (s.clock.cadence + 1#32), waits⟩ := by
  obtain ⟨hd, hstamp⟩ := h
  have hmul : 125#32 * (s.clock.cadence + 1#32) = 125#32 * s.clock.cadence + BitVec.ofNat 32 125 := by
    rw [mul_add]
    rfl
  rw [hmul, ← stamp_add _ (show s.clock.divider / 16 + (125 - s.clock.divider / 16) = 125 by omega), ← hstamp]
  rfl

/-- A hold expiry of a claim with a deadline (R14, log entry 5). -/
theorem expire_of_deadline {s : State} {i : SlotIx} {c : Claim} {t : Count32} (hc : s.claim i = some c)
    (ht : c.deadline = some t) : s.expire i =
      if s.reached t = true then s.endClaims .lapse [i]
      else if t = s.clock.cadence + 1#32 ∧ s.clock.momentsWait = false then (s.nextTick true).endClaims .lapse [i]
      else s := by
  simp [State.expire, hc, ht]

/-- The next count has not been reached. -/
theorem not_reached_next (s : State) : s.reached (s.clock.cadence + 1#32) = false := by
  have h : s.clock.cadence - (s.clock.cadence + 1#32) = 0xFFFFFFFF#32 := by
    rw [sub_add_cancel_left]
    rfl
  rw [State.reached, h]
  rfl

/-- Settles O21. -/
theorem retireAndExpiryEndTheClaim : Obligations.RetireAndExpiryEndTheClaim := by
  refine ⟨fun l body i c s h hb hpass => ?_, fun i s hr => ?_⟩
  · intro t
    rw [exec_retire h (by omega), retireRequest_eq s l hb, ownerChecks_of_named hpass.run hpass.named,
      State.ownedOngoing_of_passes hpass, ok_outcome]
    simp only [t, State.stateOf]
    cases (s.endClaims .retire [i]).claim i <;> rfl
  · have hexec : exec (.holdExpiry i) s = .next (s.expire i) := by
      show Host.Outcome.next _ = _
      rw [if_neg (by simp [hr])]
    refine ⟨fun hnone => ?_, fun c t hc ht => ?_⟩
    · have hbind : (s.claim i).bind Claim.deadline = none := Option.bind_eq_none_iff.mpr hnone
      rw [hexec, State.expire, hbind]
    have hexp := hexec.trans (congrArg _ (expire_of_deadline hc ht))
    refine ⟨fun hreach => ?_, fun hnext hw => ⟨s.nextTick true, ?_, rfl, fun hclock => ?_, s.nextTick_gates true⟩,
      fun hfar hlate => ?_⟩
    · rw [hexp, if_pos (by simpa [State.reached] using hreach)]
    · rw [hexp, hnext, if_neg (by simp [not_reached_next]), if_pos ⟨rfl, hw⟩]
    · rw [nextTick_clock hclock, hnext]
    · rw [hexp, if_neg (by simpa [State.reached] using hfar), if_neg]
      rintro ⟨hnext, hw⟩
      rcases hlate with hne | hne
      · exact hne hnext
      · simp [hw] at hne

end Sys2Proof.Machine
end

section
/-! PROOFS. The queue, the gate clock that passes with an empty queue, and power-on reset. -/

namespace Sys2Proof.Machine

/-! ### The queue -/

/-- No request touches the queue. -/
theorem Change.pending {s t : State} (h : Change s t) : t.pending = s.pending := by
  cases h with
  | tookNotices l => exact foldl_keeps State.pending _ (fun _ _ => by simp) _ _
  | renewedAll l => exact foldl_keeps State.pending State.renewClaim (fun _ _ => rfl) _ _
  | nothing | read | renewed | pinned | admitted | reach | window | filter | polarity | locked => rfl
  | opened | amended | retired | droppedAll | cleared | tested | evicted => simp

/-- No command touches the commands behind it. -/
theorem Moves.pending {s t : State} (h : Moves s t) : t.pending = s.pending := by
  cases h with
  | response u hu l r => exact hu.pending
  | same | held | released | window | clocks => rfl
  | advance | expire | periodEnd | complete | pinChange | accept | trip => simp

/-! ### A gate clock with an empty queue (log entry 2) -/

theorem isDue_iff (u : GateUnit) :
    u.isDue = true ↔ u.isOpen = true ∧ u.applied.getD 1 ≤ u.counter + u.waited := by
  simp [GateUnit.isDue, GateUnit.toWrap, GateUnit.elapsed, Nat.sub_eq_zero_iff_le]

theorem microsTo_eq_zero_iff (s : State) (t : Count32) :
    s.microsTo t = 0 ↔ t = s.clock.stamp ∨ 2 ^ 31 ≤ (t - s.clock.stamp).toNat := by
  unfold State.microsTo
  have hzero : (t - s.clock.stamp).toNat = 0 ↔ t = s.clock.stamp := by
    rw [← sub_eq_zero (a := t), ← BitVec.toNat_inj]
    rfl
  split
  · rw [hzero]
    constructor
    · exact .inl
    · rintro (h | h)
      · exact h
      · omega
  · constructor
    · intro _
      exact .inr (by omega)
    · intro _
      rfl

theorem inputs_any_isDue_iff (s : State) : s.inputs.any (EdgeInput.isDue s.clock.stamp) = true ↔
    ∃ (e : EdgeIn) (p : PendingChange), s.inputs[e].pending = some p ∧ p.filter ≤ (s.clock.stamp - p.stamp).toNat := by
  have hdue : ∀ x : EdgeInput, EdgeInput.isDue s.clock.stamp x = true ↔
      ∃ p : PendingChange, x.pending = some p ∧ p.filter ≤ (s.clock.stamp - p.stamp).toNat := by
    intro x
    cases hx : x.pending <;> simp [EdgeInput.isDue, hx, PendingChange.left, Nat.sub_eq_zero_iff_le]
  rw [Vector.any_eq_true]
  constructor
  · rintro ⟨i, hi, h⟩
    obtain ⟨p, hp, hle⟩ := (hdue _).mp h
    exact ⟨⟨i, hi⟩, p, hp, hle⟩
  · rintro ⟨e, p, hp, hle⟩
    exact ⟨e.val, e.isLt, (hdue _).mpr ⟨p, hp, hle⟩⟩

/-- The instant of an event of time has come (log entry 2). -/
theorem eventDue_iff {s : State} (h : s.clock.divider ≤ 2000) : s.eventDue = true ↔
    s.clock.divider = 2000 ∨ s.clock.momentsWait = true ∨
      (∃ g, (s.gates.get g).isOpen = true ∧
        (s.gates.get g).applied.getD 1 ≤ (s.gates.get g).counter + (s.gates.get g).waited) ∨
      (∃ f, s.arbiter.inFlight = some f ∧
        (f.completesAt = s.clock.stamp ∨ 2 ^ 31 ≤ (f.completesAt - s.clock.stamp).toNat)) ∨
      ∃ (e : EdgeIn) (p : PendingChange), s.inputs[e].pending = some p ∧
        p.filter ≤ (s.clock.stamp - p.stamp).toNat := by
  have hgates : (∃ g, (s.gates.get g).isOpen = true ∧
      (s.gates.get g).applied.getD 1 ≤ (s.gates.get g).counter + (s.gates.get g).waited) ↔
      s.gates.gt.isDue = true ∨ s.gates.gb.isDue = true := by
    rw [isDue_iff, isDue_iff]
    constructor
    · rintro ⟨g, hg⟩
      cases g
      · exact .inl hg
      · exact .inr hg
    · rintro (hg | hg)
      · exact ⟨.gt, hg⟩
      · exact ⟨.gb, hg⟩
  have hflight : (∃ f, s.arbiter.inFlight = some f ∧
      (f.completesAt = s.clock.stamp ∨ 2 ^ 31 ≤ (f.completesAt - s.clock.stamp).toNat)) ↔
      (s.arbiter.inFlight.any fun f => decide (s.microsTo f.completesAt = 0)) = true := by
    cases s.arbiter.inFlight <;> simp [microsTo_eq_zero_iff]
  have hend : s.clock.divider = 2000 ↔ 2000 ≤ s.clock.divider := by omega
  rw [hgates, hflight, ← inputs_any_isDue_iff, hend]
  simp only [State.eventDue, Bool.or_eq_true, decide_eq_true_eq, or_assoc]

/-- A gate clock before the wrap: the counter counts, or begins to wait at its last count (R47). -/
theorem run_one {u : GateUnit} (h : u.ok) (hdue : ¬(u.isOpen = true ∧ u.applied.getD 1 ≤ u.counter + u.waited)) :
    GateUnit.run 1 u = if u.isOpen = false then u
      else if u.counter < u.applied.getD 1 - 1 then { u with counter := u.counter + 1 } else { u with waited := 1 } := by
  cases ho : u.isOpen with
  | false => simp [GateUnit.run, ho]
  | true =>
    obtain ⟨-, -, hle, hwait⟩ := h.1 ho
    have hlt : u.counter + u.waited < u.applied.getD 1 := not_le.mp fun hn => hdue ⟨ho, hn⟩
    have hw : u.waited = 0 := by
      by_contra hne
      have := hwait hne
      omega
    have hrun : GateUnit.run 1 u = { u with
        counter := min (u.elapsed + 1) u.last, waited := u.elapsed + 1 - u.last } := if_pos ho
    rw [hrun, if_neg (by simp)]
    simp only [GateUnit.elapsed, GateUnit.last, hw, Nat.add_zero]
    split
    · rename_i hc
      rw [Nat.min_eq_left (by omega), Nat.sub_eq_zero_of_le (by omega), ← hw, ← ho]
    · rename_i hc
      have hlast : u.counter = u.applied.getD 1 - 1 := by omega
      rw [Nat.min_eq_right (by omega), ← hlast, Nat.add_sub_cancel_left, ← ho]

/-- The clock after some gate clocks of the present tick (R126). -/
theorem passClocks_clock {s : State} (h : ClockInv s) {n : Nat} (hn : s.clock.divider + n ≤ 2000) :
    (s.passClocks n).clock = ⟨s.clock.divider + n, s.clock.cadence,
      125#32 * s.clock.cadence + BitVec.ofNat 32 ((s.clock.divider + n) / 16), s.clock.momentsWait⟩ := by
  obtain ⟨-, hstamp⟩ := h
  have hm : min n (2000 - s.clock.divider) = n := by omega
  unfold State.passClocks
  rw [hm, ← stamp_add _ (show s.clock.divider / 16 + ((s.clock.divider + n) / 16 - s.clock.divider / 16) =
    (s.clock.divider + n) / 16 by omega), ← hstamp]

/-- Settles O2: every command is a move, and the gate clock of an empty queue is worked by what is due. -/
theorem everyStepAnswersNext : Obligations.EveryStepAnswersNext := by
  refine ⟨fun c s => ?_, fun s hq => ⟨fun hr => ?_, fun hr hstop hclock => ?_⟩⟩
  · obtain ⟨t, ht, hm⟩ := exec_moves c s
    exact ⟨t, ht, hm.pending⟩
  · rw [step, hq]
    simp [State.idle, hr]
  · intro due
    have hstep : step s = .next (if s.eventDue = true then s else s.passClocks 1) := by
      rw [step, hq]
      simp [State.idle, hr]
    have hdue : s.eventDue = true ↔ due := eventDue_iff hclock.1
    refine ⟨fun hd => by rw [hstep, if_pos (hdue.mpr hd)], fun hd => ⟨s.passClocks 1, ?_, rfl, ?_, fun g => ?_⟩⟩
    · rw [hstep, if_neg (mt hdue.mp hd)]
    · obtain ⟨hdiv, hwait, -⟩ := not_or.mp hd |>.imp_right not_or.mp
      have := hclock.1
      rw [passClocks_clock hclock (by omega), Bool.eq_false_iff.mpr hwait]
    · obtain ⟨hdiv, hrest⟩ := not_or.mp hd
      obtain ⟨-, hrest⟩ := not_or.mp hrest
      obtain ⟨hgate, -⟩ := not_or.mp hrest
      have hle := hclock.1
      rw [s.passClocks_gates, show min 1 (2000 - s.clock.divider) = 1 by omega]
      exact run_one (hstop.1 g) fun h => hgate ⟨g, h⟩

/-! ### Power-on reset (R171) -/

/-- The release of reset, while it is held (R171). -/
theorem exec_resetRelease {s : State} (h : s.resetHeld = true) (auth : Level) (pins : Vector Level 8)
    (csLow : PerLink Bool) : exec (.resetRelease auth pins csLow) s =
      .next { State.released auth pins csLow with pending := s.pending, draws := s.draws } := congrArg _ (if_pos h)

/-- Settles O3. -/
theorem resetIsHeldAndReleased : Obligations.ResetIsHeldAndReleased := by
  refine ⟨fun s => ⟨s.held, rfl, rfl, rfl, fun d => by cases d <;> rfl, fun l => ⟨rfl, by cases l <;> rfl, fun n => rfl⟩⟩,
    fun c s hr hc hrel => ?_, fun auth pins csLow s hr => ?_, fun auth pins csLow s hr => ?_⟩
  · have hreq := fun l code body k => congrArg (Host.Outcome.next (φ := Fault) (ρ := Refusal))
      (State.takeRequest_of_held hr l code body k)
    have hevent : ∀ t : State, Host.Outcome.next (φ := Fault) (ρ := Refusal) (if s.resetHeld = true then s else t) =
        .next s := fun t => by rw [if_pos hr]
    cases c with
    | powerOnReset => exact absurd rfl hc
    | resetRelease auth pins csLow => exact absurd rfl (hrel auth pins csLow)
    | windowBegin l => exact congrArg _ (if_pos (.inl hr))
    | csRiseAfterReset l => exact congrArg _ (if_pos (.inl hr))
    | frameRefused l bits => exact if_pos (.inl hr)
    | cadenceAdvance | holdExpiry | periodEnd | conversionComplete | edgePinChange | acceptedEdge | tripTaken =>
      exact hevent _
    | poll | status | trips | list | read | lookup | takeNotices | openClaim | amend | renew | renewAll | retire
    | dropAll | clearTrip | testTrip | pin | evict | admitLink | setReach | setAnalog | setEdge | setDrive
    | lockSetup => exact hreq _ _ _ _
  · refine ⟨_, exec_resetRelease hr auth pins csLow, rfl, rfl, rfl, by cases auth <;> rfl, fun l => by cases l <;> rfl, fun c => ?_,
      fun e => ?_, fun d => by cases d <;> rfl, rfl⟩
    · simp [State.released, setupAtReset]
    · fin_cases e <;> rfl
  · exact congrArg _ (if_neg (by simp [hr]))

/-- The slots after a release (R23). -/
theorem released_claim (auth : Level) (pins : Vector Level 8) (csLow : PerLink Bool) (i : SlotIx) :
    (State.released auth pins csLow).claim i = none := by
  simp [State.claim, State.released]

theorem released_gate (auth : Level) (pins : Vector Level 8) (csLow : PerLink Bool) (g : Gate) :
    (State.released auth pins csLow).gates.get g = gateAtReset := by cases g <;> rfl

theorem released_drive (auth : Level) (pins : Vector Level 8) (csLow : PerLink Bool) (d : Drive) :
    (State.released auth pins csLow).drives.get d = driveAtReset := by cases d <;> rfl

theorem released_driveList (auth : Level) (pins : Vector Level 8) (csLow : PerLink Bool) (d : Drive) :
    (State.released auth pins csLow).driveList d = [] := by cases d <;> rfl

theorem released_gateList (auth : Level) (pins : Vector Level 8) (csLow : PerLink Bool) (g : Gate) :
    (State.released auth pins csLow).gateList g = [] := by cases g <;> rfl

theorem released_notices (auth : Level) (pins : Vector Level 8) (csLow : PerLink Bool) (l : Link) :
    (State.released auth pins csLow).notices.get l = [] := by cases l <;> rfl

theorem released_port (auth : Level) (pins : Vector Level 8) (csLow : PerLink Bool) (l : Link) :
    (State.released auth pins csLow).ports.get l = portAtReset (csLow.get l) := by cases l <;> rfl

theorem released_waiting (auth : Level) (pins : Vector Level 8) (csLow : PerLink Bool) (c : AnalogCh) :
    (State.released auth pins csLow).arbiter.waiting[c] = none := by simp [State.released, arbiterAtReset]

theorem released_input (auth : Level) (pins : Vector Level 8) (csLow : PerLink Bool) (e : EdgeIn) :
    (State.released auth pins csLow).inputs[e] = inputAtReset pins[e] := by fin_cases e <;> rfl

theorem released_sensitivity (auth : Level) (pins : Vector Level 8) (csLow : PerLink Bool) (e : EdgeIn) :
    (State.released auth pins csLow).sensitivity e = none := by
  have hnone : (State.released auth pins csLow).edgeMembers e = [] := by
    rw [State.edgeMembers, State.members, State.slotsWhere_of_free (released_claim auth pins csLow)]
  simp [State.sensitivity, hnone]

/-- Every release meets the invariants (R23, R55, R81, R92, R107, R141, R152). -/
theorem released_invariants (auth : Level) (pins : Vector Level 8) (csLow : PerLink Bool) :
    let s := State.released auth pins csLow
    StopInv s ∧ TableInv s ∧ ListInv s ∧ QuotaInv s ∧ TagInv s ∧ ConfigInv s ∧ MarksInv s ∧ ArbiterInv s ∧
      ClockInv s ∧ AuthorityInv s ∧ GateInv s ∧ RangeInv s ∧ LifeInv s ∧ NoticeInv s ∧ PortInv s := by
  intro s
  have hclaim : ∀ i, s.claim i = none := released_claim auth pins csLow
  have hgate : ∀ g, s.gates.get g = gateAtReset := released_gate auth pins csLow
  have hdrive : ∀ d, s.drives.get d = driveAtReset := released_drive auth pins csLow
  have hdl : ∀ d, s.driveList d = [] := released_driveList auth pins csLow
  have hgl : ∀ g, s.gateList g = [] := released_gateList auth pins csLow
  have hnot : ∀ l, s.notices.get l = [] := released_notices auth pins csLow
  have hport : ∀ l, s.ports.get l = portAtReset (csLow.get l) := released_port auth pins csLow
  have hwait : ∀ c : AnalogCh, s.arbiter.waiting[c] = none := released_waiting auth pins csLow
  have hinput : ∀ e : EdgeIn, s.inputs[e] = inputAtReset pins[e] := released_input auth pins csLow
  have hbar : ∀ l, s.barred l = false := fun l => by rw [State.barred, hport]; rfl
  have hopen : ∀ g, s.gateIsOpen g = false := fun g => by rw [State.gateIsOpen, hgate]; rfl
  have hbodies : ∀ g, s.gateBodies g = [] := fun g => by simp [State.gateBodies, hgl]
  have hunpinned : ∀ l, s.unpinnedCount l = 0 := fun l => by
    rw [State.unpinnedCount, State.slotsWhere_of_free hclaim]
    rfl
  refine ⟨⟨fun g => ?_, fun d => ?_⟩, ?_, ?_, ⟨fun _ => hclaim, fun l => by simp [hunpinned]⟩, ?_,
    fun _ => ⟨hclaim, hdl, hgl, hnot, fun g => by rw [hgate]; exact ⟨rfl, rfl⟩, hwait, rfl, fun g => by cases g <;> rfl⟩,
    fun _ => ⟨fun c => by simp [s, State.released, arbiterAtReset], rfl, rfl⟩, ?_, ⟨by simp [s, State.released], by simp [s, State.released]⟩,
    ⟨?_, hbar _⟩, ?_, ?_, fun i c hc => by simp [hclaim] at hc, ?_, fun l => ?_⟩
  · simp [hgate, GateUnit.ok, gateAtReset]
  · simp [hgate, hdrive, DriveChannel.ok, driveAtReset, gateAtReset, StopPattern.pins]
  · exact ⟨fun d i hi => by simp [hdl] at hi, fun d => by simp [hdl], fun g i hi => by simp [hgl] at hi,
      fun g => by simp [hgl], fun l e he => by simp [hnot] at he, fun l => by simp [hnot], fun l _ => hnot l⟩
  · exact ⟨fun i c hc => by simp [hclaim] at hc, fun d => by simp [hdl], fun g => by simp [hgl],
      fun i c d hc => by simp [hclaim] at hc, fun i c g hc => by simp [hclaim] at hc, fun d h t hl => by simp [hdl] at hl,
      fun d h t c hl => by simp [hdl] at hl, fun d h t c hl => by simp [hdl] at hl⟩
  · intro i j c d hc
    simp [hclaim] at hc
  · exact ⟨fun c r hr => by simp [hwait] at hr, fun f hf => by simp [s, State.released, arbiterAtReset] at hf,
      fun _ => hwait⟩
  · cases auth <;> simp [s, State.released, setupAtReset]
  · exact ⟨fun g => by simp [hopen, State.openCondition, hbodies], fun g => by simp [hgate, gateAtReset, State.closeFor, hbodies],
      fun g hg => by simp [hopen] at hg, fun g => by simp [hgate, gateAtReset]⟩
  · refine ⟨fun i c hc => by simp [hclaim] at hc, fun g p hp => by simp [hgate, gateAtReset] at hp,
      fun d => by simp [hdrive, driveAtReset], fun l => by cases l <;> simp [s, State.released, setupAtReset, PerLink.get],
      fun c => by simp [s, State.released, setupAtReset], fun e => by simp [hinput, inputAtReset]⟩
  · exact ⟨fun l e he => by simp [hnot] at he, fun i c hc => by simp [hclaim] at hc⟩
  · rw [hport]
    cases csLow.get l <;> simp [portAtReset, Port.inWindow]

/-- Settles O4. -/
theorem releaseEmptiesEveryBlockAndMeetsInvariants : Obligations.ReleaseEmptiesEveryBlockAndMeetsInvariants := by
  refine ⟨fun auth pins csLow s hr => ⟨_, exec_resetRelease hr auth pins csLow, fun i => ⟨released_claim auth pins csLow i, ?_⟩,
    released_driveList auth pins csLow, released_gateList auth pins csLow, released_notices auth pins csLow,
    fun g => ⟨released_gate auth pins csLow g, by cases g <;> rfl⟩, released_drive auth pins csLow,
    fun c => ⟨released_waiting auth pins csLow c, by simp [State.released, arbiterAtReset]⟩, rfl, rfl, rfl,
    fun e => ?_, released_port auth pins csLow⟩, rfl, released_invariants⟩
  · simp [State.handle, State.released]
  · have hin := released_input auth pins csLow e
    exact ⟨congrArg EdgeInput.level hin, congrArg EdgeInput.pending hin, released_sensitivity auth pins csLow e⟩

end Sys2Proof.Machine
end

section
/-! PROOFS. Windows, frames and the bytes of responses. -/

namespace Sys2Proof

/-- A command that is no request and no refused frame. -/
def Instr.isEvent : Instr → Bool
  | .powerOnReset => true
  | .resetRelease _ _ _ => true
  | .windowBegin _ => true
  | .cadenceAdvance => true
  | .holdExpiry _ => true
  | .periodEnd _ => true
  | .conversionComplete _ => true
  | .edgePinChange _ _ _ => true
  | .acceptedEdge _ => true
  | .tripTaken _ => true
  | .csRiseAfterReset _ => true
  | _ => false

end Sys2Proof

namespace Sys2Proof.Machine

/-- Every command that is no event leaves the state, or a change and a response held (R155). -/
theorem exec_requested {c : Instr} (h : c.isEvent = false) (s : State) :
    ∃ l t, exec c s = .next t ∧ Requested s l t := by
  cases c with
  | frameRefused l bits =>
    change ∃ l' t, execFrameRefused l bits s = .next t ∧ Requested s l' t
    unfold execFrameRefused
    split
    · exact ⟨l, _, rfl, .left⟩
    · cases hf : frameError (s.received l ++ bits) with
      | some r => exact ⟨l, _, riseOfCs_error hf l s, .answered s .nothing _⟩
      | none => exact ⟨l, riseOfCs_request hf l s ▸ takeByCode_requested _ _ _ s⟩
  | poll l body => exact ⟨l, takeByCode_requested l 0x00#8 body s⟩
  | status l body => exact ⟨l, takeByCode_requested l 0x01#8 body s⟩
  | trips l body => exact ⟨l, takeByCode_requested l 0x02#8 body s⟩
  | list l body => exact ⟨l, takeByCode_requested l 0x03#8 body s⟩
  | read l body => exact ⟨l, takeByCode_requested l 0x04#8 body s⟩
  | lookup l body => exact ⟨l, takeByCode_requested l 0x05#8 body s⟩
  | takeNotices l body => exact ⟨l, takeByCode_requested l 0x06#8 body s⟩
  | openClaim l body => exact ⟨l, takeByCode_requested l 0x10#8 body s⟩
  | amend l body => exact ⟨l, takeByCode_requested l 0x11#8 body s⟩
  | renew l body =>
    refine ⟨l, _, rfl, s.takeRequest_requested _ _ _ ?_⟩
    split
    · exact s.renewAllRequest_change l
    · exact s.renewRequest_change l body
  | renewAll l => exact ⟨l, takeByCode_requested l 0x12#8 [] s⟩
  | retire l body => exact ⟨l, takeByCode_requested l 0x13#8 body s⟩
  | dropAll l body => exact ⟨l, takeByCode_requested l 0x14#8 body s⟩
  | clearTrip l body => exact ⟨l, takeByCode_requested l 0x20#8 body s⟩
  | testTrip l body => exact ⟨l, takeByCode_requested l 0x21#8 body s⟩
  | pin l body => exact ⟨l, takeByCode_requested l 0x30#8 body s⟩
  | evict l body => exact ⟨l, takeByCode_requested l 0x31#8 body s⟩
  | admitLink l body => exact ⟨l, takeByCode_requested l 0x32#8 body s⟩
  | setReach l body => exact ⟨l, takeByCode_requested l 0x40#8 body s⟩
  | setAnalog l body => exact ⟨l, takeByCode_requested l 0x41#8 body s⟩
  | setEdge l body => exact ⟨l, takeByCode_requested l 0x42#8 body s⟩
  | setDrive l body => exact ⟨l, takeByCode_requested l 0x43#8 body s⟩
  | lockSetup l body => exact ⟨l, takeByCode_requested l 0x44#8 body s⟩
  | powerOnReset | resetRelease | windowBegin | cadenceAdvance | holdExpiry | periodEnd | conversionComplete
  | edgePinChange | acceptedEdge | tripTaken | csRiseAfterReset => cases h

/-! ### Windows (R152, R153) -/

/-- A frame goes out in a window alone, and in it no response is held (R152, R153), at one port. -/
def PortOk (p : Port) : Prop :=
  (p.inWindow = true ↔ p.outgoing ≠ none) ∧ (p.outgoing ≠ none → p.held = none)

theorem PortInv.setPort {s : State} (h : PortInv s) (l : Link) {p : Port} (hp : PortOk p) : PortInv (s.setPort l p) := by
  intro m
  change PortOk ((s.ports.set l p).get m)
  rw [PerLink.get_set]
  split
  · exact hp
  · exact h m

theorem PortInv.of_ports {s t : State} (h : PortInv s) (ht : t.ports = s.ports) : PortInv t := fun m => ht ▸ h m

/-- The ports after an eviction: the target is barred (R173). -/
theorem State.evictLink_ports (s : State) (l : Link) :
    (s.evictLink l).ports = s.ports.set l { s.ports.get l with barred := true } := by
  have hbar : (s.barLink l).ports = s.ports.set l { s.ports.get l with barred := true } :=
    foldl_keeps State.ports State.freeSlot (fun _ _ => rfl) _ _
  have hover : ∀ (is : List SlotIx) (u : State), (is.foldl State.handOverPinned u).ports = u.ports := fun is u =>
    foldl_keeps State.ports State.handOverPinned (fun _ _ => rfl) is u
  simp only [State.evictLink, State.passHolds_ports]
  rw [hover, State.endClaims_ports, hbar]

/-- A request changes at most barred marks of ports, before its response is held (R173, R175). -/
theorem Change.port {s t : State} (h : Change s t) (l : Link) :
    t.ports.get l = { s.ports.get l with barred := (t.ports.get l).barred } := by
  have hmark : ∀ m b, (s.ports.set m { s.ports.get m with barred := b }).get l =
      { s.ports.get l with barred := ((s.ports.set m { s.ports.get m with barred := b }).get l).barred } := by
    intro m b
    rw [PerLink.get_set]
    split
    · rename_i e
      rw [e]
    · rfl
  have hsame : ∀ {u : State}, u.ports = s.ports → u.ports.get l = { s.ports.get l with barred := (u.ports.get l).barred } :=
    fun hu => by rw [hu]
  cases h with
  | evicted m => rw [State.evictLink_ports]; exact hmark m true
  | admitted m => exact hmark m false
  | tookNotices m => exact hsame (foldl_keeps State.ports _ (fun _ _ => by simp) _ _)
  | renewedAll m => exact hsame (foldl_keeps State.ports State.renewClaim (fun _ _ => rfl) _ _)
  | nothing | read | renewed | pinned | reach | window | filter | polarity | locked => exact hsame rfl
  | opened | amended | retired | droppedAll | cleared | tested => exact hsame (by simp)

theorem Requested.portInv {s t : State} {l : Link} (h : Requested s l t) (hs : PortInv s) : PortInv t := by
  cases h with
  | left => exact hs
  | answered u hu r =>
    have hkeep : PortInv u := fun m => by rw [hu.port m]; exact hs m
    exact hkeep.setPort l ⟨by simp [Port.inWindow], by simp⟩

theorem exec_portInv {c : Instr} {s t : State} (hs : PortInv s) (h : exec c s = .next t) : PortInv t := by
  by_cases he : c.isEvent = false
  · obtain ⟨l, u, hu, hr⟩ := exec_requested he s
    rw [hu] at h
    cases h
    exact hr.portInv hs
  have hite : ∀ {p : Prop} [Decidable p] {u v : State}, PortInv u → PortInv v → PortInv (if p then u else v) :=
    fun hu hv => by split <;> assumption
  have hinstant : ∀ n (event : State → State), (∀ u, (event u).ports = u.ports) → PortInv (s.atInstant n event) :=
    fun n event hev => hite (hs.of_ports ((hev _).trans (by simp))) hs
  cases c with
  | powerOnReset =>
    cases h
    intro m
    cases m <;> simp [State.held, State.reset, State.released, portAtReset, PerLink.get, Port.inWindow]
  | resetRelease auth pins csLow =>
    cases h
    refine hite (fun m => ?_) hs
    change PortOk ((State.released auth pins csLow).ports.get m)
    rw [released_port, portAtReset]
    cases csLow.get m <;> simp [PortOk, Port.inWindow]
  | windowBegin l =>
    cases h
    exact hite hs (hs.setPort l ⟨by simp [Port.inWindow], fun _ => rfl⟩)
  | csRiseAfterReset l =>
    cases h
    dsimp only
    split
    · exact hs
    · rename_i hw
      obtain ⟨-, hw⟩ := not_or.mp hw
      obtain ⟨hin, hheld⟩ := hs l
      refine hs.setPort l ⟨?_, hheld⟩
      simp only [Port.inWindow, not_not.mp hw] at hin ⊢
      exact hin
  | cadenceAdvance => cases h; exact hite hs (hs.of_ports (by simp))
  | holdExpiry i => cases h; exact hite hs (hs.of_ports (by simp))
  | periodEnd g => cases h; exact hite hs (hite (hinstant _ _ fun _ => by simp) hs)
  | conversionComplete v =>
    cases h
    refine hite hs ?_
    split
    · exact hs
    · exact hinstant _ _ fun _ => by simp
  | edgePinChange e lvl n => cases h; exact hite hs (hs.of_ports (by simp))
  | acceptedEdge e =>
    cases h
    refine hite hs ?_
    split
    · exact hs
    · exact hinstant _ _ fun _ => by simp
  | tripTaken g => cases h; exact hite hs (hs.of_ports (by simp))
  | _ => exact absurd rfl he

theorem step_portInv {s t : State} (hs : PortInv s) (h : step s = .next t) : PortInv t := by
  unfold step at h
  split at h
  · cases h
    exact hs.of_ports (by unfold State.idle; split <;> simp)
  · rename_i c rest _
    exact exec_portInv (s := { s with pending := rest }) hs h

/-- A port that waits for its CS to rise takes no fall, no request and no refused frame (R152). -/
theorem exec_of_awaitRise {s : State} {l : Link} (h : (s.ports.get l).window = .awaitRise) (body : List Byte)
    (bits : List Bool) : ∀ c ∈ [Instr.windowBegin l, .frameRefused l bits, .poll l body, .status l body, .trips l body,
      .list l body, .read l body, .lookup l body, .takeNotices l body, .openClaim l body, .amend l body, .renew l body,
      .renewAll l, .retire l body, .dropAll l body, .clearTrip l body, .testTrip l body, .pin l body, .evict l body,
      .admitLink l body, .setReach l body, .setAnalog l body, .setEdge l body, .setDrive l body, .lockSetup l body],
    exec c s = .next s := by
  have hreq := fun code body k => congrArg (Host.Outcome.next (φ := Fault) (ρ := Refusal))
    (State.takeRequest_of_awaitRise h code body k)
  simp only [List.forall_mem_cons, List.not_mem_nil, false_implies, implies_true, and_true]
  refine ⟨congrArg _ (if_pos (.inr (by simp [h]))), if_pos (.inr h), ?_⟩
  repeat' constructor
  all_goals exact hreq _ _ _

/-! ### The bytes of responses (R157, section 10.7) -/

/-- The free bytes of a body are fewer than 28 (R157). -/
theorem freeBytes_length_le (b : ReplyBody) : (freeBytes b).length ≤ 27 := by
  simp only [freeBytes, List.length_map, List.length_range]
  omega

theorem flatMap_length_le {α : Type} (f : α → List (List Byte)) (n : Nat) (xs : List α)
    (h : ∀ x ∈ xs, (f x).flatten.length ≤ n) : (xs.flatMap f).flatten.length ≤ n * xs.length := by
  induction xs with
  | nil => simp
  | cons x xs ih =>
    have hx := h x (by simp)
    have hxs := ih fun y hy => h y (by simp [hy])
    rw [List.flatMap_cons, List.flatten_append, List.length_append, List.length_cons, Nat.mul_succ]
    omega

theorem handle_bytes_length (h : Handle) : h.bytes.length = 2 := rfl

/-- The encoded pieces of a body fit a response (R157). -/
theorem pieces_length_le (b : ReplyBody) : (ReplyBody.pieces b).flatten.length ≤ 27 := by
  cases b with
  | list n es =>
    have h := flatMap_length_le ListEntry.pieces 5 (es.take 3) fun e _ => by
      cases hv : e.vote <;> simp [ListEntry.pieces, handle_bytes_length, hv]
    have hlen := List.length_take_le 3 es
    simp only [ReplyBody.pieces]
    omega
  | trips n hs =>
    have h := flatMap_length_le TripHold.pieces 3 (hs.take 6) fun e _ => by simp [TripHold.pieces]
    have hlen := List.length_take_le 6 hs
    simp only [ReplyBody.pieces]
    omega
  | body r => cases r <;> simp [ReplyBody.pieces, BodyReport.pieces]
  | status n items =>
    cases items with
    | gate o a st close sup v w n => cases sup <;> simp [ReplyBody.pieces, StatusItems.pieces, handle_bytes_length]
    | drive ph du pa co h n se => cases h <;> simp [ReplyBody.pieces, StatusItems.pieces, handle_bytes_length]
    | part p l conv m2 m3 f ls => cases conv <;> simp [ReplyBody.pieces, StatusItems.pieces]
    | analog | edge => simp [ReplyBody.pieces, StatusItems.pieces]
  | claim | poll | common =>
    simp [ReplyBody.pieces, CommonReport.pieces, handle_bytes_length]
  | empty | state | count | holder | gate | notices | evicted | run => simp [ReplyBody.pieces]

theorem notices_flatMap_length (es : List (Handle × BitVec 16)) : (es.flatMap noticeBytes).length = 4 * es.length := by
  induction es with
  | nil => rfl
  | cons e es ih =>
    rw [List.flatMap_cons, List.length_append, ih, List.length_cons]
    simp [noticeBytes]
    omega

/-- A response body holds 27 bytes at most (R157). -/
theorem replyBytes_length_le {b : ReplyBody} (h : ∀ left es, b = .notices left es → es.length ≤ 6) :
    (replyBytes b).length ≤ 27 := by
  have hamong : (piecesAmong b ((freeBytes b).drop (ReplyBody.pieces b).flatten.length)).length ≤ 27 := by
    have hpieces := pieces_length_le b
    have hfree := freeBytes_length_le b
    rw [piecesAmong_length, List.length_drop]
    omega
  cases b with
  | notices left es =>
    have hes := h left es rfl
    simp only [replyBytes, List.length_cons, notices_flatMap_length]
    omega
  | claim hd st =>
    have hpieces := pieces_length_le (.claim hd st)
    simp only [replyBytes, piecesAmong_length, List.length_nil]
    omega
  | empty | state | holder => simp [replyBytes]
  | count | gate | poll | evicted | list | trips | common | body | run | status => exact hamong

theorem responseBytes_length (r : Response) : (responseBytes r).length = (replyBytes r.body).length + 4 := by
  simp [responseBytes]

/-- A byte that stands alone in a body is one of its bytes. -/
theorem mem_replyBytes_of_piece {b : ReplyBody} {x : Byte} (h : [x] ∈ ReplyBody.pieces b) : x ∈ replyBytes b :=
  (piece_in_replyBytes h).subset (by simp)

/-- The check of bytes with their check behind them is 00h (R154). -/
theorem crc8_append_self (b : List Byte) : crc8 (b ++ [crc8 b]) = 0x00#8 := by
  have hself : ∀ c : Byte, crcByte c c = 0x00#8 := fun c => by
    rw [crcByte, BitVec.xor_self]
    rfl
  rw [crc8, List.foldl_append, List.foldl_cons, List.foldl_nil]
  exact hself _

/-- The check of the empty frame (R153, R154). -/
theorem crc8_emptyFrame : crc8 [0x00#8, 0x01#8, 0x00#8] = 0x15#8 := by decide +kernel

/-- An entry's encoded pieces stand in the body of its LIST (R38). -/
theorem list_pieces {n : Nat} {es : List ListEntry} {e : ListEntry} (he : e ∈ es.take 3) {p : List Byte}
    (hp : p ∈ ListEntry.pieces e) : p <:+: replyBytes (.list n es) :=
  piece_in_replyBytes (List.mem_flatMap.mpr ⟨e, he, hp⟩)

theorem trips_pieces {n : Nat} {hs : List TripHold} {h : TripHold} (hh : h ∈ hs.take 6) {p : List Byte}
    (hp : p ∈ TripHold.pieces h) : p <:+: replyBytes (.trips n hs) :=
  piece_in_replyBytes (List.mem_flatMap.mpr ⟨h, hh, hp⟩)

theorem source_byte (src : Source) : src.byte = src.resource.byte := by cases src <;> rfl

/-- Pieces that are all among a body's own stand in it. -/
theorem pieces_shown {b : ReplyBody} {ps : List (List Byte)} (h : ps ⊆ ReplyBody.pieces b) :
    ∀ p ∈ ps, p <:+: replyBytes b := fun _ hp => piece_in_replyBytes (h hp)

/-- Settles O5. -/
theorem windowsOfferHeldResponses : Obligations.WindowsOfferHeldResponses := by
  refine ⟨fun l s hr hw => ?_, fun l s received r hr hw ho => ?_, fun l s hr hw => ?_, fun l s hr hw => ?_,
    fun l s _ hw body bits => exec_of_awaitRise hw body bits,
    ⟨fun s t => step_portInv, fun s l n hinv hw => ?_⟩, ?_⟩
  · intro r t
    refine ⟨?_, fun n => ?_⟩
    · change Host.Outcome.next _ = _
      rw [if_neg (by simp [hr, hw])]
    · simp [State.misoByte, t, State.setPort, hr]
  · rw [s.misoBit_inWindow l r hr ho, State.received_of_inWindow hw]
  · change Host.Outcome.next _ = _
    rw [if_neg (by simp [hr, hw])]
  · change Host.Outcome.next _ = _
    rw [if_pos (.inr hw)]
  · have hout : (s.ports.get l).outgoing = none := by
      by_contra hne
      simp [(hinv l).1.mpr hne] at hw
    unfold State.misoByte
    rw [hout]
    split <;> rfl
  · refine ⟨congrArg (fun x => [0x00#8, 0x01#8, 0x00#8, x]) crc8_emptyFrame, fun code r => rfl, fun code left h kinds hleft => rfl,
      ⟨fun part n b f => mem_replyBytes_of_piece (by simp [ReplyBody.pieces]),
        fun count part l c m2 m3 f ls => mem_replyBytes_of_piece (by simp [ReplyBody.pieces, StatusItems.pieces]),
        rfl, rfl⟩, ?_, fun r hr => ?_, crc8_append_self⟩
    · intro handle shows
      refine ⟨fun h st => ⟨pieces_shown (List.Subset.refl _), ?_⟩, fun n es e he => ⟨fun p hp => ?_, fun v hv p hp => ?_⟩,
        fun n hs h hh p hp => ?_, fun r => pieces_shown ?_, fun b left => pieces_shown (List.Subset.refl _),
        fun b => pieces_shown (List.Subset.refl _), fun b => pieces_shown (List.Subset.refl _),
        fun b => pieces_shown (List.Subset.refl _), fun count o a st close sup v w n => ⟨pieces_shown ?_,
          fun h hh => pieces_shown ?_⟩, fun count ph du pa co h n se => pieces_shown (List.Subset.refl _),
        fun count part l conv m2 m3 f ls => ⟨pieces_shown ?_, fun c m hc => pieces_shown ?_⟩⟩
      · rw [replyBytes, piecesAmong_length]
        rfl
      · exact list_pieces he (List.mem_append_left _ hp)
      · refine list_pieces he (List.mem_append_right _ ?_)
        rw [hv]
        exact hp
      · refine trips_pieces hh ?_
        rw [TripHold.pieces, source_byte]
        exact hp
      · have hwants : wantsByte r.wantsSample = if r.wantsSample = true then 0x01#8 else 0x00#8 := by
          cases r.wantsSample <;> rfl
        rw [ReplyBody.pieces, CommonReport.pieces, hwants]
        exact List.Subset.refl _
      · simp [ReplyBody.pieces, StatusItems.pieces]
      · subst hh
        simp [ReplyBody.pieces, StatusItems.pieces, handle, Handle.bytes]
      · simp [ReplyBody.pieces, StatusItems.pieces]
      · subst hc
        simp [ReplyBody.pieces, StatusItems.pieces]
    · have hlen := replyBytes_length_le hr
      rw [responseBytes_length]
      omega

/-! ### The checks on a frame (R154) -/

theorem sent_length (bytes : List Byte) : (bytes.flatMap bitsOfByte).length = 8 * bytes.length := by
  induction bytes with
  | nil => rfl
  | cons b bs ih =>
    rw [List.flatMap_cons, List.length_append, ih, List.length_cons]
    simp [bitsOfByte]
    omega

/-- The checks of R154 on whole bytes and some bits after the last one. -/
theorem frameError_sent (bytes : List Byte) {rest : List Bool} (h : rest.length < 8) :
    frameError (bytes.flatMap bitsOfByte ++ rest) =
      if ¬(rest = [] ∧ 3 ≤ bytes.length ∧ bytes.length ≤ 31 ∧ (bytes.getD 1 0#8).toNat ≤ 28 ∧
        3 + (bytes.getD 1 0#8).toNat ≤ bytes.length) then some .badFrame
      else if bytes.getD (2 + (bytes.getD 1 0#8).toNat) 0#8 ≠ crc8 (bytes.take (2 + (bytes.getD 1 0#8).toNat)) then
        some .badCheck
      else if (bytes.getD 0 0#8) ∈ requestCodes then none else some .badRequest := by
  have hmod : (bytes.flatMap bitsOfByte ++ rest).length % 8 ≠ 0 ↔ rest ≠ [] := by
    rw [List.length_append, sent_length, ← List.length_pos_iff]
    omega
  simp only [frameError, bytesOfBits_sent bytes rest h]
  refine if_congr ?_ rfl rfl
  rw [hmod]
  by_cases hr : rest = []
  · simp only [hr, ne_eq, not_true, false_or, true_and]
    omega
  · simp [hr]

/-- A request frame passes every check (R154). -/
theorem frameError_requestFrame {code : Byte} {body fill : List Byte} (hc : code ∈ requestCodes)
    (hlen : body.length + fill.length ≤ 28) :
    frameError ((requestFrame code body fill).flatMap bitsOfByte) = none := by
  have hnum : (BitVec.ofNat 8 body.length).toNat = body.length := numByte_toNat (by omega)
  have hsent := frameError_sent (requestFrame code body fill) (rest := []) (by simp)
  rw [List.append_nil] at hsent
  rw [hsent]
  have hframe : requestFrame code body fill =
      code :: BitVec.ofNat 8 body.length :: (body ++ (crc8 (code :: BitVec.ofNat 8 body.length :: body) :: fill)) := by
    simp [requestFrame]
  have hlen' : (requestFrame code body fill).length = body.length + fill.length + 3 := by
    rw [hframe]
    simp
    omega
  have h1 : ((requestFrame code body fill).getD 1 0#8).toNat = body.length := by
    rw [hframe]
    simpa using hnum
  have h0 : (requestFrame code body fill).getD 0 0#8 = code := by
    rw [hframe]
    rfl
  have hcheck : (requestFrame code body fill).getD (2 + body.length) 0#8 =
      crc8 ((requestFrame code body fill).take (2 + body.length)) := by
    rw [hframe, Nat.add_comm 2]
    simp
  rw [h1, h0, if_neg (by simp [hlen']; omega), if_neg (not_not.mpr hcheck), if_pos hc]

/-- Settles O6: the checks one by one, and the codes of the table one by one. -/
theorem frameChecksInOrder : Obligations.FrameChecksInOrder := by
  intro bytes rest hrest bits len fits checked known
  have herr := frameError_sent bytes hrest
  refine ⟨fun hf => ?_, fun hf hc => ?_, fun hf hc hk => ?_, fun hf hc hk => ?_, fun l s more h hmore =>
    ⟨fun r hr => ?_, fun hnone => ?_⟩, fun code body fill => frameError_requestFrame⟩
  · rw [herr, if_pos hf]
  · rw [herr, if_neg (not_not.mpr hf), if_pos hc]
  · rw [herr, if_neg (not_not.mpr hf), if_neg (not_not.mpr hc), if_neg hk]
  · rw [herr, if_neg (not_not.mpr hf), if_neg (not_not.mpr hc), if_pos hk]
  · refine (frameRefused_of_canTake h more).trans ?_
    rw [hmore, riseOfCs_error hr, bytesOfBits_sent bytes rest hrest, State.holdResponse_eq_setPort]
  · have hknown : bytes.getD 0 0#8 ∈ requestCodes := by
      rw [herr] at hnone
      split at hnone
      · cases hnone
      · split at hnone
        · cases hnone
        · split at hnone
          · assumption
          · cases hnone
    have hexec := frameRefused_of_canTake h more
    rw [hmore, riseOfCs_request hnone, bytesOfBits_sent bytes rest hrest] at hexec
    intro body request
    have hpick : ∃ c, request = some c ∧ takeByCode l (bytes.getD 0 0#8) body s = exec c s := by
      simp only [request]
      generalize bytes.getD 0 0#8 = code at hknown
      generalize body = b
      simp only [requestCodes, List.mem_cons, List.not_mem_nil, or_false] at hknown
      rcases hknown with rfl | rfl | rfl | rfl | rfl | rfl | rfl | rfl | rfl | rfl | rfl | rfl | rfl | rfl | rfl | rfl |
        rfl | rfl | rfl | rfl | rfl | rfl
      case inr.inr.inr.inr.inr.inr.inr.inr.inr.inl =>
        refine ⟨_, rfl, ?_⟩
        change (if b = [] then execRenewAll l s else execRenew l b s) = _
        split <;> rfl
      all_goals exact ⟨_, rfl, rfl⟩
    obtain ⟨c, hc, hcs⟩ := hpick
    exact ⟨c, hc, hexec.trans hcs⟩

end Sys2Proof.Machine
end

section
/-! SUPPORT and PROOFS. The arbiter of the converter: the waiting requests, the marks and the grant decision. -/

namespace Sys2Proof.Machine

/-- A vector of values with one of them changed. -/
theorem getElem_set_fin {α : Type} {n : Nat} (v : Vector α n) (i j : Fin n) (x : α) :
    (v.set i x)[j] = if j = i then x else v[j] := by
  by_cases h : j = i
  · subst h
    simp
  · have : i.val ≠ j.val := fun e => h (Fin.ext e.symm)
    simp [h, Vector.getElem_set_ne, this]

theorem mem_allChannels (c : AnalogCh) : c ∈ allChannels := List.mem_finRange c

/-! ### Waiting requests and marks (R98, R105) -/

theorem anyWaiting_iff (s : State) : s.anyWaiting = true ↔ ∃ c : AnalogCh, s.arbiter.waiting[c] ≠ none := by
  simp [State.anyWaiting, mem_allChannels, Option.isSome_iff_ne_none]

theorem anyWaiting_eq_false_iff (s : State) :
    s.anyWaiting = false ↔ ∀ c : AnalogCh, s.arbiter.waiting[c] = none := by
  rw [← Bool.not_eq_true, anyWaiting_iff]
  push Not
  rfl

theorem marksIfEmpty_of_waiting {s : State} (h : s.anyWaiting = true) : s.marksIfEmpty = s := if_pos h

theorem marksIfEmpty_of_none {s : State} (h : s.anyWaiting = false) :
    s.marksIfEmpty = { s with arbiter := Arbiter.clearMarks s.arbiter } := if_neg (by simp [h])

@[simp] theorem marksIfEmpty_waiting (s : State) : s.marksIfEmpty.arbiter.waiting = s.arbiter.waiting := by
  unfold State.marksIfEmpty
  split <;> rfl

@[simp] theorem marksIfEmpty_inFlight (s : State) : s.marksIfEmpty.arbiter.inFlight = s.arbiter.inFlight := by
  unfold State.marksIfEmpty
  split <;> rfl

theorem marksIfEmpty_eq (s : State) : s.marksIfEmpty = { s with arbiter := s.marksIfEmpty.arbiter } := by
  cases h : s.anyWaiting
  · rw [marksIfEmpty_of_none h]
  · rw [marksIfEmpty_of_waiting h]

theorem clearMarks_marked (a : Arbiter) (m : Member) : Arbiter.marked (Arbiter.clearMarks a) m = false := by
  cases m <;> simp [Arbiter.marked, Arbiter.clearMarks]

/-- A mark that is clear stays so where the waiting requests leave none (R105). -/
theorem marksIfEmpty_marked {s : State} {m : Member} (h : Arbiter.marked s.arbiter m = false) :
    Arbiter.marked s.marksIfEmpty.arbiter m = false := by
  unfold State.marksIfEmpty
  split
  · exact h
  · exact clearMarks_marked _ m

/-- An event that leaves no request waiting leaves every mark clear (R105). -/
theorem marksIfEmpty_marksInv (s : State) : MarksInv s.marksIfEmpty := by
  intro h
  rw [marksIfEmpty_waiting, ← anyWaiting_eq_false_iff] at h
  rw [marksIfEmpty_of_none h]
  exact ⟨fun c => by simp [Arbiter.clearMarks], rfl, rfl⟩

theorem marksInv_iff (s : State) : MarksInv s ↔
    (s.anyWaiting = false → ∀ m, Arbiter.marked s.arbiter m = false) := by
  unfold MarksInv
  rw [anyWaiting_eq_false_iff]
  constructor
  · intro h hw m
    obtain ⟨hmarks, h2, h3⟩ := h hw
    cases m
    · exact hmarks _
    · exact h2
    · exact h3
  · exact fun h hw => ⟨fun c => h hw (.channel c), h hw .c2, h hw .c3⟩

/-! ### The demand of an ended claim (R89) -/

/-- The request of a channel that loses a claim (R89). -/
def State.leftWaiting (s : State) (c : AnalogCh) (i : SlotIx) : Option ConvRequest :=
  match s.arbiter.waiting[c] with
  | none => none
  | some r =>
    let due := r.due.filter fun j => decide (j ≠ i)
    if (s.analogMembers c).isEmpty || due.isEmpty then none else some { r with due := due }

theorem dropDemand_waiting (s : State) (c : AnalogCh) (i : SlotIx) :
    (s.dropDemand c i).arbiter.waiting = s.arbiter.waiting.set c (s.leftWaiting c i) := by
  unfold State.dropDemand State.leftWaiting
  dsimp only
  refine (marksIfEmpty_waiting _).trans ?_
  cases s.arbiter.waiting[c] <;> rfl

/-- Settles O23, over the request that the channel is left with. -/
theorem endedDemandLeaves : Obligations.EndedDemandLeaves := by
  intro s ch i t
  have hwait := fun c : AnalogCh => (congrArg (fun v : Vector (Option ConvRequest) 12 => v[c]) (dropDemand_waiting s ch i)).trans
    (getElem_set_fin _ ch c _)
  have hself : t.arbiter.waiting[ch] = s.leftWaiting ch i := (hwait ch).trans (if_pos rfl)
  refine ⟨?_, fun c hc => (hwait c).trans (if_neg hc), fun hnone => ⟨?_, ?_⟩, fun hsome => ⟨fun hw => ?_, fun r hr => ?_⟩,
    ?_, ?_⟩
  · exact marksIfEmpty_eq _
  · rw [hself, State.leftWaiting]
    cases s.arbiter.waiting[ch] <;> simp [State.analogMembers, hnone]
  · have hmark : Arbiter.marked t.arbiter (.channel ch) = false := by
      refine marksIfEmpty_marked ?_
      simp [Arbiter.marked, State.analogMembers, hnone]
    exact hmark
  · rw [hself, State.leftWaiting, hw]
  · intro due
    have hne : (s.analogMembers ch).isEmpty = false := by simpa [State.analogMembers] using hsome
    rw [hself, State.leftWaiting, hr]
    simp only [hne, Bool.false_or, List.isEmpty_iff]
    rfl
  · exact marksIfEmpty_inFlight _
  · exact marksIfEmpty_marksInv _

/-! ### Visits and grants (R101 to R105) -/

@[simp] theorem setMark_waiting (a : Arbiter) (m : Member) (x : Bool) : (Arbiter.setMark a m x).waiting = a.waiting := by
  cases m <;> rfl

@[simp] theorem setMark_inFlight (a : Arbiter) (m : Member) (x : Bool) : (Arbiter.setMark a m x).inFlight = a.inFlight := by
  cases m <;> rfl

theorem setMark_marked (a : Arbiter) (m k : Member) (x : Bool) :
    Arbiter.marked (Arbiter.setMark a m x) k = if k = m then x else Arbiter.marked a k := by
  cases m <;> cases k <;> simp [Arbiter.marked, Arbiter.setMark]
  rename_i c d
  by_cases h : d = c
  · subst h
    simp
  · have : c.val ≠ d.val := fun e => h (Fin.ext e.symm)
    simp [h, Vector.getElem_set_ne, this]

theorem find?_of_first {α : Type} {p : α → Bool} {before after : List α} {m : α} (hm : p m = true)
    (hb : ∀ x ∈ before, p x = false) : (before ++ m :: after).find? p = some m := by
  rw [List.find?_append, List.find?_eq_none.mpr fun x hx => by simp [hb x hx], List.find?_cons_of_pos hm]
  rfl

/-- A visit takes the first requesting member that is unmarked, and marks it (R103). -/
theorem visit_unmarked {s : State} {n : Nat} {before after : List Member} {m : Member}
    (hl : s.levelList n = before ++ m :: after) (hr : s.requesting m = true) (hm : Arbiter.marked s.arbiter m = false)
    (hb : ∀ x ∈ before, s.requesting x = false ∨ Arbiter.marked s.arbiter x = true) :
    s.visit n = (some m, { s with arbiter := Arbiter.setMark s.arbiter m true }) := by
  have hpick : (s.levelList n).find? (fun m => s.requesting m && !Arbiter.marked s.arbiter m) = some m := by
    rw [hl]
    refine find?_of_first (by simp [hr, hm]) fun x hx => ?_
    rcases hb x hx with h | h <;> simp [h]
  simp [State.visit, hpick]

/-- Where every requesting member is marked, the list's marks are cleared first (R103). -/
theorem visit_marked {s : State} {n : Nat} {before after : List Member} {m : Member}
    (hl : s.levelList n = before ++ m :: after) (hr : s.requesting m = true)
    (hall : ∀ x ∈ s.levelList n, s.requesting x = true → Arbiter.marked s.arbiter x = true)
    (hb : ∀ x ∈ before, s.requesting x = false) :
    s.visit n = (some m, { s with
      arbiter := Arbiter.setMark ((s.levelList n).foldl (fun a x => Arbiter.setMark a x false) s.arbiter) m true }) := by
  have hpick : (s.levelList n).find? (fun m => s.requesting m && !Arbiter.marked s.arbiter m) = none := by
    refine List.find?_eq_none.mpr fun x hx => ?_
    cases hx' : s.requesting x with
    | false => simp
    | true => simp [hall x hx hx']
  have htaken : (s.levelList n).find? s.requesting = some m := by
    rw [hl]
    exact find?_of_first hr hb
  simp [State.visit, hpick, htaken]

/-- The grant of a channel's request (R95). -/
theorem grant_of_waiting {s : State} {c : AnalogCh} {r : ConvRequest} (h : s.arbiter.waiting[c] = some r) :
    s.grant c = State.marksIfEmpty { s with
      arbiter := { s.arbiter with
        waiting := s.arbiter.waiting.set c none
        inFlight := some ⟨c, r.moment, r.due, s.clock.stamp + BitVec.ofNat 32 (s.setup.windows[c] + 2)⟩ } } := by
  unfold State.grant
  simp only [h]

theorem grant_waiting {s : State} {c : AnalogCh} {r : ConvRequest} (h : s.arbiter.waiting[c] = some r) :
    (s.grant c).arbiter.waiting = s.arbiter.waiting.set c none := by
  rw [grant_of_waiting h, marksIfEmpty_waiting]

theorem grant_inFlight {s : State} {c : AnalogCh} {r : ConvRequest} (h : s.arbiter.waiting[c] = some r) :
    (s.grant c).arbiter.inFlight =
      some ⟨c, r.moment, r.due, s.clock.stamp + BitVec.ofNat 32 (s.setup.windows[c] + 2)⟩ := by
  rw [grant_of_waiting h, marksIfEmpty_inFlight]

theorem grant_marked_of_last {s : State} {c : AnalogCh} {r : ConvRequest} (h : s.arbiter.waiting[c] = some r)
    (hlast : ∀ c' : AnalogCh, c' ≠ c → s.arbiter.waiting[c'] = none) (m : Member) :
    Arbiter.marked (s.grant c).arbiter m = false := by
  have hinv : MarksInv (s.grant c) := by
    rw [grant_of_waiting h]
    exact marksIfEmpty_marksInv _
  refine (marksInv_iff _).mp hinv ((anyWaiting_eq_false_iff _).mpr fun c' => ?_) m
  rw [grant_waiting h, getElem_set_fin]
  split
  · rfl
  · rename_i hc
    exact hlast c' hc

/-! ### Levels (R100, R101) -/

/-- The channels of a level, those before a given one and those behind it. -/
theorem levelChannels_split {s : State} {c : AnalogCh} {n : Nat} (h : s.level c = some n) :
    ∃ before after, (allChannels.filter fun c => decide (s.level c = some n)) = before ++ c :: after ∧
      ∀ x ∈ before, x < c ∧ s.level x = some n := by
  have hmem : c ∈ allChannels.filter fun c => decide (s.level c = some n) := by simp [mem_allChannels, h]
  obtain ⟨before, after, he⟩ := List.append_of_mem hmem
  refine ⟨before, after, he, fun x hx => ⟨?_, ?_⟩⟩
  · have hp : (before ++ c :: after).Pairwise (· < ·) := he ▸ (List.pairwise_lt_finRange 12).filter _
    exact (List.pairwise_append.mp hp).2.2 x hx c List.mem_cons_self
  · have hx' : x ∈ allChannels.filter fun c => decide (s.level c = some n) := he ▸ List.mem_append_left _ hx
    simpa using (List.mem_filter.mp hx').2

theorem levelList_eq (s : State) :
    let atLevel := fun n => (allChannels.filter fun c => decide (s.level c = some n)).map Member.channel
    s.levelList 1 = atLevel 1 ++ [.c2] ∧ s.levelList 2 = atLevel 2 ++ [.c3] ∧ s.levelList 3 = atLevel 3 := by
  simp [State.levelList]

theorem level_congr {s t : State} (h : t.slots = s.slots) (c : AnalogCh) : t.level c = s.level c := by
  simp [State.level, State.memberField, State.analogMembers, State.members, State.slotsWhere_congr h,
    State.claim_congr h]

/-- The request that comes first in the plain order of levels and channels: it waits at its level, and every other
waits at a later level, or at its level on a later channel (R101). -/
structure First (s : State) (c : AnalogCh) (n : Nat) : Prop where
  waits : s.arbiter.waiting[c] ≠ none
  level : s.level c = some n
  least : ∀ c' : AnalogCh, s.arbiter.waiting[c'] ≠ none → ∃ n', s.level c' = some n' ∧ (n < n' ∨ (n = n' ∧ c ≤ c'))

theorem First.congr {s t : State} {c : AnalogCh} {n : Nat} (h : First s c n) (hs : t.slots = s.slots)
    (ha : t.arbiter.waiting = s.arbiter.waiting) : First t c n where
  waits := by rw [ha]; exact h.waits
  level := by rw [level_congr hs]; exact h.level
  least c' hc' := by
    rw [ha] at hc'
    rw [level_congr hs]
    exact h.least c' hc'

/-- Visiting the list of its level takes the first request, if its channel's mark is clear (R103). -/
theorem First.visit_channel {s : State} {c : AnalogCh} {n : Nat} (h : First s c n)
    (hm : Arbiter.marked s.arbiter (.channel c) = false) :
    s.visit n = (some (.channel c), { s with arbiter := Arbiter.setMark s.arbiter (.channel c) true }) := by
  obtain ⟨before, after, he, hb⟩ := levelChannels_split h.level
  have hl : s.levelList n = before.map Member.channel ++ .channel c :: (after.map Member.channel ++
      if n = 1 then [.c2] else if n = 2 then [.c3] else []) := by
    rw [State.levelList, he]
    simp
  refine visit_unmarked hl (Option.isSome_iff_ne_none.mpr h.waits) hm fun x hx => ?_
  obtain ⟨c', hc', rfl⟩ := List.mem_map.mp hx
  obtain ⟨hlt, hlevel⟩ := hb c' hc'
  refine .inl ?_
  by_contra hw
  obtain ⟨n', hn', hle⟩ := h.least c' (Option.isSome_iff_ne_none.mp (Bool.eq_true_of_not_eq_false hw))
  rw [hlevel] at hn'
  cases hn'
  rcases hle with hle | ⟨-, hle⟩
  · exact lt_irrefl _ hle
  · exact absurd hlt (not_lt.mpr hle)

/-- Visiting a list above its level takes that list's chit (R103). -/
theorem First.visit_chit {s : State} {c : AnalogCh} {n k : Nat} (h : First s c n) (hk : k < n) {m : Member}
    (hl : s.levelList k = (allChannels.filter fun c => decide (s.level c = some k)).map Member.channel ++ [m])
    (hr : s.requesting m = true) (hm : Arbiter.marked s.arbiter m = false) :
    s.visit k = (some m, { s with arbiter := Arbiter.setMark s.arbiter m true }) := by
  refine visit_unmarked hl hr hm fun x hx => ?_
  obtain ⟨c', hc', rfl⟩ := List.mem_map.mp hx
  have hlevel : s.level c' = some k := by simpa using (List.mem_filter.mp hc').2
  refine .inl ?_
  by_contra hw
  obtain ⟨n', hn', hle⟩ := h.least c' (Option.isSome_iff_ne_none.mp (Bool.eq_true_of_not_eq_false hw))
  rw [hlevel] at hn'
  cases hn'
  omega

theorem First.waitsAt {s : State} {c : AnalogCh} {n : Nat} (h : First s c n) : s.waitsAt n = true := by
  simp only [State.waitsAt, List.any_eq_true, Bool.and_eq_true, decide_eq_true_eq]
  exact ⟨c, mem_allChannels c, h.level, Option.isSome_iff_ne_none.mpr h.waits⟩

/-- From clear marks the decision grants the first request, on a state that differs in marks alone (R103). -/
theorem First.decideGrant {s : State} {c : AnalogCh} {n : Nat} (h : First s c n) (h1 : 1 ≤ n) (h3 : n ≤ 3)
    (hclear : ∀ m, Arbiter.marked s.arbiter m = false) :
    ∃ a : Arbiter, a.waiting = s.arbiter.waiting ∧ s.decideGrant = ({ s with arbiter := a } : State).grant c := by
  obtain ⟨hl1, hl2, hl3⟩ := levelList_eq s
  rcases (by omega : n = 1 ∨ n = 2 ∨ n = 3) with rfl | rfl | rfl
  · have hv := h.visit_channel (hclear _)
    exact ⟨_, setMark_waiting _ _ _, by
      simp only [State.decideGrant, hv, State.follow]
      rfl⟩
  · have hv1 := h.visit_chit (by omega : 1 < 2) hl1 (by simp [State.requesting, h.waitsAt]) (hclear _)
    generalize ht : ({ s with arbiter := Arbiter.setMark s.arbiter .c2 true } : State) = t at hv1
    have hft : First t c 2 := h.congr (by rw [← ht]) (by rw [← ht]; exact setMark_waiting _ _ _)
    have hv2 := hft.visit_channel (by rw [← ht]; simp [setMark_marked, hclear])
    refine ⟨Arbiter.setMark t.arbiter (.channel c) true, by rw [setMark_waiting, ← ht]; exact setMark_waiting _ _ _, ?_⟩
    simp only [State.decideGrant, hv1, State.follow, hv2]
    rw [← ht]
  · have hv1 := h.visit_chit (by omega : 1 < 3) hl1 (by simp [State.requesting, h.waitsAt]) (hclear _)
    generalize ht : ({ s with arbiter := Arbiter.setMark s.arbiter .c2 true } : State) = t at hv1
    have hft : First t c 3 := h.congr (by rw [← ht]) (by rw [← ht]; exact setMark_waiting _ _ _)
    have hv2 := hft.visit_chit (by omega : 2 < 3) (levelList_eq t).2.1 (by simp [State.requesting, hft.waitsAt])
      (by rw [← ht]; simp [setMark_marked, hclear])
    generalize hu : ({ t with arbiter := Arbiter.setMark t.arbiter .c3 true } : State) = u at hv2
    have hfu : First u c 3 := hft.congr (by rw [← hu]) (by rw [← hu]; exact setMark_waiting _ _ _)
    have hv3 := hfu.visit_channel (by rw [← hu, ← ht]; simp [setMark_marked, hclear])
    refine ⟨Arbiter.setMark u.arbiter (.channel c) true, by
      rw [setMark_waiting, ← hu]
      refine (setMark_waiting _ _ _).trans ?_
      rw [← ht]
      exact setMark_waiting _ _ _, ?_⟩
    simp only [State.decideGrant, hv1, State.follow, hv2, hv3]
    rw [← hu, ← ht]

/-- The decision follows the member that the visit of the level-1 list took. -/
theorem decideGrant_eq (s : State) : s.decideGrant = (s.visit 1).2.follow (s.visit 1).1 fun s1 =>
    (s1.visit 2).2.follow (s1.visit 2).1 fun s2 => (s2.visit 3).2.follow (s2.visit 3).1 id := rfl

theorem decideGrant_of_first {s : State} {c : AnalogCh} (h1 : (s.visit 1).1 = some (.channel c)) :
    s.decideGrant = (s.visit 1).2.grant c := by
  rw [decideGrant_eq, h1]
  rfl

theorem decideGrant_of_second {s : State} {c : AnalogCh} (h1 : (s.visit 1).1 = some .c2)
    (h2 : ((s.visit 1).2.visit 2).1 = some (.channel c)) : s.decideGrant = ((s.visit 1).2.visit 2).2.grant c := by
  rw [decideGrant_eq, h1]
  simp only [State.follow, h2]

theorem decideGrant_of_third {s : State} {c : AnalogCh} (h1 : (s.visit 1).1 = some .c2)
    (h2 : ((s.visit 1).2.visit 2).1 = some .c3)
    (h3 : (((s.visit 1).2.visit 2).2.visit 3).1 = some (.channel c)) :
    s.decideGrant = (((s.visit 1).2.visit 2).2.visit 3).2.grant c := by
  rw [decideGrant_eq, h1]
  simp only [State.follow, h2, h3]

/-- Settles O49. -/
theorem grantDecisionTakesMembers : Obligations.GrantDecisionTakesMembers := by
  intro s atLevel v1 v2 v3
  refine ⟨levelList_eq s, fun n before m after => visit_unmarked, fun n before m after => visit_marked,
    ⟨fun c hc => ?_, fun h1 => ⟨fun c hc => ?_, fun h2 c hc => ?_⟩⟩, fun c r hr => ⟨?_, grant_waiting hr, grant_inFlight hr,
      fun hother m => ?_, grant_marked_of_last hr⟩, fun c r n hr hn h1 h3 hclear hleast => ?_⟩
  · exact decideGrant_of_first hc
  · exact decideGrant_of_second h1 hc
  · exact decideGrant_of_third h1 h2 hc
  · rw [grant_of_waiting hr]
    unfold State.marksIfEmpty
    split <;> rfl
  · obtain ⟨c', hne, hw⟩ := hother
    rw [grant_of_waiting hr, marksIfEmpty_of_waiting]
    · cases m <;> rfl
    · exact (anyWaiting_iff _).mpr ⟨c', by simpa only [getElem_set_fin, if_neg hne] using hw⟩
  · have hfirst : First s c n := ⟨by simp [hr], hn, hleast⟩
    obtain ⟨a, ha, hdec⟩ := hfirst.decideGrant h1 h3 hclear
    have hr' : ({ s with arbiter := a } : State).arbiter.waiting[c] = some r := by simpa only [ha] using hr
    refine ⟨by rw [hdec, grant_inFlight hr'], fun c' => ?_, fun hlast m => ?_⟩
    · rw [hdec, grant_waiting hr']
      simp only [ha, getElem_set_fin]
    · rw [hdec]
      exact grant_marked_of_last hr' (fun c' hc' => by simpa only [ha] using hlast c' hc') m

end Sys2Proof.Machine
end

section
/-! SUPPORT and PROOFS. The merged demands of a resource's members, and the gate condition. -/

namespace Sys2Proof.Machine

/-! ### Due moments (R83) -/

theorem dueAt_iff (count : Count32) (k : Nat) : dueAt count k = true ↔ 2 ^ k ∣ count.toNat := by
  rw [dueAt, decide_eq_true_iff, Nat.dvd_iff_mod_eq_zero]

/-- The grid of a code is unbroken at the wrap of the count, since the code's step divides the count's range (R83). -/
theorem dueAt_add_step (count : Count32) {k : Nat} (hk : k ≤ 10) :
    dueAt (count + BitVec.ofNat 32 (2 ^ k)) k = dueAt count k := by
  have hdvd : 2 ^ k ∣ 2 ^ 32 := pow_dvd_pow 2 (by omega)
  have hlt : 2 ^ k < 2 ^ 32 := Nat.pow_lt_pow_right (by omega) (by omega)
  simp only [dueAt, BitVec.toNat_add, BitVec.toNat_ofNat, Nat.mod_eq_of_lt hlt]
  rw [Nat.mod_mod_of_dvd _ hdvd, Nat.add_mod_right]

/-! ### Analog members (R85, R100) -/

theorem analogBody?_eq_some_iff (c : Claim) (b : AnalogBody) :
    Claim.analogBody? c = some b ↔ ∃ r, c.payload = .asense b r := by
  unfold Claim.analogBody?
  cases c.payload <;> simp

theorem mem_memberField (s : State) (c : AnalogCh) (f : AnalogBody → Nat) (n : Nat) :
    n ∈ s.memberField c f ↔
      ∃ i cl b r, i ∈ s.members (.analog c) ∧ s.claim i = some cl ∧ cl.payload = .asense b r ∧ f b = n := by
  simp only [State.memberField, State.analogMembers, List.mem_filterMap, Option.map_eq_some_iff,
    Option.bind_eq_some_iff, analogBody?_eq_some_iff]
  constructor
  · rintro ⟨i, hi, b, ⟨cl, hcl, r, hp⟩, hf⟩
    exact ⟨i, cl, b, r, hi, hcl, hp, hf⟩
  · rintro ⟨i, cl, b, r, hi, hcl, hp, hf⟩
    exact ⟨i, hi, b, ⟨cl, hcl, r, hp⟩, hf⟩

theorem memberField_of_empty {s : State} {c : AnalogCh} (h : s.members (.analog c) = []) (f : AnalogBody → Nat) :
    s.memberField c f = [] := by
  simp [State.memberField, State.analogMembers, h]

/-- An analog channel's members hold analog bodies. -/
theorem payload_of_analogMember {s : State} (h : RangeInv s) {c : AnalogCh} {i : SlotIx}
    (hi : i ∈ s.members (.analog c)) :
    ∃ cl b r, s.claim i = some cl ∧ cl.payload = .asense b r ∧ (Body.asense b).inRange (.analog c) := by
  obtain ⟨cl, hcl, hr, -⟩ := (mem_members s _ i).mp hi
  obtain ⟨-, hb, -⟩ := h.claims i cl hcl
  rw [hr] at hb
  cases hp : cl.payload <;> rw [hp] at hb
  case asense b r => exact ⟨cl, b, r, hcl, hp, hb⟩
  all_goals exact hb.elim

/-- The merged demand of a channel with members is the least value among them (R85, R100). -/
theorem memberField_min {s : State} (h : RangeInv s) {c : AnalogCh} (hm : s.members (.analog c) ≠ [])
    (f : AnalogBody → Nat) :
    ∃ n, (s.memberField c f).min? = some n ∧
      (∃ i cl b r, i ∈ s.members (.analog c) ∧ s.claim i = some cl ∧ cl.payload = .asense b r ∧ f b = n) ∧
      ∀ i cl b r, i ∈ s.members (.analog c) → s.claim i = some cl → cl.payload = .asense b r → n ≤ f b := by
  obtain ⟨i, hi⟩ := List.exists_mem_of_ne_nil _ hm
  obtain ⟨cl, b, r, hcl, hp, -⟩ := payload_of_analogMember h hi
  have hmem : f b ∈ s.memberField c f := (mem_memberField ..).mpr ⟨i, cl, b, r, hi, hcl, hp, rfl⟩
  cases hmin : (s.memberField c f).min? with
  | none => rw [List.min?_eq_none_iff.mp hmin] at hmem; cases hmem
  | some n =>
    obtain ⟨hn, hle⟩ := List.min?_eq_some_iff.mp hmin
    exact ⟨n, rfl, (mem_memberField ..).mp hn, fun i cl b r hi hcl hp =>
      hle _ ((mem_memberField ..).mpr ⟨i, cl, b, r, hi, hcl, hp, rfl⟩)⟩

/-! ### The sensitivity of an edge input (R128) -/

theorem takes_union (x y : EdgeSel) (new : Level) : (x.union y).takes new = (x.takes new || y.takes new) := by
  cases x <;> cases y <;> cases new <;> rfl

theorem wantedEdges_eq_some_iff (c : Claim) (sel : EdgeSel) :
    Claim.wantedEdges c = some sel ↔ ∃ b r, c.payload = .esense b r ∧ b.mode ≠ .level ∧ b.edge = sel := by
  unfold Claim.wantedEdges Claim.edgeBody?
  cases c.payload <;> simp

/-- The fold of a sensitivity takes a level exactly if one of the merged edge fields does (R128). -/
theorem foldl_union_takes (new : Level) (sels : List EdgeSel) (acc : Option EdgeSel) :
    (sels.foldl (fun acc x => some (match acc with | none => x | some y => y.union x)) acc).any
        (fun sel => sel.takes new) =
      (acc.any (fun sel => sel.takes new) || sels.any fun sel => sel.takes new) := by
  induction sels generalizing acc with
  | nil => simp
  | cons x xs ih =>
    rw [List.foldl_cons, ih, List.any_cons, ← Bool.or_assoc]
    cases acc <;> simp [takes_union]

theorem sensitivity_takes_iff (s : State) (e : EdgeIn) (new : Level) :
    ((s.sensitivity e).any fun sel => sel.takes new) = true ↔
      ∃ i cl b r, i ∈ s.members (.edge e) ∧ s.claim i = some cl ∧ cl.payload = .esense b r ∧
        b.mode ≠ .level ∧ b.edge.takes new = true := by
  refine (Bool.eq_iff_iff.mp (foldl_union_takes new _ none)).trans ?_
  simp only [Option.any_none, Bool.false_or, List.any_eq_true, State.edgeMembers, List.mem_filterMap,
    Option.bind_eq_some_iff, wantedEdges_eq_some_iff]
  constructor
  · rintro ⟨sel, ⟨i, hi, cl, hcl, b, r, hp, hm, rfl⟩, ht⟩
    exact ⟨i, cl, b, r, hi, hcl, hp, hm, ht⟩
  · rintro ⟨i, cl, b, r, hi, hcl, hp, hm, ht⟩
    exact ⟨_, ⟨i, hi, cl, hcl, b, r, hp, hm, rfl⟩, ht⟩

/-! ### The period supplier (R35) -/

theorem supplier_eq_some_iff (s : State) (g : Gate) (i : SlotIx) (p : Nat) :
    s.supplier g = some (i, p) ↔ ∃ before after, s.gateList g = before ++ i :: after ∧
      s.offeredPeriod i = some p ∧ ∀ j ∈ before, s.offeredPeriod j = none := by
  simp only [State.supplier, List.findSome?_eq_some_iff, Option.map_eq_some_iff, Prod.mk.injEq,
    Option.map_eq_none_iff]
  constructor
  · rintro ⟨before, _, after, hl, ⟨_, hp, rfl, rfl⟩, hb⟩
    exact ⟨before, after, hl, hp, hb⟩
  · rintro ⟨before, after, hl, hp, hb⟩
    exact ⟨before, i, after, hl, ⟨p, hp, rfl, rfl⟩, hb⟩

theorem gateBody?_eq_some_iff (c : Claim) (b : GateBody) : Claim.gateBody? c = some b ↔ c.payload = .gate b := by
  unfold Claim.gateBody?
  cases c.payload <;> simp

/-- Settles O48. -/
theorem dueMomentsAndMergedDemands : Obligations.DueMomentsAndMergedDemands := by
  refine ⟨fun count k hk => ⟨dueAt_iff count k, fun j hj h => ?_, dueAt_add_step count hk, ?_⟩,
    fun s hs => ⟨fun c => ⟨fun h => ?_, fun h => ?_⟩, sensitivity_takes_iff s, supplier_eq_some_iff s⟩⟩
  · rw [dueAt_iff] at h ⊢
    exact (pow_dvd_pow 2 hj).trans h
  · simp [dueAt]
  · constructor
    · rw [State.dueInterval, memberField_of_empty h, List.min?_nil]
    · rw [State.level, memberField_of_empty h, List.min?_nil]
  · obtain ⟨k, hk, hkmem, hkle⟩ := memberField_min hs h AnalogBody.interval
    obtain ⟨u, hu, humem, hule⟩ := memberField_min hs h AnalogBody.urgency
    exact ⟨k, u, hk, hu, hkmem, humem, fun i cl b r hi hcl hp =>
      ⟨hkle i cl b r hi hcl hp, hule i cl b r hi hcl hp⟩⟩

/-! ### The votes of a gate (R41, R49) -/

theorem mem_gateBodies (s : State) (g : Gate) (b : GateBody) :
    b ∈ s.gateBodies g ↔ ∃ i ∈ s.gateList g, ∃ c, s.claim i = some c ∧ c.payload = .gate b := by
  simp only [State.gateBodies, List.mem_filterMap, Option.bind_eq_some_iff, gateBody?_eq_some_iff]

/-- A property of some vote of the gate, over the entries of its list. -/
theorem exists_gateBody_iff (s : State) (g : Gate) (p : GateBody → Prop) :
    (∃ b ∈ s.gateBodies g, p b) ↔ ∃ i ∈ s.gateList g, ∃ c b, s.claim i = some c ∧ c.payload = .gate b ∧ p b := by
  simp only [mem_gateBodies]
  constructor
  · rintro ⟨b, ⟨i, hi, c, hc, hb⟩, hp⟩
    exact ⟨i, hi, c, b, hc, hb, hp⟩
  · rintro ⟨i, hi, c, b, hc, hb, hp⟩
    exact ⟨b, ⟨i, hi, c, hc, hb⟩, hp⟩

theorem openCondition_iff (s : State) (g : Gate) : s.openCondition g = true ↔ (s.gates.get g).holds = [] ∧
    (¬∃ b ∈ s.gateBodies g, b.vote = .votesClosed) ∧ ∃ b ∈ s.gateBodies g, b.vote = .votesOpen := by
  simp [State.openCondition, and_assoc]

theorem closeFor_iff (s : State) (g : Gate) : s.closeFor g = .brake ↔
    (∃ b ∈ s.gateBodies g, b.vote = .votesClosed ∧ b.close = .brake) ∨
      ∃ h ∈ (s.gates.get g).holds, h.pattern = .brake := by
  unfold State.closeFor
  split <;> simp_all

/-- A gate whose open condition holds has a supplier: the first of its OPEN votes (R35, R41). -/
theorem supplier_of_openCondition {s : State} {g : Gate} (h : s.openCondition g = true) :
    ∃ i p, s.supplier g = some (i, p) := by
  obtain ⟨-, -, hvote⟩ := (openCondition_iff s g).mp h
  obtain ⟨i, hi, c, b, hc, hb, hv⟩ := (exists_gateBody_iff s g _).mp hvote
  have hoff : s.offeredPeriod i = some b.period := by
    simp [State.offeredPeriod, hc, (gateBody?_eq_some_iff c b).mpr hb, hv]
  have hsome : (s.supplier g).isSome := List.findSome?_isSome_iff.mpr ⟨i, hi, by simp [hoff]⟩
  obtain ⟨⟨j, p⟩, hj⟩ := Option.isSome_iff_exists.mp hsome
  exact ⟨j, p, hj⟩

/-! ### A gate whose open state does not change (R48, R50) -/

theorem evalGate_of_steadyOpen {s : State} {g : Gate} (ho : s.gateIsOpen g = true) (hc : s.openCondition g = true) :
    s.evalGate g = s.stagePeriod g := by simp [State.evalGate, ho, hc]

theorem evalGate_of_steadyClosed {s : State} {g : Gate} (ho : s.gateIsOpen g = false)
    (hc : s.openCondition g = false) : s.evalGate g = s.rePattern g := by simp [State.evalGate, ho, hc]

theorem rePattern_frame (s : State) (g : Gate) :
    s.rePattern g = { s with gates := (s.rePattern g).gates, drives := (s.rePattern g).drives } := by cases g <;> rfl

/-- Settles O28. -/
theorem gateConditionAndSteadyGate : Obligations.GateConditionAndSteadyGate := by
  refine ⟨fun s g => ⟨?_, ?_⟩, fun s g hsteady => ⟨fun g' hg' => s.evalGate_other g g' hg', fun ho => ?_, fun ho => ?_⟩⟩
  · simpa only [exists_gateBody_iff, and_true] using openCondition_iff s g
  · simpa only [exists_gateBody_iff, and_true, and_assoc] using closeFor_iff s g
  · have hc : s.openCondition g = true := hsteady ▸ ho
    obtain ⟨i, p, hp⟩ := supplier_of_openCondition hc
    rw [evalGate_of_steadyOpen ho hc]
    refine ⟨rfl, i, p, hp, ?_⟩
    rw [State.stagePeriod_gates, PerGate.get_set_self, hp, State.openCondition_close _ _ hc]
    simp only [Option.map_some, eq_comm]
  · have hc : s.openCondition g = false := hsteady ▸ ho
    rw [evalGate_of_steadyClosed ho hc]
    exact ⟨rePattern_frame s g, by rw [State.rePattern_gates, PerGate.get_set_self], s.rePattern_drive g⟩

end Sys2Proof.Machine
end

section
/-! SUPPORT and PROOFS. The Claim Table's operations by their slots and notice sets: a posting, the end of a course and
the change of a drive channel's list. -/

namespace Sys2Proof.Machine

/-! ### States by their fields -/

/-- Two states whose fields are equal one by one. -/
theorem State.eq_of_fields {s t : State} (hpending : s.pending = t.pending) (hdraws : s.draws = t.draws)
    (hreset : s.resetHeld = t.resetHeld) (hclock : s.clock = t.clock) (hsetup : s.setup = t.setup)
    (hslots : s.slots = t.slots) (hdriveLists : s.driveLists = t.driveLists) (hgateLists : s.gateLists = t.gateLists)
    (hnotices : s.notices = t.notices) (hgates : s.gates = t.gates) (hdrives : s.drives = t.drives)
    (harbiter : s.arbiter = t.arbiter) (hinputs : s.inputs = t.inputs) (htrips : s.trips = t.trips)
    (hports : s.ports = t.ports) : s = t := by
  cases s
  cases t
  simp_all

/-! ### A posting (R19) -/

theorem barred_eq (s : State) (l : Link) : s.barred l = (s.ports.get l).barred := rfl

theorem noticeLink_of_live {s : State} {i : SlotIx} {c : Claim} (hc : s.claim i = some c) (hs : c.state ≠ .spent)
    (k : NoticeKind) :
    s.noticeLink k i = if s.barred c.owner = true ∨ (k = .sample ∧ c.wantsSample = false) then none
      else some c.owner := by
  simp [State.noticeLink, hc, hs]

/-- A posting that is discarded. -/
theorem post_of_noLink {s : State} {k : NoticeKind} {i : SlotIx} (h : s.noticeLink k i = none) : s.post k i = s := by
  unfold State.post
  rw [h]

theorem post_notices_of_link {s : State} {k : NoticeKind} {i : SlotIx} {l : Link} (h : s.noticeLink k i = some l) :
    (s.post k i).notices = s.notices.set l (mergeNotice k i (s.notices.get l)) := by
  unfold State.post
  rw [h]

theorem post_notices_congr {s t : State} {k : NoticeKind} {i : SlotIx} (hn : t.notices = s.notices)
    (hl : t.noticeLink k i = s.noticeLink k i) : (t.post k i).notices = (s.post k i).notices := by
  unfold State.post
  rw [hl, hn]

@[simp] theorem post_noticeLink (s : State) (k k' : NoticeKind) (i j : SlotIx) :
    (s.post k i).noticeLink k' j = s.noticeLink k' j := rfl

theorem has_or_of_has {e : NoticeEntry} {r : NoticeKind} (k : NoticeKind) (h : e.has r = true) :
    ({ e with kinds := e.kinds ||| k.bit } : NoticeEntry).has r = true := by
  simp only [NoticeEntry.has, decide_eq_true_eq, ne_eq] at h ⊢
  rw [BitVec.and_or_distrib_right]
  exact fun hzero => h (BitVec.or_eq_zero_iff.mp hzero).1

theorem has_of_kind (i : SlotIx) (kinds : BitVec 16) (k : NoticeKind) :
    (⟨i, kinds ||| k.bit⟩ : NoticeEntry).has k = true := by
  have hbit : k.bit ≠ 0#16 := by cases k <;> decide
  simp only [NoticeEntry.has, decide_eq_true_eq, ne_eq, BitVec.and_or_distrib_right, BitVec.and_self]
  exact fun hzero => hbit (BitVec.or_eq_zero_iff.mp hzero).2

/-- After a merge the set holds the kind for the slot. -/
theorem exists_mem_mergeNotice (k : NoticeKind) (i : SlotIx) (l : List NoticeEntry) :
    ∃ e ∈ mergeNotice k i l, e.slot = i ∧ e.has k = true := by
  have hsingle : (⟨i, k.bit⟩ : NoticeEntry).has k = true := by simpa using has_of_kind i 0#16 k
  induction l with
  | nil => exact ⟨_, List.mem_singleton_self _, rfl, hsingle⟩
  | cons x xs ih =>
    unfold mergeNotice
    split
    · rename_i hx
      exact ⟨_, List.mem_cons_self, hx, has_of_kind _ _ k⟩
    · split
      · exact ⟨_, List.mem_cons_self, rfl, hsingle⟩
      · obtain ⟨e, he, hs, hk⟩ := ih
        exact ⟨e, List.mem_cons_of_mem _ he, hs, hk⟩

/-- A kind that the set holds for a slot is held after a merge. -/
theorem mem_mergeNotice_of_has {k r : NoticeKind} {i : SlotIx} {e : NoticeEntry} (hr : e.has r = true) :
    ∀ {l : List NoticeEntry}, e ∈ l → ∃ x ∈ mergeNotice k i l, x.slot = e.slot ∧ x.has r = true
  | x :: xs, he => by
    unfold mergeNotice
    split
    · rcases List.mem_cons.mp he with rfl | he
      · exact ⟨_, List.mem_cons_self, rfl, has_or_of_has k hr⟩
      · exact ⟨e, List.mem_cons_of_mem _ he, rfl, hr⟩
    · split
      · exact ⟨e, List.mem_cons_of_mem _ he, rfl, hr⟩
      · rcases List.mem_cons.mp he with rfl | he
        · exact ⟨e, List.mem_cons_self, rfl, hr⟩
        · obtain ⟨y, hy, hs, hk⟩ := mem_mergeNotice_of_has (k := k) (i := i) hr he
          exact ⟨y, List.mem_cons_of_mem _ hy, hs, hk⟩

theorem mem_mergeNotice_of_new {k : NoticeKind} {i : SlotIx} :
    ∀ {l : List NoticeEntry}, (∀ e ∈ l, e.slot ≠ i) → ⟨i, k.bit⟩ ∈ mergeNotice k i l
  | [], _ => List.mem_singleton_self _
  | x :: xs, h => by
    unfold mergeNotice
    rw [if_neg (h x List.mem_cons_self)]
    split
    · exact List.mem_cons_self
    · exact List.mem_cons_of_mem _ (mem_mergeNotice_of_new fun e he => h e (List.mem_cons_of_mem _ he))

theorem mem_mergeNotice_of_present {k : NoticeKind} {i : SlotIx} {e : NoticeEntry} (hi : e.slot = i) :
    ∀ {l : List NoticeEntry}, l.Pairwise (fun x y => x.slot < y.slot) → e ∈ l →
      ⟨i, e.kinds ||| k.bit⟩ ∈ mergeNotice k i l
  | x :: xs, hs, he => by
    obtain ⟨hlt, hs⟩ := List.pairwise_cons.mp hs
    unfold mergeNotice
    rcases List.mem_cons.mp he with rfl | he
    · rw [if_pos hi, hi]
      exact List.mem_cons_self
    · have hx : x.slot < i := hi ▸ hlt e he
      rw [if_neg (ne_of_lt hx), if_neg (not_lt.mpr (le_of_lt hx))]
      exact List.mem_cons_of_mem _ (mem_mergeNotice_of_present hi hs he)

theorem noticed_congr {s t : State} (h : t.notices = s.notices) (l : Link) (k : NoticeKind) (i : SlotIx) :
    t.noticed l k i ↔ s.noticed l k i := by
  simp only [State.noticed, h]

/-- A posting to a live claim of a link that is not barred stands in its set; SAMPLE needs the wish for it (R19). -/
theorem post_noticed {s : State} {k : NoticeKind} {i : SlotIx} {c : Claim} (hc : s.claim i = some c)
    (hs : c.state ≠ .spent) (hb : s.barred c.owner = false) (hk : k ≠ .sample) : (s.post k i).noticed c.owner k i := by
  have hl : s.noticeLink k i = some c.owner := by simp [noticeLink_of_live hc hs, hb, hk]
  unfold State.noticed
  rw [post_notices_of_link hl, PerLink.get_set_self]
  exact exists_mem_mergeNotice k i _

/-- A notice that stands is not lost at a posting. -/
theorem noticed_post {s : State} {l : Link} {k : NoticeKind} {i : SlotIx} (h : s.noticed l k i) (k' : NoticeKind)
    (j : SlotIx) : (s.post k' j).noticed l k i := by
  cases hl : s.noticeLink k' j with
  | none => rwa [post_of_noLink hl]
  | some m =>
    unfold State.noticed
    rw [post_notices_of_link hl, PerLink.get_set]
    split
    · rename_i hm
      subst hm
      obtain ⟨e, he, rfl, hk⟩ := h
      exact mem_mergeNotice_of_has hk he
    · exact h

/-- Settles O25. -/
theorem postingMergesIntoOwnersSet : Obligations.PostingMergesIntoOwnersSet := by
  intro s k i c htable hc t discarded
  refine ⟨fun h => post_of_noLink ?_, fun h => ?_⟩
  · unfold State.noticeLink
    rw [hc]
    exact if_pos h
  · have hlink : s.noticeLink k i = some c.owner := by
      unfold State.noticeLink
      rw [hc]
      exact if_neg h
    have hset : t.notices.get c.owner = mergeNotice k i (s.notices.get c.owner) := by
      rw [post_notices_of_link hlink, PerLink.get_set_self]
    refine ⟨rfl, fun l hl => ?_, fun e he => ?_, fun e he hi => ?_, fun hnew => ?_, ?_, fun hr => ?_⟩
    · rw [post_notices_of_link hlink, PerLink.get_set, if_neg hl]
    · rw [hset]
      exact mem_mergeNotice_of_ne k i e he _
    · rw [hset]
      exact mem_mergeNotice_of_present hi (htable.sorted _) he
    · rw [hset]
      exact mem_mergeNotice_of_new hnew
    · rw [hset]
      exact mergeNotice_sorted k i _ (htable.sorted _)
    · obtain ⟨e, he, -, -⟩ := exists_mem_mergeNotice k i (s.notices.get c.owner)
      have hne : t.notices.get c.owner ≠ [] := hset ▸ List.ne_nil_of_mem he
      have hheld : t.resetHeld = false := hr
      simp [State.alertLow, hheld, hne]

/-! ### Slots with their claim changed -/

/-- A slot with its claim changed, if it holds one. -/
def Slot.mapClaim (f : Claim → Claim) (x : Slot) : Slot := ⟨x.gen, x.claim.map f⟩

@[simp] theorem mapClaim_gen (f : Claim → Claim) (x : Slot) : (Slot.mapClaim f x).gen = x.gen := rfl

@[simp] theorem mapClaim_claim (f : Claim → Claim) (x : Slot) : (Slot.mapClaim f x).claim = x.claim.map f := rfl

theorem updClaim_slot_mapClaim (s : State) (i j : SlotIx) (f : Claim → Claim) :
    (s.updClaim i f).slots[j] = if j = i then Slot.mapClaim f s.slots[j] else s.slots[j] := by
  rw [State.updClaim_slot]
  split
  · rename_i h
    subst h
    rfl
  · rfl

theorem claim_of_slot {s : State} {i : SlotIx} {x : Slot} (h : s.slots[i] = x) : s.claim i = x.claim :=
  congrArg Slot.claim h

/-! ### The end of a course (R18, R3) -/

/-- A slot whose claim has come to the end of its course: SPENT, or FREE for a barred owner. -/
def Slot.finished (barred : Link → Bool) (x : Slot) : Slot :=
  match x.claim with
  | none => x
  | some c =>
    if barred c.owner then ⟨x.gen + 1, none⟩ else ⟨x.gen, some { c with state := .spent, deadline := none }⟩

theorem finished_of_some {barred : Link → Bool} {x : Slot} {c : Claim} (h : x.claim = some c) :
    Slot.finished barred x = if barred c.owner = true then ⟨x.gen + 1, none⟩
      else ⟨x.gen, some { c with state := .spent, deadline := none }⟩ := by
  unfold Slot.finished
  rw [h]

theorem finish_of_none {s : State} {i : SlotIx} (hc : s.claim i = none) : s.finish i = s := by
  unfold State.finish
  rw [hc]

theorem finish_of_barred {s : State} {i : SlotIx} {c : Claim} (hc : s.claim i = some c)
    (hb : s.barred c.owner = true) : s.finish i = s.freeSlot i := by
  unfold State.finish
  rw [hc]
  exact if_pos hb

theorem finish_of_notBarred {s : State} {i : SlotIx} {c : Claim} (hc : s.claim i = some c)
    (hb : s.barred c.owner = false) : s.finish i =
      (s.post (finalKind c.endCause) i).updClaim i fun c => { c with state := .spent, deadline := none } := by
  unfold State.finish
  rw [hc]
  exact if_neg (by simp [hb])

theorem finish_slot (s : State) (i j : SlotIx) :
    (s.finish i).slots[j] = if j = i then Slot.finished s.barred s.slots[j] else s.slots[j] := by
  cases hc : s.claim i with
  | none =>
    rw [finish_of_none hc]
    split
    · rename_i h
      subst h
      rw [State.claim_def] at hc
      rw [Slot.finished, hc]
    · rfl
  | some c =>
    cases hb : s.barred c.owner with
    | true =>
      rw [finish_of_barred hc hb, State.freeSlot_slot]
      refine ite_congr rfl (fun h => ?_) fun _ => rfl
      subst h
      rw [finished_of_some hc, if_pos hb]
    | false =>
      rw [finish_of_notBarred hc hb, State.updClaim_slot, State.post_slots]
      refine ite_congr rfl (fun h => ?_) fun _ => rfl
      subst h
      rw [finished_of_some hc, if_neg (by simp [hb]), State.post_claim, hc]
      rfl

theorem finish_claim_of_ne (s : State) {i j : SlotIx} (h : j ≠ i) : (s.finish i).claim j = s.claim j := by
  rw [State.claim_def, finish_slot, if_neg h]
  rfl

theorem finish_frame (s : State) (i : SlotIx) :
    s.finish i = { s with slots := (s.finish i).slots, notices := (s.finish i).notices } := by
  apply State.eq_of_fields <;> simp

/-! ### A drive channel's list, settled (R26) -/

/-- A claim at the front of its list: as it was while RETIRING, and else by the gate (R26). -/
def Claim.asHead (isOpen : Bool) (c : Claim) : Claim :=
  if c.state = .retiring then c else { c with state := if isOpen = true then .inForce else .suspended }

/-- A claim behind the head of its list (R26). -/
def Claim.behindHead (c : Claim) : Claim := { c with state := .standby }

theorem mapClaim_behindHead_mapClaim (x : Slot) :
    Slot.mapClaim Claim.behindHead (Slot.mapClaim Claim.behindHead x) = Slot.mapClaim Claim.behindHead x := by
  rcases x with ⟨g, _ | c⟩ <;> rfl

theorem foldl_standby_slot (l : List SlotIx) (s : State) (j : SlotIx) :
    (l.foldl (fun s i => s.updClaim i Claim.behindHead) s).slots[j] =
      if j ∈ l then Slot.mapClaim Claim.behindHead s.slots[j] else s.slots[j] := by
  induction l generalizing s with
  | nil => simp
  | cons a l ih =>
    rw [List.foldl_cons, ih, updClaim_slot_mapClaim]
    by_cases h1 : j = a
    · by_cases h2 : j ∈ l
      · rw [if_pos h1, if_pos h2, if_pos (List.mem_cons_of_mem _ h2), mapClaim_behindHead_mapClaim]
      · rw [if_pos h1, if_neg h2, if_pos (h1 ▸ List.mem_cons_self)]
    · simp only [List.mem_cons, h1, false_or, if_false]

/-- A slot of a settled list. -/
def Slot.settled (isOpen : Bool) (l : List SlotIx) (j : SlotIx) (x : Slot) : Slot :=
  if l.head? = some j then Slot.mapClaim (Claim.asHead isOpen) x
  else if j ∈ l then Slot.mapClaim Claim.behindHead x else x

theorem settle_slot {s : State} {d : Drive} (hn : (s.driveList d).Nodup) (j : SlotIx) :
    (s.settle d).slots[j] = Slot.settled (s.gateIsOpen d.parent) (s.driveList d) j s.slots[j] := by
  unfold State.settle Slot.settled
  cases hl : s.driveList d with
  | nil => simp
  | cons h t =>
    obtain ⟨hh, -⟩ := List.nodup_cons.mp (hl ▸ hn)
    have hfold := foldl_standby_slot t s
    unfold Claim.behindHead at hfold
    dsimp only
    rw [updClaim_slot_mapClaim, hfold]
    simp only [List.head?_cons, Option.some.injEq, List.mem_cons]
    by_cases hj : j = h
    · subst hj
      rw [if_pos rfl, if_pos rfl, if_neg hh]
      rfl
    · rw [if_neg hj, if_neg (Ne.symm hj)]
      simp only [hj, false_or]
      rfl

theorem changeList_slot (s : State) (d : Drive) (old : Option SlotIx) {l : List SlotIx} (hn : l.Nodup) (j : SlotIx) :
    (s.changeList d old l).slots[j] = Slot.settled (s.gateIsOpen d.parent) l j s.slots[j] := by
  have hlist : ({ s with driveLists := s.driveLists.set d l } : State).driveList d = l := PerDrive.get_set_self _ _ _
  have h := settle_slot (s := { s with driveLists := s.driveLists.set d l }) (d := d) (hlist.symm ▸ hn) j
  rw [hlist] at h
  unfold State.changeList
  rw [State.announce_slots]
  exact h

theorem settled_claim_head {isOpen : Bool} {l : List SlotIx} {j : SlotIx} (h : l.head? = some j) (x : Slot) :
    Slot.settled isOpen l j x = Slot.mapClaim (Claim.asHead isOpen) x := if_pos h

theorem settled_claim_behind {isOpen : Bool} {h j : SlotIx} {t : List SlotIx} (hn : (h :: t).Nodup) (hj : j ∈ t)
    (x : Slot) : Slot.settled isOpen (h :: t) j x = Slot.mapClaim Claim.behindHead x := by
  have hne : h ≠ j := fun e => (List.nodup_cons.mp hn).1 (e ▸ hj)
  simp [Slot.settled, hne, hj]

theorem settled_of_not_mem {isOpen : Bool} {l : List SlotIx} {j : SlotIx} (hj : j ∉ l) (x : Slot) :
    Slot.settled isOpen l j x = x := by
  have hh : l.head? ≠ some j := fun e => hj (List.mem_of_mem_head? e)
  simp [Slot.settled, hh, hj]

theorem changeList_claim_head (s : State) (d : Drive) (old : Option SlotIx) {h : SlotIx} {t : List SlotIx}
    (hn : (h :: t).Nodup) :
    (s.changeList d old (h :: t)).claim h = (s.claim h).map (Claim.asHead (s.gateIsOpen d.parent)) := by
  rw [State.claim_def, changeList_slot s d old hn, settled_claim_head rfl]
  rfl

theorem changeList_claim_behind (s : State) (d : Drive) (old : Option SlotIx) {h j : SlotIx} {t : List SlotIx}
    (hn : (h :: t).Nodup) (hj : j ∈ t) :
    (s.changeList d old (h :: t)).claim j = (s.claim j).map Claim.behindHead := by
  rw [State.claim_def, changeList_slot s d old hn, settled_claim_behind hn hj]
  rfl

theorem changeList_slot_of_not_mem (s : State) (d : Drive) (old : Option SlotIx) {l : List SlotIx} (hn : l.Nodup)
    {j : SlotIx} (hj : j ∉ l) : (s.changeList d old l).slots[j] = s.slots[j] := by
  rw [changeList_slot s d old hn, settled_of_not_mem hj]

theorem changeList_driveLists (s : State) (d : Drive) (old : Option SlotIx) (l : List SlotIx) :
    (s.changeList d old l).driveLists = s.driveLists.set d l := by
  simp [State.changeList]

theorem changeList_driveList (s : State) (d e : Drive) (old : Option SlotIx) (l : List SlotIx) :
    (s.changeList d old l).driveList e = if e = d then l else s.driveList e := by
  unfold State.driveList
  rw [changeList_driveLists, PerDrive.get_set]

theorem changeList_frame (s : State) (d : Drive) (old : Option SlotIx) (l : List SlotIx) :
    s.changeList d old l = { s with
      slots := (s.changeList d old l).slots, driveLists := s.driveLists.set d l
      notices := (s.changeList d old l).notices } := by
  apply State.eq_of_fields <;> simp [changeList_driveLists]

/-! ### The postings of a change (R28) -/

/-- The postings of a change from the head `old` to the list `l`, made to the claims as they stood before it. -/
def State.posted (s : State) (old : Option SlotIx) (l : List SlotIx) : State :=
  let taken := match l.head? with
    | none => s
    | some h => s.post .taken h
  if l.head? = old then s
  else match old with
    | none => taken
    | some o => if o ∈ l then taken.post .outranked o else taken

theorem posted_of_same {s : State} {old : Option SlotIx} {l : List SlotIx} (h : l.head? = old) : s.posted old l = s :=
  if_pos h

theorem posted_of_none {s : State} {l : List SlotIx} {h : SlotIx} (hh : l.head? = some h) :
    s.posted none l = s.post .taken h := by
  simp [State.posted, hh]

/-- Settling an entry that has not ended leaves the link to which its notices go. -/
theorem settled_noticeLink {s t : State} {isOpen : Bool} {l : List SlotIx} {j : SlotIx} {c : Claim}
    (hports : t.ports = s.ports) (hslot : t.slots[j] = Slot.settled isOpen l j s.slots[j]) (hc : s.claim j = some c)
    (hs : c.state ≠ .spent) (k : NoticeKind) : t.noticeLink k j = s.noticeLink k j := by
  have ht : ∃ c', t.claim j = some c' ∧ c'.state ≠ .spent ∧ c'.owner = c.owner ∧ c'.wantsSample = c.wantsSample := by
    rw [claim_of_slot hslot]
    rw [State.claim_def] at hc
    unfold Slot.settled
    split
    · refine ⟨Claim.asHead isOpen c, by rw [mapClaim_claim, hc]; rfl, ?_⟩
      unfold Claim.asHead
      cases isOpen <;> split <;> simp_all
    · split
      · exact ⟨Claim.behindHead c, by rw [mapClaim_claim, hc]; rfl, by simp [Claim.behindHead], rfl, rfl⟩
      · exact ⟨c, hc, hs, rfl, rfl⟩
  obtain ⟨c', hc', hs', ho, hw⟩ := ht
  rw [noticeLink_of_live hc hs, noticeLink_of_live hc' hs', barred_eq, barred_eq, hports, ho, hw]

theorem changeList_notices (s : State) (d : Drive) (old : Option SlotIx) {l : List SlotIx} (hn : l.Nodup)
    (hl : ∀ j ∈ l, ∃ c, s.claim j = some c ∧ c.state ≠ .spent) :
    (s.changeList d old l).notices = (s.posted old l).notices := by
  generalize ht : ({ s with driveLists := s.driveLists.set d l } : State).settle d = t
  have hnotices : t.notices = s.notices := by rw [← ht, State.settle_notices]
  have hlist : t.driveList d = l := by
    rw [← ht, State.driveList, State.settle_driveLists]
    exact PerDrive.get_set_self _ _ _
  have hlink : ∀ j ∈ l, ∀ k, t.noticeLink k j = s.noticeLink k j := by
    intro j hj k
    obtain ⟨c, hc, hs⟩ := hl j hj
    refine settled_noticeLink (isOpen := s.gateIsOpen d.parent) (l := l) (by rw [← ht, State.settle_ports]) ?_ hc hs k
    have hset := changeList_slot s d old hn j
    unfold State.changeList at hset
    rwa [State.announce_slots, ht] at hset
  have htaken : ∀ {h : SlotIx}, l.head? = some h → (t.post .taken h).notices = (s.post .taken h).notices :=
    fun hh => post_notices_congr hnotices (hlink _ (List.mem_of_mem_head? hh) _)
  unfold State.changeList State.announce State.posted State.head
  rw [ht, hlist]
  dsimp only
  split
  · exact hnotices
  · cases hh : l.head? with
    | none =>
      cases old with
      | none => exact hnotices
      | some o =>
        dsimp only
        split
        · rename_i ho
          exact post_notices_congr hnotices (hlink o ho _)
        · exact hnotices
    | some h =>
      cases old with
      | none => exact htaken hh
      | some o =>
        dsimp only
        split
        · rename_i ho
          exact post_notices_congr (htaken hh) (hlink o ho _)
        · exact htaken hh

/-- Settles O26. -/
theorem listChangeSettlesAndPosts : Obligations.ListChangeSettlesAndPosts := by
  intro s d old l hn hl t taken
  have hnotices := changeList_notices s d old hn hl
  refine ⟨changeList_frame s d old l, ?_, fun e he => ?_, fun j hj => changeList_slot_of_not_mem s d old hn hj,
    fun h tl c hcons hc => ?_, fun h tl hcons j hj c hc => ?_, fun hold => ?_, fun hold => ⟨fun hout => ?_, ?_⟩⟩
  · rw [changeList_driveList, if_pos rfl]
  · rw [changeList_driveList, if_neg he]
  · subst hcons
    rw [changeList_claim_head s d old hn, hc]
    rfl
  · subst hcons
    rw [changeList_claim_behind s d old hn hj, hc]
    rfl
  · rw [hnotices, posted_of_same hold]
  · rw [hnotices]
    refine congrArg State.notices ((if_neg hold).trans ?_)
    cases old with
    | none => rfl
    | some o => exact if_neg (hout o rfl)
  · intro o ho hmem
    subst ho
    rw [hnotices]
    exact congrArg State.notices ((if_neg hold).trans (if_pos hmem))

end Sys2Proof.Machine
end

section
/-! SUPPORT and PROOFS. A claim joins its drive channel's list. -/

namespace Sys2Proof.Machine

/-! ### Postings and claims of a list change -/

theorem ne_spent_of_listed {st : ClaimState} (h : st.listed = true) : st ≠ .spent := by
  rintro rfl
  cases h

theorem posted_noticesKept (s : State) (old : Option SlotIx) (l : List SlotIx) :
    s.NoticesKept (s.posted old l) fun j => old = some j ∨ l.head? = some j := by
  unfold State.posted
  have htaken : s.NoticesKept (match l.head? with | none => s | some h => s.post .taken h)
      fun j => old = some j ∨ l.head? = some j := by
    split
    · exact .refl s _
    · rename_i h hh
      exact (s.post_noticesKept _ h).mono fun j hj => .inr (hj ▸ hh)
  dsimp only
  split
  · exact .refl s _
  · cases old with
    | none => exact htaken
    | some o =>
      dsimp only
      split
      · exact htaken.trans ((State.post_noticesKept _ _ o).mono fun j hj => .inl (by rw [hj]))
      · exact htaken

theorem announce_noticed {s : State} {m : Link} {k : NoticeKind} {i : SlotIx} (h : s.noticed m k i) (d : Drive)
    (old : Option SlotIx) : (s.announce d old).noticed m k i := by
  unfold State.announce
  have htaken : (match s.head d with | none => s | some h => s.post .taken h).noticed m k i := by
    split
    · exact h
    · exact noticed_post h _ _
  dsimp only
  split
  · exact h
  · cases old with
    | none => exact htaken
    | some o =>
      dsimp only
      split
      · exact noticed_post htaken _ _
      · exact htaken

/-- A notice that stands is not lost at a list change. -/
theorem changeList_noticed {s : State} {m : Link} {k : NoticeKind} {i : SlotIx} (h : s.noticed m k i) (d : Drive)
    (old : Option SlotIx) (l : List SlotIx) : (s.changeList d old l).noticed m k i :=
  announce_noticed ((noticed_congr (State.settle_notices { s with driveLists := s.driveLists.set d l } d) m k i).mpr h)
    d old

/-- The entries of a list that is to be put in place: each once, none that has ended. -/
structure State.Fit (s : State) (l : List SlotIx) : Prop where
  nodup : l.Nodup
  live : ∀ j ∈ l, ∃ c, s.claim j = some c ∧ c.state ≠ .spent

theorem changeList_noticesKept {s : State} {l : List SlotIx} (h : s.Fit l) (d : Drive) (old : Option SlotIx) :
    s.NoticesKept (s.changeList d old l) fun j => old = some j ∨ l.head? = some j := by
  intro m e he
  rw [changeList_notices s d old h.nodup h.live]
  exact posted_noticesKept s old l m e he


/-- The entry that becomes head stands by the gate, and TAKEN is posted to it (R26, R28). -/
theorem changeList_takesOver {s : State} {l : List SlotIx} (h : s.Fit l) (d : Drive) {old : Option SlotIx} {j : SlotIx}
    (hj : l.head? = some j) (hold : old ≠ some j) {c : Claim} (hc : s.claim j = some c) :
    (s.changeList d old l).claim j = some (Claim.asHead (s.gateIsOpen d.parent) c) ∧
      (s.barred c.owner = false → (s.changeList d old l).noticed c.owner .taken j) := by
  refine ⟨?_, fun hb => ?_⟩
  · rw [State.claim_def, changeList_slot s d old h.nodup, settled_claim_head hj, mapClaim_claim, ← State.claim_def, hc]
    rfl
  · rw [noticed_congr (changeList_notices s d old h.nodup h.live)]
    obtain ⟨c', hc', hs⟩ := h.live j (List.mem_of_mem_head? hj)
    rw [hc] at hc'
    cases hc'
    have hpost : (s.post .taken j).noticed c.owner .taken j := post_noticed hc hs hb (by decide)
    have hne : l.head? ≠ old := fun e => hold (e ▸ hj)
    unfold State.posted
    rw [if_neg hne, hj]
    cases old with
    | none => exact hpost
    | some o =>
      dsimp only
      split
      · exact noticed_post hpost _ _
      · exact hpost

/-! ### The place of an entry (R25) -/

/-- In a list by falling class the entries up to a class are those at its front. -/
theorem insertByClass_eq {s : State} {l : List SlotIx} (h : l.Pairwise fun x y => s.classOf y ≤ s.classOf x) (i : SlotIx) :
    s.insertByClass i l = (l.filter fun j => decide (s.classOf i ≤ s.classOf j)) ++
      i :: l.filter fun j => decide (s.classOf j < s.classOf i) := by
  unfold State.insertByClass
  induction l with
  | nil => rfl
  | cons x xs ih =>
    obtain ⟨hx, hxs⟩ := List.pairwise_cons.mp h
    by_cases hle : s.classOf i ≤ s.classOf x
    · have hnlt : ¬s.classOf x < s.classOf i := not_lt.mpr hle
      simpa [hle, hnlt] using ih hxs
    · have hlt : s.classOf x < s.classOf i := not_le.mp hle
      have hfront : xs.filter (fun j => decide (s.classOf i ≤ s.classOf j)) = [] :=
        List.filter_eq_nil_iff.mpr fun y hy => by simpa using lt_of_le_of_lt (hx y hy) hlt
      have hback : xs.filter (fun j => decide (s.classOf j < s.classOf i)) = xs :=
        List.filter_eq_self.mpr fun y hy => by simpa using lt_of_le_of_lt (hx y hy) hlt
      simp [hle, hlt, hfront, hback]

theorem insertByClass_perm (s : State) (i : SlotIx) (l : List SlotIx) : (s.insertByClass i l).Perm (i :: l) := by
  unfold State.insertByClass
  refine List.perm_middle.trans (List.Perm.cons i ?_)
  rw [List.takeWhile_append_dropWhile]

theorem mem_insertByClass (s : State) (i j : SlotIx) (l : List SlotIx) :
    j ∈ s.insertByClass i l ↔ j = i ∨ j ∈ l := by
  rw [(insertByClass_perm s i l).mem_iff, List.mem_cons]

theorem insertByClass_nodup {s : State} {i : SlotIx} {l : List SlotIx} (hl : l.Nodup) (hi : i ∉ l) :
    (s.insertByClass i l).Nodup := (insertByClass_perm s i l).nodup_iff.mpr (List.nodup_cons.mpr ⟨hi, hl⟩)

theorem insertByClass_cons_of_le {s : State} {i h : SlotIx} (hle : s.classOf i ≤ s.classOf h) (t : List SlotIx) :
    s.insertByClass i (h :: t) = h :: s.insertByClass i t := by
  simp [State.insertByClass, hle]

theorem insertByClass_cons_of_lt {s : State} {i h : SlotIx} (hlt : s.classOf h < s.classOf i) (t : List SlotIx) :
    s.insertByClass i (h :: t) = i :: h :: t := by
  simp [State.insertByClass, not_le.mpr hlt]

theorem classOf_of_claim {s : State} {i : SlotIx} {c : Claim} (hc : s.claim i = some c) : s.classOf i = c.cls.val := by
  simp [State.classOf, hc]

/-! ### What a join makes of the old head (R27) -/

theorem join_of_empty {s : State} {d : Drive} (h : s.driveList d = []) (i : SlotIx) :
    s.join d i = s.changeList d none [i] := by
  unfold State.join
  rw [h]

section OldHead

variable {s : State} {d : Drive} {h : SlotIx} {t : List SlotIx} {c : Claim} (hl : s.driveList d = h :: t)
  (hc : s.claim h = some c)
include hl hc

theorem join_of_retiring (hr : c.state = .retiring) (i : SlotIx) :
    s.join d i = (s.finish h).changeList d (some h) (s.insertByClass i t) := by
  unfold State.join
  simp [hl, State.claimIs, hc, hr]

theorem join_of_finished (hr : c.state ≠ .retiring) (hb : c.burstFinished = true) (i : SlotIx) :
    s.join d i = (s.completeClaim h).changeList d (some h) (s.insertByClass i t) := by
  unfold State.join
  simp [hl, State.claimIs, hc, hr, hb]

theorem join_of_standing (hr : c.state ≠ .retiring) (hb : c.burstFinished = false) (i : SlotIx) :
    s.join d i = s.changeList d (some h) (s.insertByClass i (h :: t)) := by
  unfold State.join
  simp [hl, State.claimIs, hc, hr, hb]

end OldHead

theorem completeClaim_slot_of_ne (s : State) {i j : SlotIx} (h : j ≠ i) : (s.completeClaim i).slots[j] = s.slots[j] := by
  unfold State.completeClaim
  rw [State.updClaim_slot, if_neg h, State.post_slots]

theorem completeClaim_claim {s : State} {i : SlotIx} {c : Claim} (hc : s.claim i = some c) :
    (s.completeClaim i).claim i = some { c with state := .complete } := by
  unfold State.completeClaim
  rw [State.updClaim_claim, if_pos rfl, State.post_claim, hc]
  rfl

theorem completeClaim_noticesKept (s : State) (i : SlotIx) : s.NoticesKept (s.completeClaim i) fun j => j = i :=
  fun l e he => s.post_noticesKept .complete i l e he

theorem completeClaim_noticed {s : State} {i : SlotIx} {c : Claim} (hc : s.claim i = some c) (hs : c.state ≠ .spent)
    (hb : s.barred c.owner = false) : (s.completeClaim i).noticed c.owner .complete i :=
  post_noticed hc hs hb (by decide)

/-- What a join has done before it puts the new list in place: the old head's slot and notices alone have changed, and
the entries of the new list are those of the old one and the claim that joins. -/
structure State.Prepared (s u : State) (d : Drive) (i : SlotIx) (l : List SlotIx) : Prop where
  ports : u.ports = s.ports
  gates : u.gates = s.gates
  driveLists : u.driveLists = s.driveLists
  notices : s.NoticesKept u fun j => s.head d = some j
  nodup : l.Nodup
  entries : ∀ j ∈ l, j = i ∨ j ∈ s.driveList d
  joins : i ∈ l
  claims : ∀ j ∈ l, u.claim j = s.claim j
  others : ∀ j, j ∉ s.driveList d → u.slots[j] = s.slots[j]

/-- A claim that is to join: it stands outside the list, live. -/
structure State.CanJoin (s : State) (d : Drive) (i : SlotIx) (ci : Claim) : Prop where
  table : TableInv s
  order : (s.driveList d).Pairwise fun x y => s.classOf y ≤ s.classOf x
  outside : i ∉ s.driveList d
  claim : s.claim i = some ci
  live : ci.state ≠ .spent

theorem State.CanJoin.driveClaim {s : State} {d : Drive} {i j : SlotIx} {ci : Claim} (h : s.CanJoin d i ci)
    (hj : j ∈ s.driveList d) : ∃ c, s.claim j = some c ∧ c.state ≠ .spent := by
  obtain ⟨c, hc, -, hs⟩ := h.table.driveEntry d j hj
  exact ⟨c, hc, ne_spent_of_listed hs⟩

theorem State.Prepared.fit {s u : State} {d : Drive} {i : SlotIx} {ci : Claim} {l : List SlotIx}
    (h : s.Prepared u d i l) (hj : s.CanJoin d i ci) : u.Fit l where
  nodup := h.nodup
  live j hjl := by
    rw [h.claims j hjl]
    rcases h.entries j hjl with rfl | hjd
    · exact ⟨ci, hj.claim, hj.live⟩
    · exact hj.driveClaim hjd

section Prepared

variable {s : State} {d : Drive} {i h : SlotIx} {ci c : Claim} {t : List SlotIx} (hj : s.CanJoin d i ci)
include hj

theorem prepared_of_same {l : List SlotIx} (hn : l.Nodup) (he : ∀ j ∈ l, j = i ∨ j ∈ s.driveList d) (hi : i ∈ l) :
    s.Prepared s d i l :=
  ⟨rfl, rfl, rfl, .refl s _, hn, he, hi, fun _ _ => rfl, fun _ _ => rfl⟩

variable (hl : s.driveList d = h :: t)
include hl

theorem State.CanJoin.not_mem_insert : h ∉ s.insertByClass i t := by
  have hn := hl ▸ hj.table.driveNodup d
  have hout := hl ▸ hj.outside
  rw [mem_insertByClass]
  rintro (rfl | ht)
  · exact hout List.mem_cons_self
  · exact (List.nodup_cons.mp hn).1 ht

theorem State.CanJoin.insert_nodup : (s.insertByClass i t).Nodup := by
  have hn := hl ▸ hj.table.driveNodup d
  have hout := hl ▸ hj.outside
  exact insertByClass_nodup (List.nodup_cons.mp hn).2 fun ht => hout (List.mem_cons_of_mem _ ht)

theorem State.CanJoin.mem_insert : ∀ j ∈ s.insertByClass i t, j = i ∨ j ∈ s.driveList d := by
  intro j hjl
  rw [hl]
  exact ((mem_insertByClass s i j t).mp hjl).imp_right (List.mem_cons_of_mem _)

theorem prepared_of_finish : s.Prepared (s.finish h) d i (s.insertByClass i t) where
  ports := s.finish_ports h
  gates := s.finish_gates h
  driveLists := s.finish_driveLists h
  notices := (s.finish_noticesKept h).mono fun j e => by rw [State.head, hl, e]; rfl
  nodup := hj.insert_nodup hl
  entries := hj.mem_insert hl
  joins := (mem_insertByClass s i i t).mpr (.inl rfl)
  claims j hjl := finish_claim_of_ne s fun e => hj.not_mem_insert hl (e ▸ hjl)
  others j hjd := by
    rw [finish_slot, if_neg]
    rintro rfl
    exact hjd (hl ▸ List.mem_cons_self)

theorem prepared_of_complete : s.Prepared (s.completeClaim h) d i (s.insertByClass i t) where
  ports := s.completeClaim_ports h
  gates := s.completeClaim_gates h
  driveLists := s.completeClaim_driveLists h
  notices := (completeClaim_noticesKept s h).mono fun j e => by rw [State.head, hl, e]; rfl
  nodup := hj.insert_nodup hl
  entries := hj.mem_insert hl
  joins := (mem_insertByClass s i i t).mpr (.inl rfl)
  claims j hjl := by
    have hne : j ≠ h := fun e => hj.not_mem_insert hl (e ▸ hjl)
    rw [State.claim_def, completeClaim_slot_of_ne s hne]
    rfl
  others j hjd := completeClaim_slot_of_ne s fun e => hjd (e ▸ hl ▸ List.mem_cons_self)

end Prepared

/-- Whatever the list held, a join puts a new list in place after its work on the old head (R27). -/
theorem join_prepared {s : State} {d : Drive} {i : SlotIx} {ci : Claim} (hj : s.CanJoin d i ci) :
    ∃ u l, s.Prepared u d i l ∧ s.join d i = u.changeList d (s.head d) l := by
  cases hl : s.driveList d with
  | nil =>
    refine ⟨s, [i], prepared_of_same hj (List.nodup_singleton i) (fun j hjl => .inl (List.mem_singleton.mp hjl))
      (List.mem_singleton_self i), ?_⟩
    rw [join_of_empty hl, State.head, hl]
    rfl
  | cons h t =>
    have hhead : s.head d = some h := by rw [State.head, hl]; rfl
    obtain ⟨c, hc, -⟩ := hj.driveClaim (hl ▸ List.mem_cons_self : h ∈ s.driveList d)
    rw [hhead]
    by_cases hr : c.state = .retiring
    · exact ⟨_, _, prepared_of_finish hj hl, join_of_retiring hl hc hr i⟩
    · cases hb : c.burstFinished with
      | true => exact ⟨_, _, prepared_of_complete hj hl, join_of_finished hl hc hr hb i⟩
      | false =>
        refine ⟨s, _, prepared_of_same hj (insertByClass_nodup (hl ▸ hj.table.driveNodup d) (hl ▸ hj.outside))
          (fun j hjl => ?_) ((mem_insertByClass s i i _).mpr (.inl rfl)), join_of_standing hl hc hr hb i⟩
        rw [hl]
        exact (mem_insertByClass s i j _).mp hjl

/-- The state in which a claim comes out of a join: by the gate as head, and else STANDBY (R26, R27). -/
theorem join_claim_self {s : State} {d : Drive} {i : SlotIx} {ci : Claim} (hj : s.CanJoin d i ci)
    (hr : ci.state ≠ .retiring) : (s.join d i).claim i = some { ci with
      state := if (s.join d i).head d = some i then if s.gateIsOpen d.parent = true then .inForce else .suspended
        else .standby } := by
  obtain ⟨u, l, hprep, hjoin⟩ := join_prepared hj
  have hhead : (s.join d i).head d = l.head? := by
    rw [hjoin, State.head, changeList_driveList, if_pos rfl]
  have hui : u.claim i = some ci := (hprep.claims i hprep.joins).trans hj.claim
  have hopen : u.gateIsOpen d.parent = s.gateIsOpen d.parent := by rw [State.gateIsOpen, hprep.gates]; rfl
  rw [hhead, hjoin, State.claim_def, changeList_slot u d _ hprep.nodup]
  by_cases hl : l.head? = some i
  · rw [settled_claim_head hl, if_pos hl, mapClaim_claim, ← State.claim_def, hui, hopen]
    exact congrArg some (if_neg hr)
  · rw [if_neg hl, Slot.settled, if_neg hl, if_pos hprep.joins, mapClaim_claim, ← State.claim_def, hui]
    rfl

/-- Settles O27, over the list
 that the join puts in place. -/
theorem joinFollowsWhatTheListHeld : Obligations.JoinFollowsWhatTheListHeld := by
  intro s d i ci htable horder hout hci hres hstate t placed placedAsHead takesOver
  have hj : s.CanJoin d i ci := ⟨htable, horder, hout, hci, by rcases hstate with h | h <;> simp [h]⟩
  obtain ⟨u, l, hprep, hjoin⟩ := join_prepared hj
  have hfit := hprep.fit hj
  have htlist : t.driveList d = l := by
    change (s.join d i).driveList d = l
    rw [hjoin, changeList_driveList, if_pos rfl]
  have hopen : u.gateIsOpen d.parent = s.gateIsOpen d.parent := by rw [State.gateIsOpen, hprep.gates]; rfl
  have hclass : s.classOf i = ci.cls.val := classOf_of_claim hci
  have hplaced : ∀ {tl : List SlotIx}, tl.Pairwise (fun x y => s.classOf y ≤ s.classOf x) →
      s.insertByClass i tl = placed tl := fun htl => by
    rw [insertByClass_eq htl, hclass]
  have htakes : ∀ j, l.head? = some j → s.head d ≠ some j → takesOver j := by
    intro j hjl hne cj hcj
    have hover := changeList_takesOver hfit d hjl hne ((hprep.claims j (List.mem_of_mem_head? hjl)).trans hcj)
    rw [hopen, barred_eq, hprep.ports, ← hjoin] at hover
    exact hover
  refine ⟨?_, by simp [t], by simp [t], fun e he => ?_, fun j hji hjd => ?_, fun h tl htl j hjt cj hcj => ?_, ?_, ?_, ?_⟩
  · apply State.eq_of_fields <;> simp [t]
  · change (s.join d i).driveList e = _
    rw [hjoin, changeList_driveList, if_neg he, State.driveList_congr hprep.driveLists]
  · change (s.join d i).slots[j] = _
    rw [hjoin, changeList_slot_of_not_mem u d _ hprep.nodup, hprep.others j hjd]
    exact fun hjl => (hprep.entries j hjl).elim hji hjd
  · have hlt : l = h :: tl := htlist.symm.trans htl
    change (s.join d i).claim j = _
    rw [hjoin, hlt, changeList_claim_behind u d _ (hlt ▸ hprep.nodup) hjt,
      hprep.claims j (hlt ▸ List.mem_cons_of_mem _ hjt), hcj]
    rfl
  · have hkept := (changeList_noticesKept hfit d (s.head d))
    rw [← hjoin] at hkept
    refine (hprep.notices.mono fun j h => .inl h).trans (hkept.mono fun j h => h.imp_right fun h => ?_)
    rw [State.head, htlist]
    exact h
  · intro hnil
    have hli : l = [i] := by
      rw [← htlist]
      change (s.join d i).driveList d = _
      rw [join_of_empty hnil, changeList_driveList, if_pos rfl]
    refine ⟨htlist.trans hli, htakes i (by rw [hli]; rfl) ?_⟩
    rw [State.head, hnil]
    exact nofun
  · intro h tl c hcons hc
    have hhead : s.head d = some h := by rw [State.head, hcons]; rfl
    have htl : tl.Pairwise fun x y => s.classOf y ≤ s.classOf x := (List.pairwise_cons.mp (hcons ▸ horder)).2
    have hlive : c.state ≠ .spent := by
      obtain ⟨c', hc', hs⟩ := hj.driveClaim (hcons ▸ List.mem_cons_self : h ∈ s.driveList d)
      rw [hc] at hc'
      cases hc'
      exact hs
    have hnew : ∀ j, (placed tl).head? = some j → some h ≠ some j := by
      rintro j hjl e
      cases e
      exact hj.not_mem_insert hcons (hplaced htl ▸ List.mem_of_mem_head? hjl)
    refine ⟨fun hr => ?_, fun hr hb => ?_, fun hr hb hle => ?_, fun hr hb hlt => ?_⟩
    · have hjoin' := join_of_retiring hcons hc hr i
      have hlp : l = placed tl := by
        rw [← htlist, ← hplaced htl]
        change (s.join d i).driveList d = _
        rw [hjoin', changeList_driveList, if_pos rfl]
      refine ⟨htlist.trans hlp, ?_, fun j hjl => htakes j (hlp ▸ hjl) (hhead ▸ hnew j hjl)⟩
      change (s.join d i).slots[h] = _
      rw [hjoin', changeList_slot_of_not_mem _ d _ (hj.insert_nodup hcons) (hj.not_mem_insert hcons)]
    · have hjoin' := join_of_finished hcons hc hr hb i
      have hlp : l = placed tl := by
        rw [← htlist, ← hplaced htl]
        change (s.join d i).driveList d = _
        rw [hjoin', changeList_driveList, if_pos rfl]
      refine ⟨htlist.trans hlp, ?_, fun j hjl => htakes j (hlp ▸ hjl) (hhead ▸ hnew j hjl), fun hbar => ?_⟩
      · change (s.join d i).claim h = _
        rw [hjoin', State.claim_def, changeList_slot_of_not_mem _ d _ (hj.insert_nodup hcons) (hj.not_mem_insert hcons),
          ← State.claim_def, completeClaim_claim hc]
      · change (s.join d i).noticed _ _ _
        rw [hjoin']
        exact changeList_noticed (completeClaim_noticed hc hlive hbar) d _ _

    · have hjoin' := join_of_standing hcons hc hr hb i
      have hins : s.insertByClass i (h :: tl) = h :: placed tl := by
        rw [insertByClass_cons_of_le (by rwa [hclass, classOf_of_claim hc]), hplaced htl]
      have hlp : l = h :: placed tl := by
        rw [← htlist, ← hins]
        change (s.join d i).driveList d = _
        rw [hjoin', changeList_driveList, if_pos rfl]
      have hn : (h :: placed tl).Nodup := hlp ▸ hprep.nodup
      refine ⟨htlist.trans hlp, ?_, ?_, ?_⟩
      · rw [hhead, State.head, htlist, hlp]
        rfl
      · change (s.join d i).claim h = _
        rw [hjoin', hins, changeList_claim_head s d _ hn, hc]
        rfl
      · change (s.join d i).notices = _
        rw [hjoin', hins, changeList_notices s d _ hn, posted_of_same (List.head?_cons ..)]
        intro j hjl
        rw [← hlp] at hjl
        rcases hprep.entries j hjl with rfl | hjd
        · exact ⟨ci, hci, hj.live⟩
        · exact hj.driveClaim hjd
    · have hjoin' := join_of_standing hcons hc hr hb i
      have hins : s.insertByClass i (h :: tl) = i :: h :: tl :=
        insertByClass_cons_of_lt (by rwa [hclass, classOf_of_claim hc]) tl
      have hlp : l = i :: h :: tl := by
        rw [← htlist, ← hins]
        change (s.join d i).driveList d = _
        rw [hjoin', changeList_driveList, if_pos rfl]
      have hih : i ≠ h := fun e => hj.outside (hcons ▸ e ▸ List.mem_cons_self)
      have hn : (i :: h :: tl).Nodup := hlp ▸ hprep.nodup
      refine ⟨htlist.trans hlp, htakes i (by rw [hlp]; rfl) (by rw [hhead]; exact fun e => hih (Option.some.inj e).symm),
        fun hbar => ?_⟩
      change (s.join d i).noticed _ _ _
      rw [hjoin', hins, noticed_congr (changeList_notices s d _ hn ?_)]
      · have hpost : ((s.post .taken i).post .outranked h).noticed c.owner .outranked h :=
          post_noticed (s := s.post .taken i) hc hlive hbar (by decide)
        have hposted : s.posted (some h) (i :: h :: tl) = (s.post .taken i).post .outranked h := by
          simp [State.posted, hih]
        rwa [hposted]
      · intro j hjl
        rw [← hlp] at hjl
        rcases hprep.entries j hjl with rfl | hjd
        · exact ⟨ci, hci, hj.live⟩
        · exact hj.driveClaim hjd

end Sys2Proof.Machine
end

section
/-! SUPPORT and PROOFS. A gate opens and closes: what becomes of each channel under it. -/

namespace Sys2Proof.Machine

theorem finish_noticed {s : State} {m : Link} {k : NoticeKind} {i : SlotIx} (h : s.noticed m k i) (j : SlotIx) :
    (s.finish j).noticed m k i := by
  cases hc : s.claim j with
  | none => rwa [finish_of_none hc]
  | some c =>
    cases hb : s.barred c.owner with
    | true => rw [finish_of_barred hc hb]; exact h
    | false => rw [finish_of_notBarred hc hb]; exact noticed_post h _ _

theorem noticed_completeClaim {s : State} {m : Link} {k : NoticeKind} {i : SlotIx} (h : s.noticed m k i) (j : SlotIx) :
    (s.completeClaim j).noticed m k i :=
  (noticed_congr (s := s.post .complete j) rfl m k i).mpr (noticed_post h .complete j)

theorem postEach_noticed_of_noticed {s : State} {m : Link} {k : NoticeKind} {i : SlotIx} (h : s.noticed m k i)
    (k' : NoticeKind) (is : List SlotIx) : (s.postEach k' is).noticed m k i := by
  unfold State.postEach
  exact List.foldlRecOn (motive := fun t : State => t.noticed m k i) is _ h fun t ht j _ => noticed_post ht k' j

/-- A kind posted to several claims stands for each that is live, its owner not barred. -/
theorem postEach_noticed {s : State} {k : NoticeKind} {is : List SlotIx} {i : SlotIx} {c : Claim} (hi : i ∈ is)
    (hc : s.claim i = some c) (hs : c.state ≠ .spent) (hb : s.barred c.owner = false) (hk : k ≠ .sample) :
    (s.postEach k is).noticed c.owner k i := by
  obtain ⟨before, after, rfl⟩ := List.append_of_mem hi
  unfold State.postEach
  rw [List.foldl_append, List.foldl_cons]
  generalize ht : before.foldl (fun s i => s.post k i) s = t
  have hslots : t.slots = s.slots := ht ▸ s.postEach_slots k before
  have hports : t.ports = s.ports := ht ▸ s.postEach_ports k before
  refine postEach_noticed_of_noticed (post_noticed ((State.claim_congr hslots i).trans hc) hs ?_ hk) k after
  rw [barred_eq, hports]
  exact hb

/-! ### Work on one channel after another -/

/-- Work on a channel that stays with the channel's own list: it leaves the other lists, the slots outside the
channel's list and the link ports, and loses no notice. -/
structure WorksInList (work : State → Drive → State) : Prop where
  others : ∀ s d e, e ≠ d → (work s d).driveList e = s.driveList e
  outside : ∀ s d, (s.driveList d).Nodup → ∀ j, j ∉ s.driveList d → (work s d).slots[j] = s.slots[j]
  ports : ∀ s d, (work s d).ports = s.ports
  noticed : ∀ s d m k i, s.noticed m k i → (work s d).noticed m k i

theorem WorksInList.foldl_ports {work : State → Drive → State} (h : WorksInList work) (ds : List Drive) (s : State) :
    (ds.foldl work s).ports = s.ports := foldl_keeps State.ports work h.ports ds s

theorem WorksInList.foldl_noticed {work : State → Drive → State} (h : WorksInList work) (ds : List Drive) {s : State}
    {m : Link} {k : NoticeKind} {i : SlotIx} (hn : s.noticed m k i) : (ds.foldl work s).noticed m k i :=
  List.foldlRecOn (motive := fun t => t.noticed m k i) ds work hn fun t ht d _ => h.noticed t d m k i ht

/-- Work on other channels leaves a list and the slots that stand in none of theirs. -/
theorem WorksInList.foldl_others {work : State → Drive → State} (h : WorksInList work) {d : Drive} {L : List SlotIx} :
    ∀ {ds : List Drive} {s : State}, ds.Nodup → d ∉ ds → (∀ e ∈ ds, (s.driveList e).Nodup) →
      (∀ e ∈ ds, ∀ j ∈ L, j ∉ s.driveList e) →
      (ds.foldl work s).driveList d = s.driveList d ∧ ∀ j ∈ L, (ds.foldl work s).slots[j] = s.slots[j]
  | [], _, _, _, _, _ => ⟨rfl, fun _ _ => rfl⟩
  | e :: ds, s, hnd, hd, hn, hL => by
    obtain ⟨he, hnd⟩ := List.nodup_cons.mp hnd
    obtain ⟨hde, hd⟩ := List.ne_and_not_mem_of_not_mem_cons hd
    have hlist : ∀ e' ∈ ds, (work s e).driveList e' = s.driveList e' :=
      fun e' he' => h.others s e e' fun heq => he (heq ▸ he')
    obtain ⟨h1, h2⟩ := h.foldl_others (s := work s e) (L := L) hnd hd
      (fun e' he' => hlist e' he' ▸ hn e' (List.mem_cons_of_mem _ he'))
      fun e' he' j hj => hlist e' he' ▸ hL e' (List.mem_cons_of_mem _ he') j hj
    refine ⟨h1.trans (h.others s e d hde), fun j hj => (h2 j hj).trans ?_⟩
    exact h.outside s e (hn e List.mem_cons_self) j (hL e List.mem_cons_self j hj)

/-- Two states that agree on a channel's list, on the slots in it and on the link ports. -/
structure State.SameInList (s u : State) (d : Drive) : Prop where
  list : u.driveList d = s.driveList d
  slots : ∀ j ∈ s.driveList d, u.slots[j] = s.slots[j]
  ports : u.ports = s.ports

theorem State.SameInList.claim {s u : State} {d : Drive} (h : s.SameInList u d) {j : SlotIx}
    (hj : j ∈ s.driveList d) : u.claim j = s.claim j := congrArg Slot.claim (h.slots j hj)

theorem State.SameInList.barred {s u : State} {d : Drive} (h : s.SameInList u d) (l : Link) :
    u.barred l = s.barred l := by
  rw [barred_eq, barred_eq, h.ports]

theorem children_nodup (g : Gate) : g.children.Nodup := by cases g <;> decide

/-- The lists of two channels have no entry in common. -/
theorem TableInv.apart {s : State} (h : TableInv s) {d e : Drive} (hne : e ≠ d) {j : SlotIx} (hj : j ∈ s.driveList d) :
    j ∉ s.driveList e := by
  intro hje
  obtain ⟨c, hc, hr, -⟩ := h.driveEntry d j hj
  obtain ⟨c', hc', hr', -⟩ := h.driveEntry e j hje
  rw [hc] at hc'
  cases hc'
  rw [hr] at hr'
  exact hne (Resource.drive.inj hr').symm

/-- What the work on all of a gate's channels makes of one of them is what the work on it alone makes of it. -/
theorem WorksInList.foldl_children {work : State → Drive → State} (h : WorksInList work) {s s' : State}
    (htable : TableInv s) (hlists : s'.driveLists = s.driveLists) (hslots : s'.slots = s.slots)
    (hports : s'.ports = s.ports) {g : Gate} {d : Drive} (hd : d.parent = g) :
    ∃ u, s.SameInList u d ∧ (∀ m k i, s'.noticed m k i → u.noticed m k i) ∧
      (g.children.foldl work s').driveList d = (work u d).driveList d ∧
      (∀ j ∈ s.driveList d, (g.children.foldl work s').slots[j] = (work u d).slots[j]) ∧
      (∀ m k i, (work u d).noticed m k i → (g.children.foldl work s').noticed m k i) ∧
      ∃ before after : List Drive, d ∉ before ∧ d ∉ after ∧ u = before.foldl work s' ∧
        g.children.foldl work s' = after.foldl work (work u d) := by
  obtain ⟨before, after, hsplit⟩ := List.append_of_mem ((mem_children g d).mpr hd)
  have hnd := hsplit ▸ children_nodup g
  obtain ⟨hbefore, hcons, hdisj⟩ := List.nodup_append.mp hnd
  obtain ⟨hda, hafter⟩ := List.nodup_cons.mp hcons
  have hdb : d ∉ before := fun hm => hdisj d hm d List.mem_cons_self rfl
  have hs' : ∀ e, s'.driveList e = s.driveList e := State.driveList_congr hlists
  have hne : ∀ {ds : List Drive}, d ∉ ds → ∀ e ∈ ds, e ≠ d := fun hds e he heq => hds (heq ▸ he)
  have hfront := h.foldl_others (L := s.driveList d) (s := s') hbefore hdb
    (fun e _ => hs' e ▸ htable.driveNodup e)
    fun e he j hj => hs' e ▸ htable.apart (hne hdb e he) hj
  have hfrontRest := fun e (he : e ∈ after) => (h.foldl_others (d := e) (L := []) (s := s') hbefore
    (fun hm => hdisj e hm e (List.mem_cons_of_mem _ he) rfl) (fun e _ => hs' e ▸ htable.driveNodup e)
    fun _ _ _ hj => nomatch hj).1
  generalize hu : before.foldl work s' = u at hfront hfrontRest
  have hrest : ∀ e ∈ after, (work u d).driveList e = s.driveList e := fun e he =>
    (h.others u d e (hne hda e he)).trans ((hfrontRest e he).trans (hs' e))
  have hback := h.foldl_others (L := s.driveList d) (s := work u d) hafter hda
    (fun e he => hrest e he ▸ htable.driveNodup e)
    fun e he j hj => hrest e he ▸ htable.apart (hne hda e he) hj
  rw [hsplit, List.foldl_append, List.foldl_cons, hu]
  refine ⟨u, ⟨hfront.1.trans (hs' d), fun j hj => (hfront.2 j hj).trans ?_, ?_⟩, fun m k i hn => ?_, hback.1, hback.2,
    fun m k i hn => h.foldl_noticed after hn, before, after, hdb, hda, hu.symm, rfl⟩
  · rw [hslots]

  · rw [← hu, h.foldl_ports, hports]
  · rw [← hu]
    exact h.foldl_noticed before hn

/-! ### A channel halts (R45) -/

section Halt

variable {s : State} {d : Drive} {h : SlotIx} {t : List SlotIx} {c : Claim} (hl : s.driveList d = h :: t)
  (hc : s.claim h = some c) (p : StopPattern)
include hl hc

theorem haltChannel_of_retiring (hr : c.state = .retiring) : s.haltChannel d p =
    ((s.setDrive d ⟨.halted, 0, p.pins, 0⟩).finish h).changeList d (some h) t := by
  have hl' : (s.setDrive d ⟨.halted, 0, p.pins, 0⟩).driveList d = h :: t := hl
  have hc' : (s.setDrive d ⟨.halted, 0, p.pins, 0⟩).claim h = some c := hc
  unfold State.haltChannel
  simp [hl', State.claimIs, hc', hr]

theorem haltChannel_of_finished (hr : c.state = .inForce) (hb : c.burstFinished = true) : s.haltChannel d p =
    ((s.setDrive d ⟨.halted, 0, p.pins, 0⟩).completeClaim h).changeList d (some h) t := by
  have hl' : (s.setDrive d ⟨.halted, 0, p.pins, 0⟩).driveList d = h :: t := hl
  have hc' : (s.setDrive d ⟨.halted, 0, p.pins, 0⟩).claim h = some c := hc
  unfold State.haltChannel
  simp [hl', State.claimIs, hc', hr, hb]

theorem haltChannel_of_inForce (hr : c.state = .inForce) (hb : c.burstFinished = false) : s.haltChannel d p =
    ((s.setDrive d ⟨.halted, 0, p.pins, 0⟩).post .suspended h).updClaim h
      fun c => { c with state := .suspended } := by
  have hl' : (s.setDrive d ⟨.halted, 0, p.pins, 0⟩).driveList d = h :: t := hl
  have hc' : (s.setDrive d ⟨.halted, 0, p.pins, 0⟩).claim h = some c := hc
  unfold State.haltChannel
  simp [hl', State.claimIs, hc', hr, hb]

theorem haltChannel_of_other (hr : c.state ≠ .retiring) (hi : c.state ≠ .inForce) :
    s.haltChannel d p = s.setDrive d ⟨.halted, 0, p.pins, 0⟩ := by
  have hl' : (s.setDrive d ⟨.halted, 0, p.pins, 0⟩).driveList d = h :: t := hl
  have hc' : (s.setDrive d ⟨.halted, 0, p.pins, 0⟩).claim h = some c := hc
  unfold State.haltChannel
  simp [hl', State.claimIs, hc', hr, hi]

end Halt

theorem haltChannel_of_empty {s : State} {d : Drive} (hl : s.driveList d = []) (p : StopPattern) :
    s.haltChannel d p = s.setDrive d ⟨.halted, 0, p.pins, 0⟩ := by
  have hl' : (s.setDrive d ⟨.halted, 0, p.pins, 0⟩).driveList d = [] := hl
  unfold State.haltChannel
  simp [hl']

theorem haltChannel_of_noClaim {s : State} {d : Drive} {h : SlotIx} {t : List SlotIx} (hl : s.driveList d = h :: t)
    (hc : s.claim h = none) (p : StopPattern) : s.haltChannel d p = s.setDrive d ⟨.halted, 0, p.pins, 0⟩ := by
  have hl' : (s.setDrive d ⟨.halted, 0, p.pins, 0⟩).driveList d = h :: t := hl
  have hc' : (s.setDrive d ⟨.halted, 0, p.pins, 0⟩).claim h = none := hc
  unfold State.haltChannel
  simp [hl', State.claimIs, hc']

/-- What the halting of a channel comes to, by the channel's head (R45). -/
theorem haltChannel_cases (s : State) (d : Drive) (p : StopPattern) :
    let u := s.setDrive d ⟨.halted, 0, p.pins, 0⟩
    s.haltChannel d p = u ∨ ∃ h t, s.driveList d = h :: t ∧ (s.haltChannel d p = (u.finish h).changeList d (some h) t ∨
      s.haltChannel d p = (u.completeClaim h).changeList d (some h) t ∨
      s.haltChannel d p = (u.post .suspended h).updClaim h fun c => { c with state := .suspended }) := by
  intro u
  cases hl : s.driveList d with
  | nil => exact .inl (haltChannel_of_empty hl p)
  | cons h t =>
    cases hc : s.claim h with
    | none => exact .inl (haltChannel_of_noClaim hl hc p)
    | some c =>
      by_cases hr : c.state = .retiring
      · exact .inr ⟨h, t, rfl, .inl (haltChannel_of_retiring hl hc p hr)⟩
      by_cases hi : c.state = .inForce
      · cases hb : c.burstFinished with
        | true => exact .inr ⟨h, t, rfl, .inr (.inl (haltChannel_of_finished hl hc p hi hb))⟩
        | false => exact .inr ⟨h, t, rfl, .inr (.inr (haltChannel_of_inForce hl hc p hi hb))⟩
      · exact .inl (haltChannel_of_other hl hc p hr hi)

theorem haltChannel_worksInList (p : StopPattern) : WorksInList fun s d => s.haltChannel d p where
  others s d e he := by
    have hset : (s.setDrive d ⟨.halted, 0, p.pins, 0⟩).driveList e = s.driveList e := rfl
    rcases haltChannel_cases s d p with heq | ⟨h, t, -, heq | heq | heq⟩ <;> rw [heq]
    · rfl
    · rw [changeList_driveList, if_neg he, State.driveList_congr (State.finish_driveLists _ _), hset]
    · rw [changeList_driveList, if_neg he, State.driveList_congr (State.completeClaim_driveLists _ _), hset]
    · rfl
  outside s d hn j hj := by
    rcases haltChannel_cases s d p with heq | ⟨h, t, hl, heq⟩
    · rw [heq]
      rfl
    · obtain ⟨hht, hnt⟩ := List.nodup_cons.mp (hl ▸ hn)
      obtain ⟨hjh, hjt⟩ := List.ne_and_not_mem_of_not_mem_cons (hl ▸ hj)
      rcases heq with heq | heq | heq <;> rw [heq]
      · rw [changeList_slot_of_not_mem _ d _ hnt hjt, finish_slot, if_neg hjh]
        rfl
      · rw [changeList_slot_of_not_mem _ d _ hnt hjt, completeClaim_slot_of_ne _ hjh]
        rfl
      · rw [State.updClaim_slot, if_neg hjh]
        rfl
  ports s d := s.haltChannel_ports d p
  noticed s d m k i hn := by
    have hset : (s.setDrive d ⟨.halted, 0, p.pins, 0⟩).noticed m k i := hn
    have hcases := haltChannel_cases s d p
    generalize s.setDrive d ⟨.halted, 0, p.pins, 0⟩ = u at hset hcases
    rcases hcases with heq | ⟨h, t, -, heq | heq | heq⟩ <;> rw [heq]
    · exact hset
    · exact changeList_noticed (finish_noticed hset h) d _ _
    · exact changeList_noticed (noticed_completeClaim hset h) d _ _
    · exact noticed_post hset .suspended h

/-! ### A channel is released (R43) -/

/-- The channel out of HALTED, its head not yet resumed (R43). -/
def State.leftHalted (s : State) (d : Drive) : State :=
  s.setDrive d { s.drives.get d with phase := s.openingPhase d }

theorem releaseChannel_of_empty {s : State} {d : Drive} (hl : s.driveList d = []) :
    s.releaseChannel d = s.leftHalted d := by
  have hhead : (s.leftHalted d).head d = none := by
    change (s.driveList d).head? = none
    rw [hl]
    rfl
  change (match (s.leftHalted d).head d with | none => _ | some h => _) = _
  rw [hhead]
  rfl

theorem releaseChannel_of_cons {s : State} {d : Drive} {h : SlotIx} {t : List SlotIx} (hl : s.driveList d = h :: t) :
    s.releaseChannel d = if (s.claimIs h fun c => decide (c.state = .suspended)) = true then
      ((s.leftHalted d).post .resumed h).updClaim h fun c => { c with state := .inForce } else s.leftHalted d := by
  have hhead : (s.leftHalted d).head d = some h := by
    change (s.driveList d).head? = some h
    rw [hl]
    rfl
  change (match (s.leftHalted d).head d with | none => _ | some h => _) = _
  rw [hhead]
  rfl

theorem releaseChannel_cases (s : State) (d : Drive) :
    s.releaseChannel d = s.leftHalted d ∨ ∃ h t, s.driveList d = h :: t ∧
      s.releaseChannel d = ((s.leftHalted d).post .resumed h).updClaim h fun c => { c with state := .inForce } := by
  cases hl : s.driveList d with
  | nil => exact .inl (releaseChannel_of_empty hl)
  | cons h t =>
    rw [releaseChannel_of_cons hl]
    split
    · exact .inr ⟨h, t, rfl, rfl⟩
    · exact .inl rfl

theorem releaseChannel_worksInList : WorksInList State.releaseChannel where
  others s d e _ := State.driveList_congr (s.releaseChannel_driveLists d) e
  outside s d _ j hj := by
    obtain heq | ⟨h, t, hl, heq⟩ := releaseChannel_cases s d <;> rw [heq]
    · rfl
    · have hjh : j ≠ h := (List.ne_and_not_mem_of_not_mem_cons (hl ▸ hj)).1
      rw [State.updClaim_slot, if_neg hjh]
      rfl
  ports := State.releaseChannel_ports
  noticed s d m k i hn := by
    obtain heq | ⟨h, t, -, heq⟩ := releaseChannel_cases s d <;> rw [heq]
    · exact hn
    · exact noticed_post hn .resumed h

/-- A head SUSPENDED by its gate comes IN_FORCE with RESUMED (R42, R43). -/
theorem releaseChannel_of_suspended {s : State} {d : Drive} {h : SlotIx} {t : List SlotIx} {c : Claim}
    (hl : s.driveList d = h :: t) (hc : s.claim h = some c) (hs : c.state = .suspended) :
    (s.releaseChannel d).claim h = some { c with state := .inForce } ∧
      (s.barred c.owner = false → (s.releaseChannel d).noticed c.owner .resumed h) := by
  have hc' : (s.leftHalted d).claim h = some c := hc
  rw [releaseChannel_of_cons hl, if_pos ((State.claimIs_iff _ _ _).mpr ⟨c, hc, by simp [hs]⟩)]
  refine ⟨?_, fun hb => post_noticed hc' (by rw [hs]; decide) hb (by decide)⟩

  rw [State.updClaim_claim, if_pos rfl, State.post_claim, hc']
  rfl

/-! ### The gate as a whole -/

theorem evalGate_of_closing {s : State} {g : Gate} (ho : s.gateIsOpen g = true) (hc : s.openCondition g = false) :
    s.evalGate g = s.closeGate g := by simp [State.evalGate, ho, hc]

theorem evalGate_of_opening {s : State} {g : Gate} (ho : s.gateIsOpen g = false) (hc : s.openCondition g = true) :
    s.evalGate g = s.openGate g := by simp [State.evalGate, ho, hc]

/-- The state of a gate that closes before its channels are halted (R44). -/
def State.closing (s : State) (g : Gate) : State :=
  (s.setGate g { s.gates.get g with
    isOpen := false, counter := 0, waited := 0, staged := none, close := s.closeFor g }).postEach .gateClosed (s.gateList g)

/-- The state of a gate that opens before its channels are released (R42). -/
def State.opening (s : State) (g : Gate) : State :=
  (s.setGate g { s.gates.get g with
    isOpen := true, counter := 0, waited := 0, applied := (s.supplier g).map Prod.snd, staged := none,
    close := s.closeFor g }).postEach .gateOpen (s.gateList g)

theorem openGate_eq (s : State) (g : Gate) : s.openGate g = g.children.foldl State.releaseChannel (s.opening g) := rfl

theorem closeGate_eq (s : State) (g : Gate) :
    s.closeGate g = g.children.foldl (fun u d => u.haltChannel d (s.closeFor g)) (s.closing g) := rfl

/-- A notice to a gate's members as it closes stands after the closing. -/
theorem closeGate_noticed {s : State} {g : Gate} {m : Link} {k : NoticeKind} {i : SlotIx}
    (h : (s.closing g).noticed m k i) : (s.closeGate g).noticed m k i :=
  (haltChannel_worksInList (s.closeFor g)).foldl_noticed _ h

theorem openGate_noticed {s : State} {g : Gate} {m : Link} {k : NoticeKind} {i : SlotIx}
    (h : (s.opening g).noticed m k i) : (s.openGate g).noticed m k i :=
  releaseChannel_worksInList.foldl_noticed _ h

/-- What a closing makes of a channel under the gate is what the halting of that channel alone makes of it. -/
theorem closeGate_child {s : State} (htable : TableInv s) {g : Gate} {d : Drive} (hd : d.parent = g) :
    ∃ u, s.SameInList u d ∧ (s.closeGate g).driveList d = (u.haltChannel d (s.closeFor g)).driveList d ∧
      (∀ j ∈ s.driveList d, (s.closeGate g).slots[j] = (u.haltChannel d (s.closeFor g)).slots[j]) ∧
      ∀ m k i, (u.haltChannel d (s.closeFor g)).noticed m k i → (s.closeGate g).noticed m k i := by
  obtain ⟨u, hu, -, hlist, hslots, hnoticed, -⟩ := (haltChannel_worksInList (s.closeFor g)).foldl_children
    (s' := s.closing g) htable (by simp [State.closing]) (by simp [State.closing]) (by simp [State.closing]) hd
  exact ⟨u, hu, hlist, hslots, hnoticed⟩

theorem openGate_child {s : State} (htable : TableInv s) {g : Gate} {d : Drive} (hd : d.parent = g) :
    ∃ u, s.SameInList u d ∧ (∀ j ∈ s.driveList d, (s.openGate g).slots[j] = (u.releaseChannel d).slots[j]) ∧
      ∀ m k i, (u.releaseChannel d).noticed m k i → (s.openGate g).noticed m k i := by
  obtain ⟨u, hu, -, -, hslots, hnoticed, -⟩ := releaseChannel_worksInList.foldl_children (s' := s.opening g) htable
    (by simp [State.opening]) (by simp [State.opening]) (by simp [State.opening]) hd
  exact ⟨u, hu, hslots, hnoticed⟩


/-- The list of a channel that is not under the gate stands. -/
theorem closeGate_otherList {s : State} {g : Gate} {d : Drive} (hd : d.parent ≠ g) :
    (s.closeGate g).driveList d = s.driveList d := by
  have hstep : ∀ (ds : List Drive) (u : State), d ∉ ds →
      (ds.foldl (fun u d => u.haltChannel d (s.closeFor g)) u).driveList d = u.driveList d := by
    intro ds
    induction ds with
    | nil => exact fun _ _ => rfl
    | cons e ds ih =>
      intro u he
      obtain ⟨hne, he⟩ := List.ne_and_not_mem_of_not_mem_cons he
      exact (ih _ he).trans ((haltChannel_worksInList (s.closeFor g)).others u e d hne)
  rw [closeGate_eq, hstep _ _ fun hm => hd ((mem_children g d).mp hm)]
  exact State.driveList_congr (by simp [State.closing]) d

theorem finish_slot_congr {s u : State} {i : SlotIx} (hslot : u.slots[i] = s.slots[i]) (hports : u.ports = s.ports) :
    (u.finish i).slots[i] = (s.finish i).slots[i] := by
  have hb : u.barred = s.barred := funext fun l => by rw [barred_eq, barred_eq, hports]
  rw [finish_slot, finish_slot, if_pos rfl, if_pos rfl, hslot, hb]

/-- A head's place at its gate's closing (R45). -/
theorem haltChannel_head {s u : State} {d : Drive} (hu : s.SameInList u d) {h : SlotIx} {t : List SlotIx} {c : Claim}
    (hn : (s.driveList d).Nodup) (hl : s.driveList d = h :: t) (hc : s.claim h = some c) (p : StopPattern) :
    (c.state = .retiring → (u.haltChannel d p).driveList d = t ∧
      (u.haltChannel d p).slots[h] = (s.finish h).slots[h]) ∧
    (c.state = .inForce → c.burstFinished = false → (u.haltChannel d p).driveList d = h :: t ∧
      (u.haltChannel d p).claim h = some { c with state := .suspended } ∧
      (∀ j ∈ t, (u.haltChannel d p).slots[j] = s.slots[j]) ∧
      (s.barred c.owner = false → (u.haltChannel d p).noticed c.owner .suspended h)) ∧
    (c.state = .inForce → c.burstFinished = true → (u.haltChannel d p).driveList d = t ∧
      (u.haltChannel d p).claim h = some { c with state := .complete } ∧
      (s.barred c.owner = false → (u.haltChannel d p).noticed c.owner .complete h)) := by
  have hmem : h ∈ s.driveList d := hl ▸ List.mem_cons_self
  obtain ⟨hht, hnt⟩ := List.nodup_cons.mp (hl ▸ hn)
  have hlu : u.driveList d = h :: t := hu.list.trans hl
  have hcu : u.claim h = some c := (hu.claim hmem).trans hc
  refine ⟨fun hr => ?_, fun hr hb => ?_, fun hr hb => ?_⟩
  · rw [haltChannel_of_retiring hlu hcu p hr, changeList_driveList, if_pos rfl,
      changeList_slot_of_not_mem _ d _ hnt hht]
    exact ⟨rfl, finish_slot_congr (hu.slots h hmem) hu.ports⟩
  · rw [haltChannel_of_inForce hlu hcu p hr hb]
    refine ⟨hlu, ?_, fun j hj => ?_, fun hbar => ?_⟩
    · rw [State.updClaim_claim, if_pos rfl, State.post_claim]
      exact congrArg (Option.map _) hcu
    · rw [State.updClaim_slot, if_neg fun e : j = h => hht (e ▸ hj), State.post_slots]
      exact hu.slots j (hl ▸ List.mem_cons_of_mem _ hj)
    · exact post_noticed (s := u.setDrive d _) hcu (by rw [hr]; decide) ((hu.barred _).trans hbar) (by decide)
  · rw [haltChannel_of_finished hlu hcu p hr hb, changeList_driveList, if_pos rfl, State.claim_def,
      changeList_slot_of_not_mem _ d _ hnt hht]
    refine ⟨rfl, completeClaim_claim (s := u.setDrive d _) hcu, fun hbar => changeList_noticed ?_ d _ _⟩
    exact completeClaim_noticed (s := u.setDrive d _) hcu (by rw [hr]; decide) ((hu.barred _).trans hbar)

/-- Settles O29. -/
theorem gateCloses : Obligations.GateCloses := by
  intro s g htable hlist hopen hcond t pattern
  have ht : t = s.closeGate g := evalGate_of_closing hopen hcond
  clear_value t
  subst ht
  refine ⟨by rw [State.closeGate_gates, PerGate.get_set_self], fun g' hg' => ?_, s.closeGate_gateLists g, fun d hd => ?_,
    fun d hd => ⟨?_, closeGate_otherList hd⟩, fun i hi c hc hb => ?_, fun d h tl c hd hl hc => ?_⟩
  · rw [State.closeGate_gates, PerGate.get_set, if_neg hg']
  · rw [State.closeGate_drive, if_pos hd]
  · rw [State.closeGate_drive, if_neg hd]
  · obtain ⟨c', hc', -, hactive⟩ := htable.gateEntry g i hi
    rw [hc] at hc'
    cases hc'
    exact closeGate_noticed (postEach_noticed hi hc (by rw [hactive]; decide) hb (by decide))
  · obtain ⟨u, hu, htl, hslots, hnot⟩ := closeGate_child htable hd
    have hmem : h ∈ s.driveList d := hl ▸ List.mem_cons_self
    obtain ⟨hretiring, hinForce, hfinished⟩ :=
      haltChannel_head hu (htable.driveNodup d) hl hc (s.closeFor g)
    refine ⟨fun hr => ?_, fun hr hb => ?_, fun hr hb => ?_⟩
    · obtain ⟨h1, h2⟩ := hretiring hr
      rcases hlist.headOpen d h tl c hl hc (hd ▸ hopen) with hi | ⟨-, hnil⟩
      · rw [hr] at hi
        cases hi
      · exact ⟨(htl.trans h1).trans hnil, (hslots h hmem).trans h2⟩
    · obtain ⟨h1, h2, h3, h4⟩ := hinForce hr hb
      refine ⟨htl.trans h1, (claim_of_slot (hslots h hmem)).trans h2, fun j hj => ?_, fun hbar => hnot _ _ _ (h4 hbar)⟩
      exact claim_of_slot ((hslots j (hl ▸ List.mem_cons_of_mem _ hj)).trans (h3 j hj))
    · obtain ⟨h1, h2, h3⟩ := hfinished hr hb
      exact ⟨htl.trans h1, (claim_of_slot (hslots h hmem)).trans h2, fun hbar => hnot _ _ _ (h3 hbar)⟩

theorem openingPhase_of_empty {s : State} {d : Drive} (hl : s.driveList d = []) :
    s.openingPhase d = if (s.drives.get d).pattern = .coast then .idle else .switching := by
  have hhead : s.head d = none := by rw [State.head, hl]; rfl
  simp only [State.openingPhase, State.wanted, hhead, Option.bind_none]
  by_cases hp : (s.drives.get d).pattern = .coast
  · simp [hp]
  · simp [hp, Ne.symm hp]

theorem openingPhase_of_head {s : State} {d : Drive} {h : SlotIx} {t : List SlotIx} {c : Claim}
    (hl : s.driveList d = h :: t) (hc : s.claim h = some c) :
    s.openingPhase d = if c.direction = (s.drives.get d).pattern then .running else .switching := by
  have hhead : s.head d = some h := by rw [State.head, hl]; rfl
  simp only [State.openingPhase, State.wanted, hhead, Option.bind_some, hc]
  by_cases hp : c.direction = (s.drives.get d).pattern <;> simp [hp]

/-- Settles O30. -/
theorem gateOpens : Obligations.GateOpens := by
  intro s g htable hlist hclosed hcond t
  have ht : t = s.openGate g := evalGate_of_opening hclosed hcond
  clear_value t
  subst ht
  refine ⟨?_, fun g' hg' => ?_, s.openGate_gateLists g, s.openGate_driveLists g, fun i hi c hc hb => ?_, fun d hd => ?_,
    fun d hd hl => ?_, fun d h tl c hd hl hc => ⟨?_, ?_⟩⟩
  · obtain ⟨i, p, hp⟩ := supplier_of_openCondition hcond
    refine ⟨i, p, hp, ?_⟩
    rw [State.openGate_gates, PerGate.get_set_self, hp, State.openCondition_close s g hcond]
    simp [State.openCondition_holds s g hcond]

  · rw [State.openGate_gates, PerGate.get_set, if_neg hg']
  · obtain ⟨c', hc', -, hactive⟩ := htable.gateEntry g i hi
    rw [hc] at hc'
    cases hc'
    exact openGate_noticed (postEach_noticed hi hc (by rw [hactive]; decide) hb (by decide))
  · rw [State.openGate_drive, if_neg hd]
  · rw [State.openGate_drive, if_pos hd, openingPhase_of_empty hl]
  · rw [State.openGate_drive, if_pos hd, openingPhase_of_head hl hc]
  · obtain ⟨u, hu, hslots, hnot⟩ := openGate_child htable hd
    have hmem : h ∈ s.driveList d := hl ▸ List.mem_cons_self
    have hsusp := hlist.headClosed d h tl c hl hc (hd ▸ hclosed)
    obtain ⟨h1, h2⟩ := releaseChannel_of_suspended (hu.list.trans hl) ((hu.claim hmem).trans hc) hsusp
    exact ⟨(claim_of_slot (hslots h hmem)).trans h1, fun hbar => hnot _ _ _ (h2 ((hu.barred _).trans hbar))⟩

end Sys2Proof.Machine
end


section
/-! SUPPORT and PROOFS. The ending of a claim by its place. -/

namespace Sys2Proof.Machine

/-! ### Claims that end now -/

theorem beginEnd_eq_putClaim {s : State} {i : SlotIx} {c : Claim} (hc : s.claim i = some c) (cause : EndCause) :
    s.beginEnd i cause = s.putClaim i { c with endCause := some cause, deadline := none } :=
  State.updClaim_eq_putClaim hc _

theorem endNow_slot_of_ne (s : State) (cause : EndCause) {i j : SlotIx} (h : j ≠ i) :
    (s.endNow cause i).slots[j] = s.slots[j] := by
  unfold State.endNow State.beginEnd
  rw [finish_slot, if_neg h, State.updClaim_slot, if_neg h]

/-- After the end of its course a claim's slot holds it SPENT, or nothing. -/
theorem finish_claim_self {s : State} {i : SlotIx} {c : Claim} (h : (s.finish i).claim i = some c) :
    c.state = .spent := by
  rw [State.claim_def, finish_slot, if_pos rfl] at h
  cases hx : s.slots[i].claim with
  | none =>
    rw [Slot.finished, hx] at h
    rw [hx] at h
    cases h
  | some x =>
    rw [finished_of_some hx] at h
    split at h
    · cases h
    · cases h
      rfl

theorem State.putClaim_putClaim (s : State) (i : SlotIx) (c c' : Claim) :
    (s.putClaim i c).putClaim i c' = s.putClaim i c' := by
  apply State.eq_of_fields <;> try rfl
  refine State.slots_ext fun j => ?_
  simp only [State.putClaim_slot]
  split <;> simp

/-- A list of one RETIRING claim put in place again changes nothing (R26, R28). -/
theorem changeList_of_retiring {s : State} {d : Drive} {i : SlotIx} {c : Claim} (hl : s.driveList d = [i])
    (hc : s.claim i = some c) (hr : c.state = .retiring) : s.changeList d (some i) [i] = s := by
  rw [changeList_frame]
  have hlists : s.driveLists.set d [i] = s.driveLists := by
    rw [← hl]
    exact PerDrive.set_get_self _ _
  have hslots : (s.changeList d (some i) [i]).slots = s.slots := by
    refine State.slots_ext fun j => ?_
    rw [changeList_slot s d _ (List.nodup_singleton i)]
    by_cases hj : j = i
    · subst hj
      rw [settled_claim_head rfl]
      rw [State.claim_def] at hc
      have hx : s.slots[j] = ⟨s.slots[j].gen, some c⟩ := by rw [← hc]
      rw [hx]
      simp [Slot.mapClaim, Claim.asHead, hr]
    · exact settled_of_not_mem (by simpa using hj) _
  have hnotices : (s.changeList d (some i) [i]).notices = s.notices := by
    rw [changeList_notices s d _ (List.nodup_singleton i), posted_of_same (List.head?_cons ..)]
    intro j hj
    rw [List.mem_singleton.mp hj]
    exact ⟨c, hc, by rw [hr]; decide⟩
  rw [hlists, hslots, hnotices]

theorem finish_notices_of_ne {s : State} {i : SlotIx} {c : Claim} (hc : s.claim i = some c) {l : Link}
    (hl : l ≠ c.owner) : (s.finish i).notices.get l = s.notices.get l := by
  cases hb : s.barred c.owner with
  | true => rw [finish_of_barred hc hb]; rfl
  | false =>
    rw [finish_of_notBarred hc hb, State.updClaim_notices]
    cases hk : s.noticeLink (finalKind c.endCause) i with
    | none => rw [post_of_noLink hk]
    | some m =>
      have hm : m = c.owner := by
        unfold State.noticeLink at hk
        rw [hc] at hk
        dsimp only at hk
        split at hk
        · cases hk
        · exact (Option.some.inj hk).symm
      rw [post_notices_of_link hk, PerLink.get_set, if_neg (hm ▸ hl)]

/-! ### An ending claim outside the lists -/

section Outside

variable {s : State} {i : SlotIx} {c : Claim} (hc : s.claim i = some c)
include hc

theorem endOutsideLists_of_complete {d : Drive} (hr : c.resource = .drive d) (hs : c.state = .complete)
    (cause : EndCause) : s.endOutsideLists cause i = s.endNow cause i := by
  unfold State.endOutsideLists
  simp [hc, hr, hs]

theorem endOutsideLists_of_analog {ch : AnalogCh} (hr : c.resource = .analog ch) (hs : c.state = .active)
    (cause : EndCause) : s.endOutsideLists cause i = (s.endNow cause i).dropDemand ch i := by
  unfold State.endOutsideLists
  simp [hc, hr, hs]

theorem endOutsideLists_of_edge {e : EdgeIn} (hr : c.resource = .edge e) (hs : c.state = .active)
    (cause : EndCause) : s.endOutsideLists cause i = s.endNow cause i := by
  unfold State.endOutsideLists
  simp [hc, hr, hs]

end Outside

/-- A sense claim stands in no list. -/
theorem TableInv.unlisted_of_sense {s : State} (h : TableInv s) {i : SlotIx} {c : Claim} (hc : s.claim i = some c)
    (hk : c.resource.kind = .asense ∨ c.resource.kind = .esense) : unlisted s.driveList s.gateList i := by
  refine ⟨fun d hd => ?_, fun g hg => ?_⟩
  · obtain ⟨c', hc', hr, -⟩ := h.driveEntry d i hd
    rw [hc] at hc'
    cases hc'
    rw [hr] at hk
    rcases hk with hk | hk <;> cases hk
  · obtain ⟨c', hc', hr, -⟩ := h.gateEntry g i hg
    rw [hc] at hc'
    cases hc'
    rw [hr] at hk
    rcases hk with hk | hk <;> cases hk

/-! ### Lists without an ending claim -/

/-- The state of a drive channel whose ending entries behind the head have ended (R30, R31). -/
def State.endedBehind (s : State) (cause : EndCause) (ending t : List SlotIx) : State :=
  (t.filter fun i => decide (i ∈ ending)).foldl (fun s i => s.endNow cause i) s

theorem endInDrive_of_cons {s : State} {d : Drive} {h : SlotIx} {t ending : List SlotIx} (hl : s.driveList d = h :: t)
    (hany : ∃ i ∈ h :: t, i ∈ ending) (cause : EndCause) : s.endInDrive d cause ending =
      if h ∈ ending ∧ ¬((s.endedBehind cause ending t).claimIs h fun c => decide (c.state = .retiring)) = true then
        if (t.filter fun i => decide (i ∉ ending)) ≠ [] ∨
            ((s.endedBehind cause ending t).drives.get d).duty = 0 then
          ((s.endedBehind cause ending t).endNow cause h).changeList d (some h) (t.filter fun i => decide (i ∉ ending))
        else (((s.endedBehind cause ending t).beginEnd h cause).updClaim h fun c =>
          { c with state := .retiring }).changeList d (some h) [h]
      else (s.endedBehind cause ending t).changeList d (some h) (h :: t.filter fun i => decide (i ∉ ending)) := by
  have hany' : ((h :: t).any fun j => decide (j ∈ ending)) = true := by simpa using hany
  unfold State.endInDrive
  rw [hl]
  dsimp only
  rw [if_neg (by simp [hany'])]
  rfl

theorem endInDrive_of_absent {s : State} {d : Drive} {ending : List SlotIx} (h : ∀ i ∈ s.driveList d, i ∉ ending)
    (cause : EndCause) : s.endInDrive d cause ending = s := by
  unfold State.endInDrive
  cases hl : s.driveList d with
  | nil => rfl
  | cons a t =>
    have hnone : ((a :: t).any fun i => decide (i ∈ ending)) = false := by simpa [hl] using h
    simp only [hnone]
    rfl

theorem foldl_endNow_driveLists (cause : EndCause) (is : List SlotIx) (s : State) :
    (is.foldl (fun s i => s.endNow cause i) s).driveLists = s.driveLists :=
  foldl_keeps State.driveLists (fun s i => s.endNow cause i) (fun _ _ => by simp) is s

theorem endInDrive_driveList_of_ne (s : State) {d e : Drive} (cause : EndCause) (ending : List SlotIx) (he : e ≠ d) :
    (s.endInDrive d cause ending).driveList e = s.driveList e := by
  cases hl : s.driveList d with
  | nil => rw [endInDrive_of_absent (by simp [hl])]
  | cons h t =>
    by_cases hany : ∃ i ∈ h :: t, i ∈ ending
    · have hfold := fun is => State.driveList_congr (foldl_endNow_driveLists cause is s) e
      rw [endInDrive_of_cons hl hany]
      split
      · split
        · rw [changeList_driveList, if_neg he]
          exact (State.driveList_congr (s := s.endedBehind cause ending t) (by simp) e).trans (hfold _)
        · rw [changeList_driveList, if_neg he]
          exact (State.driveList_congr rfl e).trans (hfold _)
      · rw [changeList_driveList, if_neg he]
        exact hfold _
    · rw [endInDrive_of_absent fun i hi hie => hany ⟨i, hl ▸ hi, hie⟩]


theorem endInGate_of_absent {s : State} {g : Gate} {ending : List SlotIx} (h : ∀ i ∈ s.gateList g, i ∉ ending)
    (cause : EndCause) : s.endInGate g cause ending = s := by
  have hnone : ((s.gateList g).any fun i => decide (i ∈ ending)) = false := by simpa using h
  unfold State.endInGate
  simp only [hnone]
  rfl

theorem foldl_of_fixed {α β : Type} {f : β → α → β} {b : β} :
    ∀ {xs : List α}, (∀ x ∈ xs, f b x = b) → xs.foldl f b = b
  | [], _ => rfl
  | x :: xs, h => by
    rw [List.foldl_cons, h x List.mem_cons_self]
    exact foldl_of_fixed fun y hy => h y (List.mem_cons_of_mem _ hy)

/-! ### One claim ends -/

/-- A single claim stands in one list at most, so its drive list is changed ahead of any gate. -/
theorem gateFirst_singleton {s : State} (h : TableInv s) (i : SlotIx) (d : Drive) : s.gateFirst [i] d = false := by
  by_contra hne
  simp only [State.gateFirst, Bool.not_eq_false, Bool.and_eq_true, List.any_eq_true, decide_eq_true_eq,
    List.mem_singleton] at hne
  obtain ⟨⟨⟨⟨_, hg, rfl⟩, ⟨_, hd, rfl⟩⟩, -⟩, -⟩ := hne
  obtain ⟨c, hc, hr, -⟩ := h.gateEntry _ _ hg
  obtain ⟨c', hc', hr', -⟩ := h.driveEntry _ _ hd
  rw [hc] at hc'
  cases hc'
  rw [hr] at hr'
  cases hr'

theorem endClaims_singleton {s : State} (h : TableInv s) (cause : EndCause) (i : SlotIx) :
    s.endClaims cause [i] = ([Gate.gt, .gb].foldl (fun s g => s.endInGate g cause [i])
      ([Drive.dl, .dr, .db].foldl (fun s d => s.endInDrive d cause [i]) s)).endOutsideLists cause i := by
  simp [State.endClaims, gateFirst_singleton h]

/-- A claim that stands in no list. -/
theorem endClaims_of_unlisted {s : State} (h : TableInv s) (cause : EndCause) {i : SlotIx}
    (hi : unlisted s.driveList s.gateList i) : s.endClaims cause [i] = s.endOutsideLists cause i := by
  rw [endClaims_singleton h, foldl_of_fixed (f := fun s d => State.endInDrive s d cause [i]), foldl_of_fixed]
  · intro g _
    refine endInGate_of_absent (fun j hj hji => hi.2 g ?_) cause
    rwa [← List.mem_singleton.mp hji]
  · intro d _
    refine endInDrive_of_absent (fun j hj hji => hi.1 d ?_) cause
    rwa [← List.mem_singleton.mp hji]

theorem filter_mem_singleton {l : List SlotIx} (hn : l.Nodup) {i : SlotIx} (hi : i ∈ l) :
    l.filter (fun j => decide (j ∈ [i])) = [i] := by
  obtain ⟨before, after, rfl⟩ := List.append_of_mem hi
  obtain ⟨-, hcons, hdisj⟩ := List.nodup_append.mp hn
  have hnone : ∀ {l : List SlotIx}, (∀ j ∈ l, j ≠ i) → l.filter (fun j => decide (j ∈ [i])) = [] := fun hl =>
    List.filter_eq_nil_iff.mpr fun j hj => by simpa using hl j hj
  rw [List.filter_append, hnone fun j hj => hdisj j hj i List.mem_cons_self, List.nil_append,
    List.filter_cons_of_pos (by simp), hnone fun j hj e => (List.nodup_cons.mp hcons).1 (e ▸ hj)]


/-- A gate's member ends: it leaves the list, and the gate evaluates (R15, R41). -/
theorem endInGate_singleton {s : State} (h : TableInv s) (cause : EndCause) {i : SlotIx} {g : Gate}
    (hi : i ∈ s.gateList g) : s.endInGate g cause [i] =
      ({ s.endNow cause i with gateLists := s.gateLists.set g ((s.gateList g).filter fun j => decide (j ≠ i)) } :
        State).evalGate g := by
  have hany : ((s.gateList g).any fun j => decide (j ∈ [i])) = true := by simpa using hi
  have hrest : ((s.gateList g).filter fun j => decide (j ∉ [i])) = (s.gateList g).filter fun j => decide (j ≠ i) := by
    simp
  have hlists : (s.endNow cause i).gateLists = s.gateLists := by simp
  unfold State.endInGate
  dsimp only
  rw [if_pos hany, filter_mem_singleton (h.gateNodup g) hi, hrest, List.foldl_cons, List.foldl_nil, hlists]

/-- An entry of a gate's list. -/

theorem endClaims_of_gateEntry {s : State} (h : TableInv s) (cause : EndCause) {i : SlotIx} {g : Gate}
    (hi : i ∈ s.gateList g) : s.endClaims cause [i] = s.endInGate g cause [i] := by
  obtain ⟨c, hc, hr, -⟩ := h.gateEntry g i hi
  have hdrives : [Drive.dl, .dr, .db].foldl (fun s d => s.endInDrive d cause [i]) s = s := by
    refine foldl_of_fixed fun d _ => endInDrive_of_absent (fun j hj hji => ?_) cause
    obtain ⟨c', hc', hr', -⟩ := h.driveEntry d j hj
    rw [List.mem_singleton.mp hji, hc] at hc'
    cases hc'
    rw [hr] at hr'
    cases hr'
  have hgates : [Gate.gt, .gb].foldl (fun s g => s.endInGate g cause [i]) s = s.endInGate g cause [i] := by
    have hother : ∀ {u : State} {g' : Gate}, g' ≠ g → u.gateList g' = s.gateList g' →
        u.endInGate g' cause [i] = u := fun hne hu => endInGate_of_absent (fun j hj hji => by
      obtain ⟨c', hc', hr', -⟩ := h.gateEntry _ j (hu ▸ hj)
      rw [List.mem_singleton.mp hji, hc] at hc'
      cases hc'
      rw [hr] at hr'
      exact hne (Resource.gate.inj hr').symm) cause
    have hrest : ∀ g', g' ≠ g → (s.endInGate g cause [i]).gateList g' = s.gateList g' := fun g' hg' => by
      rw [endInGate_singleton h cause hi, State.gateList_congr (State.evalGate_gateLists _ g)]
      exact (PerGate.get_set ..).trans (if_neg hg')
    cases g with
    | gt =>
      simp only [List.foldl_cons, List.foldl_nil]
      exact hother (by decide) (hrest .gb (by decide))
    | gb =>
      simp only [List.foldl_cons, List.foldl_nil]
      rw [hother (u := s) (g' := .gt) (by decide) rfl]
  rw [endClaims_singleton h, hdrives, hgates]
  unfold State.endOutsideLists
  cases hct : (s.endInGate g cause [i]).claim i with
  | none => rfl
  | some c' =>
    obtain ⟨c'', hc'', -, hr', -⟩ := s.endInGate_descends g cause [i] i c' hct
    rw [hc] at hc''
    cases hc''
    rw [hr] at hr'
    simp [hr']

/-- An entry of a drive channel's list: the list changes, and the claim that ended there is COMPLETE in no case. -/
theorem endClaims_of_driveEntry {s : State} (h : TableInv s) (cause : EndCause) {i : SlotIx} {d : Drive}
    (hi : i ∈ s.driveList d)
    (hend : ∀ c, (s.endInDrive d cause [i]).claim i = some c → c.state ≠ .complete) :
    s.endClaims cause [i] = s.endInDrive d cause [i] := by
  obtain ⟨c, hc, hr, -⟩ := h.driveEntry d i hi
  have hother : ∀ {u : State} {e : Drive}, e ≠ d → u.driveList e = s.driveList e → u.endInDrive e cause [i] = u :=
    fun hne hu => endInDrive_of_absent (fun j hj hji => by
      rw [List.mem_singleton.mp hji] at hj
      exact h.apart hne hi (hu ▸ hj)) cause
  have hrest : ∀ e, e ≠ d → (s.endInDrive d cause [i]).driveList e = s.driveList e := fun e he =>
    endInDrive_driveList_of_ne s cause [i] he
  have hdrives : [Drive.dl, .dr, .db].foldl (fun s d => s.endInDrive d cause [i]) s = s.endInDrive d cause [i] := by
    cases d with
    | dl =>
      simp only [List.foldl_cons, List.foldl_nil]
      rw [hother (e := .dr) (by decide) (hrest .dr (by decide)), hother (e := .db) (by decide) (hrest .db (by decide))]
    | dr =>
      simp only [List.foldl_cons, List.foldl_nil]
      rw [hother (u := s) (e := .dl) (by decide) rfl, hother (e := .db) (by decide) (hrest .db (by decide))]
    | db =>
      simp only [List.foldl_cons, List.foldl_nil]
      rw [hother (u := s) (e := .dl) (by decide) rfl, hother (u := s) (e := .dr) (by decide) rfl]
  have hgates : [Gate.gt, .gb].foldl (fun s g => s.endInGate g cause [i]) (s.endInDrive d cause [i]) =
      s.endInDrive d cause [i] := by
    refine foldl_of_fixed fun g _ => endInGate_of_absent (fun j hj hji => ?_) cause
    rw [State.gateList_congr (State.endInDrive_gateLists s d cause [i]) g] at hj
    obtain ⟨c', hc', hr', -⟩ := h.gateEntry g j hj
    rw [List.mem_singleton.mp hji, hc] at hc'
    cases hc'
    rw [hr] at hr'
    cases hr'
  rw [endClaims_singleton h, hdrives, hgates]
  unfold State.endOutsideLists
  cases hct : (s.endInDrive d cause [i]).claim i with
  | none => rfl
  | some c' =>
    obtain ⟨c'', hc'', -, hr', -⟩ := s.endInDrive_descends d cause [i] i c' hct
    rw [hc] at hc''
    cases hc''
    rw [hr] at hr'
    simp [hr', hend c' hct]

/-! ### The ending of a drive claim (R16, R30) -/

/-- An entry behind the head ends (R30). -/
theorem endInDrive_of_behind {s : State} {d : Drive} {h i : SlotIx} {t : List SlotIx} (hl : s.driveList d = h :: t)
    (hn : (h :: t).Nodup) (hi : i ∈ t) (cause : EndCause) : s.endInDrive d cause [i] =
      (s.endNow cause i).changeList d (some h) ((h :: t).filter fun j => decide (j ≠ i)) := by
  obtain ⟨hht, hnt⟩ := List.nodup_cons.mp hn
  have hne : h ≠ i := fun e => hht (e ▸ hi)
  have hrest : t.filter (fun j => decide (j ∉ [i])) = t.filter fun j => decide (j ≠ i) := by simp
  rw [endInDrive_of_cons hl ⟨i, List.mem_cons_of_mem _ hi, List.mem_singleton_self i⟩, if_neg (by simp [hne]), hrest,
    State.endedBehind, filter_mem_singleton hnt hi, List.filter_cons_of_pos (by simp [hne])]
  rfl

section Head

variable {s : State} {d : Drive} {i : SlotIx} {t : List SlotIx} {c : Claim} (hl : s.driveList d = i :: t)
  (hn : (i :: t).Nodup) (hc : s.claim i = some c) (hr : c.state ≠ .retiring) (cause : EndCause)
include hl hn hc hr

/-- The head ends (R16, R30). -/
theorem endInDrive_of_head : s.endInDrive d cause [i] =
    if t ≠ [] ∨ (s.drives.get d).duty = 0 then (s.endNow cause i).changeList d (some i) t
    else ((s.beginEnd i cause).updClaim i fun c => { c with state := .retiring }).changeList d (some i) [i] := by
  obtain ⟨hit, -⟩ := List.nodup_cons.mp hn
  have hending : t.filter (fun j => decide (j ∈ [i])) = [] :=
    List.filter_eq_nil_iff.mpr fun j hj => by simpa using fun e : j = i => hit (e ▸ hj)
  have hrest : t.filter (fun j => decide (j ∉ [i])) = t :=
    List.filter_eq_self.mpr fun j hj => by simpa using fun e : j = i => hit (e ▸ hj)
  have hended : s.endedBehind cause [i] t = s := by rw [State.endedBehind, hending, List.foldl_nil]
  rw [endInDrive_of_cons hl ⟨i, List.mem_cons_self, List.mem_singleton_self i⟩, hended, hrest,
    if_pos ⟨List.mem_singleton_self i, by simp [State.claimIs, hc, hr]⟩]

/-- A head alone at a duty above 0 stays as RETIRING (R16). -/
theorem endInDrive_of_windingDown (ht : t = []) (hd : (s.drives.get d).duty ≠ 0) : s.endInDrive d cause [i] =
    s.putClaim i { c with state := .retiring, endCause := some cause, deadline := none } := by
  subst ht
  rw [endInDrive_of_head hl hn hc hr, if_neg (by simp [hd]), beginEnd_eq_putClaim hc,
    State.updClaim_eq_putClaim (by rw [State.putClaim_claim, if_pos rfl]), State.putClaim_putClaim]
  exact changeList_of_retiring (by exact hl) (by rw [State.putClaim_claim, if_pos rfl]) rfl

end Head

/-- Settles O22. -/
theorem endingFollowsPlaceAndCourse : Obligations.EndingFollowsPlaceAndCourse := by
  refine ⟨fun s cause i c htable hlist hc => ?_, fun s i c hc => ?_⟩
  · intro ended t
    have hended : s.endNow cause i = ended := by rw [State.endNow, beginEnd_eq_putClaim hc]
    have hunlisted : c.state.listed = false → c.state ≠ .active → t = s.endOutsideLists cause i := fun h1 h2 =>
      endClaims_of_unlisted htable cause (htable.unlisted_of_state hc h1 h2)
    have hsense : c.resource.kind = .asense ∨ c.resource.kind = .esense → t = s.endOutsideLists cause i := fun hk =>
      endClaims_of_unlisted htable cause (htable.unlisted_of_sense hc hk)
    refine ⟨fun ch hr hs => ?_, fun e hr hs => ?_, fun g hr hs => ?_, fun d hr => ⟨fun hs => ?_, fun hs hhead => ?_,
      fun hs hhead => ⟨fun hstay => ?_, fun hlen hduty => ?_⟩⟩⟩
    · rw [hsense (.inl (by rw [hr]; rfl)), endOutsideLists_of_analog hc hr hs, hended]
    · rw [hsense (.inr (by rw [hr]; rfl)), endOutsideLists_of_edge hc hr hs, hended]
    · have hi := hlist.gateListed i c g hc hr hs
      change s.endClaims cause [i] = _
      rw [endClaims_of_gateEntry htable cause hi, endInGate_singleton htable cause hi, hended]
    · rw [hunlisted (by rw [hs]; rfl) (by rw [hs]; decide), endOutsideLists_of_complete hc hr hs, hended]
    · have hi := hlist.driveListed i c d hc hr (by rw [hs]; rfl)
      obtain ⟨h, tl, hl⟩ := List.exists_cons_of_ne_nil (List.ne_nil_of_mem hi)
      have hh : s.head d = some h := by rw [State.head, hl]; rfl
      have hit : i ∈ tl := (List.mem_cons.mp (hl ▸ hi)).resolve_left fun e => hhead (e ▸ hh)
      have hend := endInDrive_of_behind hl (hl ▸ htable.driveNodup d) hit cause
      change s.endClaims cause [i] = _
      rw [endClaims_of_driveEntry htable cause hi, hend, hh, hl, hended]
      intro c' hc'
      rw [hend, State.claim_def, changeList_slot_of_not_mem _ d _ ((hl ▸ htable.driveNodup d).filter _) (by simp)] at hc'
      rw [finish_claim_self hc']
      decide
    · obtain ⟨tl, hl⟩ := List.head?_eq_some_iff.mp hhead
      have hi : i ∈ s.driveList d := hl ▸ List.mem_cons_self
      have hnr : c.state ≠ .retiring := by rcases hs with h | h <;> rw [h] <;> decide
      have hn := hl ▸ htable.driveNodup d
      have hstay' : tl ≠ [] ∨ (s.drives.get d).duty = 0 := hstay.imp_left fun h e => h (by rw [hl, e]; rfl)
      have hend := endInDrive_of_head hl hn hc hnr cause
      rw [if_pos hstay'] at hend
      change s.endClaims cause [i] = _
      rw [endClaims_of_driveEntry htable cause hi, hend, hended, hl, List.tail_cons]
      intro c' hc'
      obtain ⟨hit, hnt⟩ := List.nodup_cons.mp hn
      rw [hend, State.claim_def, changeList_slot_of_not_mem _ d _ hnt hit] at hc'
      rw [finish_claim_self hc']
      decide
    · obtain ⟨tl, hl⟩ := List.head?_eq_some_iff.mp hhead
      have hi : i ∈ s.driveList d := hl ▸ List.mem_cons_self
      have hnr : c.state ≠ .retiring := by rcases hs with h | h <;> rw [h] <;> decide
      have hnil : tl = [] := List.length_eq_zero_iff.mp (by simpa [hl] using hlen)
      have hend := endInDrive_of_windingDown hl (hl ▸ htable.driveNodup d) hc hnr cause hnil hduty
      change s.endClaims cause [i] = _
      rw [endClaims_of_driveEntry htable cause hi, hend]
      intro c' hc'
      rw [hend, State.putClaim_claim, if_pos rfl] at hc'
      cases hc'
      exact (by decide : ClaimState.retiring ≠ .complete)
  · intro t
    refine ⟨finish_frame s i, fun j hj => ?_, s.finish_noticesKept i, fun l hl => finish_notices_of_ne hc hl, fun hb => ?_,
      fun hb => ⟨?_, fun hs cause hcause => ?_⟩⟩
    · rw [finish_slot, if_neg hj]
    · refine ⟨(congrArg State.notices (finish_of_barred hc hb) : (s.finish i).notices = _), ?_⟩

      rw [finish_slot, if_pos rfl, finished_of_some hc, if_pos hb]
    · rw [finish_slot, if_pos rfl, finished_of_some hc, if_neg (by simp [hb])]
    · change (s.finish i).noticed _ _ _
      rw [finish_of_notBarred hc hb, hcause]
      have hpost := fun k hk => post_noticed (k := k) hc hs hb hk
      cases cause
      · exact hpost .retired (by decide)
      · exact hpost .lapsed (by decide)

end Sys2Proof.Machine
end

section
/-! SUPPORT and PROOFS. OPEN and AMEND of a claim that passes every check. -/

namespace Sys2Proof.Machine

/-! ### Slots that a gate's evaluation leaves -/

theorem exists_drive_of_otherGate (g : Gate) : ∃ d : Drive, d.parent ≠ g := by
  cases g
  · exact ⟨.db, by decide⟩
  · exact ⟨.dl, by decide⟩

/-- Work on a gate's channels leaves a slot that stands in no drive list. -/
theorem WorksInList.foldl_slot {work : State → Drive → State} (h : WorksInList work) {s : State} {j : SlotIx}
    (hn : ∀ d, (s.driveList d).Nodup) (hj : ∀ d, j ∉ s.driveList d) (g : Gate) :
    (g.children.foldl work s).slots[j] = s.slots[j] := by
  obtain ⟨d, hd⟩ := exists_drive_of_otherGate g
  refine (h.foldl_others (L := [j]) (children_nodup g) (fun hm => hd ((mem_children g d).mp hm)) (fun e _ => hn e)
    fun e _ x hx => ?_).2 j (List.mem_singleton_self j)
  rw [List.mem_singleton.mp hx]
  exact hj e

theorem evalGate_slot_of_unlisted {s : State} {j : SlotIx} (hn : ∀ d, (s.driveList d).Nodup)
    (hj : ∀ d, j ∉ s.driveList d) (g : Gate) : (s.evalGate g).slots[j] = s.slots[j] := by
  have hwork : ∀ {work : State → Drive → State} {u : State}, WorksInList work → u.slots = s.slots →
      u.driveLists = s.driveLists → (g.children.foldl work u).slots[j] = s.slots[j] := fun hw hs hl => by
    rw [hw.foldl_slot (fun d => State.driveList_congr hl d ▸ hn d) (fun d => State.driveList_congr hl d ▸ hj d), hs]
  cases ho : s.gateIsOpen g <;> cases hc : s.openCondition g
  · rw [evalGate_of_steadyClosed ho hc, State.rePattern_slots]
  · rw [evalGate_of_opening ho hc, openGate_eq]
    exact hwork releaseChannel_worksInList (by simp [State.opening]) (by simp [State.opening])
  · rw [evalGate_of_closing ho hc, closeGate_eq]
    exact hwork (haltChannel_worksInList _) (by simp [State.closing]) (by simp [State.closing])
  · rw [evalGate_of_steadyOpen ho hc]
    rfl

/-! ### A claim put into a FREE slot -/

/-- A claim put into a FREE slot leaves the lists and the notice sets in agreement with the slots. -/
theorem putClaim_tableInv {s : State} (h : TableInv s) {i : SlotIx} (hi : s.claim i = none) (c : Claim) :
    TableInv (s.putClaim i c) where
  driveEntry d j hj := by
    obtain ⟨c', hc', hrest⟩ := h.driveEntry d j hj
    rw [State.putClaim_claim, if_neg fun e => by rw [e, hi] at hc'; cases hc']
    exact ⟨c', hc', hrest⟩
  driveNodup := h.driveNodup
  gateEntry g j hj := by
    obtain ⟨c', hc', hrest⟩ := h.gateEntry g j hj
    rw [State.putClaim_claim, if_neg fun e => by rw [e, hi] at hc'; cases hc']
    exact ⟨c', hc', hrest⟩
  gateNodup := h.gateNodup
  final l e he hf := by
    obtain ⟨c', hc', hrest⟩ := h.final l e he hf
    rw [State.putClaim_claim, if_neg fun e' => by rw [e', hi] at hc'; cases hc']
    exact ⟨c', hc', hrest⟩
  sorted := h.sorted
  barredEmpty := h.barredEmpty

theorem classOf_putClaim_of_ne (s : State) {i j : SlotIx} (h : j ≠ i) (c : Claim) :
    (s.putClaim i c).classOf j = s.classOf j := by
  rw [State.classOf, State.putClaim_claim, if_neg h]
  rfl

theorem classOf_putClaim_self (s : State) (i : SlotIx) (c : Claim) : (s.putClaim i c).classOf i = c.cls.val :=
  classOf_of_claim (by rw [State.putClaim_claim, if_pos rfl])

/-- A list whose order a claim put elsewhere leaves. -/
theorem pairwise_putClaim {s : State} {l : List SlotIx} {i : SlotIx} (hi : i ∉ l) (c : Claim)
    (h : l.Pairwise fun x y => s.classOf y ≤ s.classOf x) :
    l.Pairwise fun x y => (s.putClaim i c).classOf y ≤ (s.putClaim i c).classOf x := by
  refine h.imp_of_mem fun {x y} hx hy hle => ?_
  rwa [classOf_putClaim_of_ne s fun e : y = i => hi (e ▸ hy), classOf_putClaim_of_ne s fun e : x = i => hi (e ▸ hx)]

theorem free_not_mem_driveList {s : State} (h : TableInv s) {i : SlotIx} (hi : s.claim i = none) (d : Drive) :
    i ∉ s.driveList d := fun hm => by
  obtain ⟨c, hc, -⟩ := h.driveEntry d i hm
  rw [hi] at hc
  cases hc

theorem free_not_mem_gateList {s : State} (h : TableInv s) {i : SlotIx} (hi : s.claim i = none) (g : Gate) :
    i ∉ s.gateList g := fun hm => by
  obtain ⟨c, hc, -⟩ := h.gateEntry g i hm
  rw [hi] at hc
  cases hc

/-! ### OPEN (R5) -/

theorem openRequest_of_passes {s : State} {l : Link} {body : List Byte} {r : Resource} {i : SlotIx} {f : ClaimFields}
    (h : s.OpenPasses l body r i f) : s.openRequest l body =
      ((s.putClaim i (s.newClaim l r (openTag body) f)).handOver r i).ok (.claim (s.handle i)
        (((s.putClaim i (s.newClaim l r (openTag body) f)).handOver r i).stateOf i)) := by
  have hfree : s.freeSlots.head? = some i := s.freeSlots_head i h.room.1 h.room.2
  have htag : s.tagSlot l (BitVec.ofNat 16 (be16At body 2)) = none := s.tagSlot_none l _ h.tag
  simp [State.openRequest, State.inRun_of_run h.run, h.notBarred, h.known, h.reach, hfree, not_le.mpr h.quota, htag,
    h.values, openTag]

/-- The response to an OPEN names the state that its claim has come to (R5). -/
theorem exec_open_of_passes {s : State} {l : Link} {body : List Byte} {r : Resource} {i : SlotIx} {f : ClaimFields}
    (ht : s.canTake l) (hb : body.length ≤ 28) (h : s.OpenPasses l body r i f) {t : State} {st : ClaimState}
    (hover : (s.putClaim i (s.newClaim l r (openTag body) f)).handOver r i = t) (hst : t.stateOf i = st) :
    exec (.openClaim l body) s = .next (t.holdResponse l ⟨0x10#8, .ok, .claim (s.handle i) st⟩) := by
  rw [exec_openClaim ht hb, openRequest_of_passes h, hover, hst, ok_outcome]

theorem stateOf_putClaim (s : State) (i : SlotIx) (c : Claim) : (s.putClaim i c).stateOf i = c.state :=
  stateOf_of_claim (by rw [State.putClaim_claim, if_pos rfl])

/-- Settles O15. -/
theorem openTakesLowestFreeSlot : Obligations.OpenTakesLowestFreeSlot := by
  refine ⟨fun l body r i f s ht hb h => ?_, fun l body d i f b s ht hb h hf htable hlist => ?_,
    fun l body g i f b s ht hb h hf htable hlist => ?_⟩
  · intro record opened
    refine ⟨fun c b hr hf => ?_, fun e b hr hf => ?_⟩
    · subst hr
      have hnew : s.newClaim l (.analog c) (openTag body) f = record (.asense b ⟨none, none, .inBand, 0, 0, false, 0⟩) := by
        unfold State.newClaim
        rw [hf]
        rfl
      exact exec_open_of_passes ht hb h (by rw [hnew]; rfl) (stateOf_putClaim ..)
    · subst hr
      have hnew : s.newClaim l (.edge e) (openTag body) f = record
          (.esense b ⟨none, false, none, 0, none, 0, false, s.inputs[e].level, 0, false, false⟩) := by
        unfold State.newClaim
        rw [hf]
        rfl
      exact exec_open_of_passes ht hb h (by rw [hnew]; rfl) (stateOf_putClaim ..)
  · intro record t st
    have hnew : s.newClaim l (.drive d) (openTag body) f = record := by
      rw [State.newClaim, hf]
      rfl
    have hout := free_not_mem_driveList htable h.room.1 d
    have hj : (s.putClaim i record).CanJoin d i record :=
      ⟨putClaim_tableInv htable h.room.1 record, pairwise_putClaim hout record (hlist.driveOrder d), hout,
        by rw [State.putClaim_claim, if_pos rfl], (by decide : ClaimState.standby ≠ .spent)⟩
    have hclaim := join_claim_self hj (by decide : ClaimState.standby ≠ .retiring)
    exact ⟨exec_open_of_passes ht hb h (by rw [hnew]; rfl) (stateOf_of_claim hclaim), congrArg (Option.map _) hclaim⟩
  · intro cls record list joined
    have hnew : s.newClaim l (.gate g) (openTag body) f = record := by
      unfold State.newClaim
      rw [hf]
      rfl
    have hout := free_not_mem_gateList htable h.room.1 g
    have hplace : (s.putClaim i record).insertByClass i (s.gateList g) = list := by
      rw [insertByClass_eq (pairwise_putClaim hout record (hlist.gateOrder g)), classOf_putClaim_self]
      have hclass : ∀ j ∈ s.gateList g, (s.putClaim i record).classOf j = s.classOf j := fun j hj =>
        classOf_putClaim_of_ne s (fun e : j = i => hout (e ▸ hj)) record
      congr 1
      · exact List.filter_congr fun j hj => by rw [hclass j hj]
      · exact congrArg _ (List.filter_congr fun j hj => by rw [hclass j hj])
    have hslot : (joined.evalGate g).slots[i] = joined.slots[i] :=
      evalGate_slot_of_unlisted (s := joined) htable.driveNodup (free_not_mem_driveList htable h.room.1) g
    refine exec_open_of_passes ht hb h ?_ ?_
    · rw [hnew]
      change State.evalGate { s.putClaim i record with
        gateLists := s.gateLists.set g ((s.putClaim i record).insertByClass i (s.gateList g)) } g = _
      rw [hplace]
    · refine (stateOf_of_claim (c := record) ((claim_of_slot hslot).trans ?_))
      exact (State.putClaim_claim s i i record).trans (if_pos rfl)

/-! ### AMEND (R10, R33 to R35) -/

theorem amendRequest_of_passes {s : State} {l : Link} {body : List Byte} {i : SlotIx} {c : Claim} {f : ClaimFields}
    (h : s.OwnerPasses l body i c) (hc : c.inRange) (hf : f.inRange c.resource)
    (hbody : body = amendBytes (byteAt body 0) (byteAt body 1) f) : s.amendRequest l body =
      ((s.putClaim i (s.amendedClaim c f)).handAmended c i).ok
        (.state (((s.putClaim i (s.amendedClaim c f)).handAmended c i).stateOf i)) := by
  obtain ⟨-, -, hread, -⟩ := claimBodiesReadAsLaidOut
  obtain ⟨hfields, hkind, -⟩ := hread c.resource (byteAt body 0) (byteAt body 1) f hf
  rw [← hbody] at hfields hkind
  have hkind' : kindOf? (natAt body 2) = some c.kind := hkind.trans (congrArg _ (kind_of_inRange hc.2.1).symm)
  rw [amendRequest_eq, ownerChecks_of_named h.run h.named, State.ownedOngoing_of_passes h, State.amendOwned,
    if_neg (not_not.mpr hkind'), hfields]

theorem exec_amend_of_passes {s : State} {l : Link} {body : List Byte} {i : SlotIx} {c : Claim} {f : ClaimFields}
    (ht : s.canTake l) (hb : body.length ≤ 28) (h : s.OwnerPasses l body i c) (hc : c.inRange) (hf : f.inRange c.resource)
    (hbody : body = amendBytes (byteAt body 0) (byteAt body 1) f) {t : State} {st : ClaimState}
    (hover : (s.putClaim i (s.amendedClaim c f)).handAmended c i = t) (hst : t.stateOf i = st) :
    exec (.amend l body) s = .next (t.holdResponse l ⟨0x11#8, .ok, .state st⟩) := by
  rw [exec_amend ht hb, amendRequest_of_passes h hc hf hbody, hover, hst, ok_outcome]

/-- A claim replaced by one of the same owner, resource and state leaves the table in agreement. -/
theorem putClaim_tableInv_of_same {s : State} (h : TableInv s) {i : SlotIx} {c c' : Claim} (hc : s.claim i = some c)
    (howner : c'.owner = c.owner) (hres : c'.resource = c.resource) (hstate : c'.state = c.state) :
    TableInv (s.putClaim i c') := by
  have hupd : s.putClaim i c' = s.updClaim i fun _ => c' := (State.updClaim_eq_putClaim hc fun _ => c').symm
  rw [hupd]
  refine h.upd i _ fun x hx => ?_
  rw [hc] at hx
  cases hx
  exact ⟨howner, hres, fun hl => .inl (hstate ▸ hl), fun ha => .inl (hstate ▸ ha), fun hs => hstate ▸ hs⟩

theorem amended_analog (r : AnalogRun) : r.amended = { r with above := 0, below := 0 } := rfl

theorem edgeAmended_of_mode {old new : EdgeBody} (h : new.mode ≠ old.mode) (v : Level) (r : EdgeRun) :
    EdgeRun.amended old new v r = ⟨none, false, none, 0, none, 0, false, v, 0, false, false⟩ := if_pos h

theorem edgeAmended_of_edge {old new : EdgeBody} (hm : new.mode = old.mode) (hl : new.mode ≠ .level)
    (he : new.edge ≠ old.edge) (v : Level) (r : EdgeRun) : EdgeRun.amended old new v r =
      { r with lastStamp := none, edgeSeen := false, running := 0, stallCount := 0, candidate := 0 } := by
  rw [EdgeRun.amended, if_neg (not_not.mpr hm)]
  exact if_pos ⟨he, hl⟩

theorem edgeAmended_of_same {old new : EdgeBody} (hm : new.mode = old.mode)
    (h : new.mode = .level ∨ new.edge = old.edge) (v : Level) (r : EdgeRun) :
    EdgeRun.amended old new v r = { r with stallCount := 0, candidate := 0 } := by
  rw [EdgeRun.amended, if_neg (not_not.mpr hm)]
  exact if_neg fun hne => h.elim hne.2 hne.1

/-- Settles O19. -/
theorem amendReplacesBodyAndHold : Obligations.AmendReplacesBodyAndHold := by
  refine ⟨fun l body i c f s ht hb h hc hf hbody => ?_, fun l body i c f s ht hb h hc hf hbody htable hlist => ?_⟩
  · intro amended
    have hstand : ∀ p, s.payloadAtAmend c f.body = p →
        (s.putClaim i (s.amendedClaim c f)).handAmended c i = s.putClaim i (s.amendedClaim c f) → amended p := by
      rintro p rfl hover
      exact exec_amend_of_passes ht hb h hc hf hbody hover (stateOf_putClaim ..)
    refine ⟨fun ch b0 r b hr hp hfb => ?_, fun e b0 r b hr hp hfb => ⟨fun hm => ?_, fun hm hl he => ?_, fun hm he => ?_⟩,
      fun d b0 left b hr hp hfb hs => ?_⟩
    · exact hstand _ (by simp only [State.payloadAtAmend, hp, hfb, amended_analog]) (by simp only [State.handAmended, hr])
    · exact hstand _ (by simp only [State.payloadAtAmend, hp, hfb, hr, edgeAmended_of_mode hm])
        (by simp only [State.handAmended, hr])
    · exact hstand _ (by simp only [State.payloadAtAmend, hp, hfb, edgeAmended_of_edge hm hl he])
        (by simp only [State.handAmended, hr])
    · exact hstand _ (by simp only [State.payloadAtAmend, hp, hfb, edgeAmended_of_same hm he])
        (by simp only [State.handAmended, hr])
    · exact hstand _ (by simp only [State.payloadAtAmend, hp, hfb]) (by simp only [State.handAmended, hr, hs, if_false])
  · intro amended
    have hkind := hc.2.1
    refine ⟨fun d b hr hfb hs => ?_, fun g b hr hfb hs => ?_⟩
    · intro t st
      have hpay : s.payloadAtAmend c f.body = .drive b b.burst := by
        rw [hr] at hkind
        cases hp : c.payload <;> rw [hp] at hkind
        case drive => simp only [State.payloadAtAmend, hp, hfb]
        all_goals exact hkind.elim
      have hput : s.putClaim i (s.amendedClaim c f) = amended (.drive b b.burst) := by
        rw [State.amendedClaim, hpay]
        rfl
      have hout : i ∉ s.driveList d := fun hm => by
        obtain ⟨c', hc', -, hlisted⟩ := htable.driveEntry d i hm
        rw [h.claim] at hc'
        cases hc'
        rw [hs] at hlisted
        cases hlisted
      have hj : (amended (.drive b b.burst)).CanJoin d i { c with
          hold := f.hold, deadline := s.deadlineOf f.hold, wantsSample := f.wantsSample, payload := .drive b b.burst } :=
        ⟨putClaim_tableInv_of_same htable h.claim rfl rfl rfl, pairwise_putClaim hout _ (hlist.driveOrder d), hout,
          by rw [State.putClaim_claim, if_pos rfl], by rw [hs]; decide⟩
      refine exec_amend_of_passes ht hb h hc hf hbody ?_ (stateOf_of_claim (join_claim_self hj (by rw [hs]; decide)))
      rw [hput]
      simp only [State.handAmended, hr, hs, if_true]
      rfl
    · have hpay : s.payloadAtAmend c f.body = .gate b := by
        rw [hr] at hkind
        cases hp : c.payload <;> rw [hp] at hkind
        case gate => simp only [State.payloadAtAmend, hp, hfb]
        all_goals exact hkind.elim
      have hput : s.putClaim i (s.amendedClaim c f) = amended (.gate b) := by
        rw [State.amendedClaim, hpay]
        rfl
      have hout : ∀ d, i ∉ s.driveList d := fun d hm => by
        obtain ⟨c', hc', hr', -⟩ := htable.driveEntry d i hm
        rw [h.claim] at hc'
        cases hc'
        rw [hr] at hr'
        cases hr'
      have hslot : ((amended (.gate b)).evalGate g).slots[i] = (amended (.gate b)).slots[i] :=
        evalGate_slot_of_unlisted (s := amended (.gate b)) htable.driveNodup hout g
      refine exec_amend_of_passes ht hb h hc hf hbody ?_ ?_
      · rw [hput]
        simp only [State.handAmended, hr]
      · have hclaim : (amended (.gate b)).claim i = some { c with
            hold := f.hold, deadline := s.deadlineOf f.hold, wantsSample := f.wantsSample, payload := .gate b } :=
          (State.putClaim_claim s i i _).trans (if_pos rfl)
        exact (stateOf_of_claim ((claim_of_slot hslot).trans hclaim)).trans hs


end Sys2Proof.Machine
end

section
/-! SUPPORT. The sample scheduler at an advance: which requests it raises, which moments it counts as missed, and what
the grant decision reads. -/

namespace Sys2Proof

/-- A payload without its runtime. -/
def Payload.bare : Payload → Payload
  | .drive b _ => .drive b 0
  | .gate b => .gate b
  | .asense b _ => .asense b AnalogRun.fresh0
  | .esense b _ => .esense b (EdgeRun.start .low)

/-- A claim without its runtime. -/
def Claim.record (c : Claim) : Claim := { c with payload := c.payload.bare }

end Sys2Proof

namespace Sys2Proof.Machine

/-! ### Claims but for their runtime -/

/-- Every claim stands as it was, but for its runtime. -/
def State.SameRecords (s t : State) : Prop := ∀ i, (t.claim i).map Claim.record = (s.claim i).map Claim.record

theorem State.SameRecords.refl (s : State) : s.SameRecords s := fun _ => rfl

theorem State.SameRecords.trans {s t u : State} (h : s.SameRecords t) (k : t.SameRecords u) : s.SameRecords u :=
  fun i => (k i).trans (h i)

theorem State.SameRecords.symm {s t : State} (h : s.SameRecords t) : t.SameRecords s := fun i => (h i).symm

theorem State.SameRecords.of_slots {s t : State} (h : t.slots = s.slots) : s.SameRecords t :=
  fun i => by rw [State.claim_congr h]

theorem State.SameRecords.foldl {α : Type} {f : State → α → State} (h : ∀ (s : State) a, s.SameRecords (f s a))
    (as : List α) (s : State) : s.SameRecords (as.foldl f s) :=
  List.foldlRecOn (motive := fun t => s.SameRecords t) as f (.refl s) fun _ ht a _ => ht.trans (h _ a)

theorem updClaim_sameRecords (s : State) (i : SlotIx) {f : Claim → Claim} (hf : ∀ c, (f c).record = c.record) :
    s.SameRecords (s.updClaim i f) := fun j => by
  rw [State.updClaim_claim]
  split
  · rename_i h
    subst h
    cases s.claim j with
    | none => rfl
    | some c => exact congrArg some (hf c)
  · rfl

theorem mapAnalog_record (f : AnalogBody → AnalogRun → AnalogRun) (c : Claim) :
    (Claim.mapAnalog f c).record = c.record := by
  unfold Claim.mapAnalog Claim.record
  cases hp : c.payload <;> simp [hp, Payload.bare]

theorem mapEdge_record (f : EdgeBody → EdgeRun → EdgeRun) (c : Claim) : (Claim.mapEdge f c).record = c.record := by
  unfold Claim.mapEdge Claim.record
  cases hp : c.payload <;> simp [hp, Payload.bare]

theorem analogBody?_record (c : Claim) : Claim.analogBody? c.record = Claim.analogBody? c := by
  unfold Claim.analogBody? Claim.record
  cases c.payload <;> rfl

theorem edgeBody?_record (c : Claim) : Claim.edgeBody? c.record = Claim.edgeBody? c := by
  unfold Claim.edgeBody? Claim.record
  cases c.payload <;> rfl

/-- A claim of the state before, for one of the state after. -/
theorem State.SameRecords.claim {s t : State} (h : s.SameRecords t) {i : SlotIx} {c : Claim}
    (hc : s.claim i = some c) : ∃ c', t.claim i = some c' ∧ c'.record = c.record := by
  have hi := h i
  rw [hc] at hi
  exact Option.map_eq_some_iff.mp hi

theorem State.SameRecords.claimIs {s t : State} (h : s.SameRecords t) {p : Claim → Bool}
    (hp : ∀ c : Claim, p c.record = p c) (i : SlotIx) : t.claimIs i p = s.claimIs i p := by
  have hmap : ∀ u : State, u.claimIs i p = ((u.claim i).map Claim.record).any p := fun u => by
    unfold State.claimIs
    cases u.claim i with
    | none => rfl
    | some c => exact (hp c).symm
  rw [hmap, hmap, h i]

theorem State.SameRecords.slotsWhere {s t : State} (h : s.SameRecords t) {p : Claim → Bool}
    (hp : ∀ c : Claim, p c.record = p c) : t.slotsWhere p = s.slotsWhere p :=
  List.filter_congr fun i _ => h.claimIs hp i

theorem State.SameRecords.members {s t : State} (h : s.SameRecords t) (r : Resource) : t.members r = s.members r :=
  h.slotsWhere fun _ => rfl

theorem State.SameRecords.bind {s t : State} (h : s.SameRecords t) {α : Type} {f : Claim → Option α}
    (hf : ∀ c : Claim, f c.record = f c) (i : SlotIx) : (t.claim i).bind f = (s.claim i).bind f := by
  have hmap : ∀ u : State, (u.claim i).bind f = ((u.claim i).map Claim.record).bind f := fun u => by
    cases u.claim i with
    | none => rfl
    | some c => exact (hf c).symm
  rw [hmap, hmap, h i]

theorem State.SameRecords.memberField {s t : State} (h : s.SameRecords t) (c : AnalogCh) (f : AnalogBody → Nat) :
    t.memberField c f = s.memberField c f := by
  unfold State.memberField State.analogMembers
  rw [h.members]
  exact List.filterMap_congr fun i _ => by rw [h.bind analogBody?_record]

theorem State.SameRecords.dueInterval {s t : State} (h : s.SameRecords t) (c : AnalogCh) :
    t.dueInterval c = s.dueInterval c := by
  rw [State.dueInterval, h.memberField, State.dueInterval]

theorem State.SameRecords.level {s t : State} (h : s.SameRecords t) (c : AnalogCh) : t.level c = s.level c := by
  rw [State.level, h.memberField, State.level]

theorem State.SameRecords.dueList {s t : State} (h : s.SameRecords t) (hclock : t.clock = s.clock) (c : AnalogCh) :
    t.dueList c = s.dueList c := by
  unfold State.dueList State.analogMembers
  rw [h.members, hclock]
  exact List.filter_congr fun i _ => h.claimIs (fun cl => by rw [analogBody?_record]) i

/-! ### Missed moments (R87) -/

/-- A claim with one more missed moment (R116). -/
def Claim.missed (c : Claim) : Claim := Claim.mapAnalog (fun _ r => r.miss) c

theorem missMoment_sameRecords (s : State) (i : SlotIx) : s.SameRecords (s.missMoment i) := fun j =>
  updClaim_sameRecords s i (mapAnalog_record _) j

theorem missMoment_slot (s : State) (i j : SlotIx) :
    (s.missMoment i).slots[j] = if j = i then Slot.mapClaim Claim.missed s.slots[j] else s.slots[j] :=
  updClaim_slot_mapClaim s i j _

theorem missMoment_noticesKept (s : State) (i : SlotIx) : s.NoticesKept (s.missMoment i) fun j => j = i :=
  fun l e he => (s.updClaim i _).post_noticesKept .late i l e he

theorem missMoment_noticed {s : State} {m : Link} {k : NoticeKind} {j : SlotIx} (h : s.noticed m k j) (i : SlotIx) :
    (s.missMoment i).noticed m k j := noticed_post (s := s.updClaim i _) h .late i

theorem foldl_missMoment_slot {is : List SlotIx} (hn : is.Nodup) (s : State) (j : SlotIx) :
    (is.foldl State.missMoment s).slots[j] =
      if j ∈ is then Slot.mapClaim Claim.missed s.slots[j] else s.slots[j] := by
  induction is generalizing s with
  | nil => rfl
  | cons i is ih =>
    obtain ⟨hi, hn⟩ := List.nodup_cons.mp hn
    rw [List.foldl_cons, ih hn, missMoment_slot]
    by_cases hj : j = i
    · subst hj
      rw [if_neg hi, if_pos rfl, if_pos List.mem_cons_self]
    · simp only [hj, if_false, List.mem_cons, false_or]

theorem foldl_missMoment_noticed {is : List SlotIx} {s : State} {i : SlotIx} {c : Claim} (hi : i ∈ is)
    (hc : s.claim i = some c) (hs : c.state ≠ .spent) (hb : s.barred c.owner = false) :
    (is.foldl State.missMoment s).noticed c.owner .late i := by
  obtain ⟨before, after, rfl⟩ := List.append_of_mem hi
  rw [List.foldl_append, List.foldl_cons]
  have hrec := State.SameRecords.foldl missMoment_sameRecords before s
  have hports := foldl_keeps State.ports State.missMoment State.missMoment_ports before s
  generalize before.foldl State.missMoment s = t at hrec hports
  obtain ⟨c', hc', hrecord⟩ := (hrec.trans (missMoment_sameRecords t i)).claim hc
  have howner : c'.owner = c.owner := (congrArg Claim.owner hrecord : c'.record.owner = c.record.owner)
  have hstate : c'.state = c.state := (congrArg Claim.state hrecord : c'.record.state = c.record.state)
  have hpost : (t.missMoment i).noticed c.owner .late i := by
    rw [← howner]
    refine post_noticed (s := t.updClaim i _) hc' (hstate ▸ hs) ?_ (by decide)
    rw [howner, barred_eq, State.updClaim_ports, hports]
    exact hb
  exact List.foldlRecOn (motive := fun u : State => u.noticed c.owner .late i) after _ hpost
    fun u hu j _ => missMoment_noticed hu j

/-! ### The due moment of a channel (R86, R87) -/

/-- The present count is a due moment of the channel (R86). -/
def State.isDueOn (s : State) (c : AnalogCh) : Bool := (s.dueInterval c).any (dueAt s.clock.cadence)

/-- The claims of the due list that waits on a channel. -/
def State.waitingDue (s : State) (c : AnalogCh) : List SlotIx :=
  match s.arbiter.waiting[c] with
  | none => []
  | some r => r.due

/-- The claims whose moment the present due moment of a channel overtakes (R87). -/
def State.overtakenOn (s : State) (c : AnalogCh) : List SlotIx := if s.isDueOn c = true then s.waitingDue c else []

/-- The request of a channel after its due moment (R86). -/
def State.requestAt (s : State) (c : AnalogCh) : Option ConvRequest :=
  if s.isDueOn c = true then some ⟨s.clock.cadence, s.dueList c⟩ else s.arbiter.waiting[c]

theorem dueMoment_eq (s : State) (c : AnalogCh) : s.dueMoment c = if s.isDueOn c = true then
    ((s.waitingDue c).foldl State.missMoment s).setWaiting c (some ⟨s.clock.cadence, s.dueList c⟩) else s := by
  unfold State.dueMoment State.isDueOn State.waitingDue
  cases s.dueInterval c with
  | none => rfl
  | some k => rfl

theorem dueMoment_of_due {s : State} {c : AnalogCh} (h : s.isDueOn c = true) : s.dueMoment c =
    ((s.waitingDue c).foldl State.missMoment s).setWaiting c (some ⟨s.clock.cadence, s.dueList c⟩) := by
  rw [dueMoment_eq, if_pos h]

theorem dueMoment_of_not_due {s : State} {c : AnalogCh} (h : ¬s.isDueOn c = true) : s.dueMoment c = s := by
  rw [dueMoment_eq, if_neg h]

theorem overtakenOn_of_due {s : State} {c : AnalogCh} (h : s.isDueOn c = true) : s.overtakenOn c = s.waitingDue c :=
  if_pos h

theorem overtakenOn_of_not_due {s : State} {c : AnalogCh} (h : ¬s.isDueOn c = true) : s.overtakenOn c = [] := if_neg h

theorem dueMoment_sameRecords (s : State) (c : AnalogCh) : s.SameRecords (s.dueMoment c) := by
  by_cases h : s.isDueOn c = true
  · rw [dueMoment_of_due h]
    exact .trans (.foldl missMoment_sameRecords _ s) (.of_slots (State.setWaiting_slots ..))
  · rw [dueMoment_of_not_due h]
    exact .refl s

theorem dueMoment_arbiter (s : State) (c : AnalogCh) :
    (s.dueMoment c).arbiter = { s.arbiter with waiting := s.arbiter.waiting.set c (s.requestAt c) } := by
  have hkeep := fun is => foldl_keeps State.arbiter State.missMoment State.missMoment_arbiter is s
  by_cases h : s.isDueOn c = true
  · rw [dueMoment_of_due h, State.requestAt, if_pos h, State.setWaiting, hkeep]
  · rw [dueMoment_of_not_due h, State.requestAt, if_neg h]
    simp

theorem dueMoment_waiting (s : State) (c c' : AnalogCh) :
    (s.dueMoment c).arbiter.waiting[c'] = if c' = c then s.requestAt c else s.arbiter.waiting[c'] := by
  rw [dueMoment_arbiter]
  exact getElem_set_fin _ c c' _

theorem dueMoment_slot {s : State} {c : AnalogCh} (hn : (s.overtakenOn c).Nodup) (j : SlotIx) :
    (s.dueMoment c).slots[j] =
      if j ∈ s.overtakenOn c then Slot.mapClaim Claim.missed s.slots[j] else s.slots[j] := by
  by_cases h : s.isDueOn c = true
  · rw [overtakenOn_of_due h] at hn ⊢
    rw [dueMoment_of_due h, State.setWaiting_slots, foldl_missMoment_slot hn]
  · rw [dueMoment_of_not_due h, overtakenOn_of_not_due h, if_neg (by simp)]

theorem dueMoment_noticesKept (s : State) (c : AnalogCh) :
    s.NoticesKept (s.dueMoment c) fun j => j ∈ s.overtakenOn c := by
  by_cases h : s.isDueOn c = true
  · rw [dueMoment_of_due h, overtakenOn_of_due h]
    intro l e he
    rw [State.setWaiting_notices]
    exact State.foldl_noticesKept State.missMoment (fun j => j ∈ s.waitingDue c) _
      (fun u i hi => (missMoment_noticesKept u i).mono fun j hj => hj ▸ hi) s l e he
  · rw [dueMoment_of_not_due h]
    exact .refl s _

theorem dueMoment_noticed_of_noticed {s : State} {m : Link} {k : NoticeKind} {j : SlotIx} (h : s.noticed m k j)
    (c : AnalogCh) : (s.dueMoment c).noticed m k j := by
  by_cases hdue : s.isDueOn c = true
  · rw [dueMoment_of_due hdue]
    exact List.foldlRecOn (motive := fun u : State => u.noticed m k j) (s.waitingDue c) _ h
      fun u hu i _ => missMoment_noticed hu i
  · rwa [dueMoment_of_not_due hdue]

theorem dueMoment_noticed {s : State} {c : AnalogCh} {i : SlotIx} {cl : Claim} (hi : i ∈ s.overtakenOn c)
    (hc : s.claim i = some cl) (hs : cl.state ≠ .spent) (hb : s.barred cl.owner = false) :
    (s.dueMoment c).noticed cl.owner .late i := by
  by_cases h : s.isDueOn c = true
  · rw [overtakenOn_of_due h] at hi
    rw [dueMoment_of_due h]
    exact foldl_missMoment_noticed hi hc hs hb
  · rw [overtakenOn_of_not_due h] at hi
    cases hi

/-! ### The due moments of all channels (R99) -/

section Other

variable (s : State) {c c' : AnalogCh} (hne : c' ≠ c)

theorem isDueOn_congr {s t : State} (h : s.SameRecords t) (hclock : t.clock = s.clock) (c : AnalogCh) :
    t.isDueOn c = s.isDueOn c := by
  rw [State.isDueOn, h.dueInterval, hclock]
  rfl

include hne

theorem dueMoment_waitingDue : (s.dueMoment c).waitingDue c' = s.waitingDue c' := by
  unfold State.waitingDue
  rw [dueMoment_waiting, if_neg hne] <;> rfl

theorem dueMoment_overtakenOn : (s.dueMoment c).overtakenOn c' = s.overtakenOn c' := by
  unfold State.overtakenOn
  rw [isDueOn_congr (dueMoment_sameRecords s c) (s.dueMoment_clock c), dueMoment_waitingDue s hne]

theorem dueMoment_requestAt : (s.dueMoment c).requestAt c' = s.requestAt c' := by
  unfold State.requestAt
  rw [isDueOn_congr (dueMoment_sameRecords s c) (s.dueMoment_clock c), dueMoment_waiting, if_neg hne,
    (dueMoment_sameRecords s c).dueList (s.dueMoment_clock c), s.dueMoment_clock]

end Other

/-- No claim waits twice: not in one due list, and not on two channels. -/
structure State.DueApart (s : State) : Prop where
  nodup : ∀ c, (s.overtakenOn c).Nodup
  apart : ∀ c c' i, i ∈ s.overtakenOn c → i ∈ s.overtakenOn c' → c = c'

theorem foldl_dueMoment_waiting {cs : List AnalogCh} (hn : cs.Nodup) (s : State) (c : AnalogCh) :
    (cs.foldl State.dueMoment s).arbiter.waiting[c] = if c ∈ cs then s.requestAt c else s.arbiter.waiting[c] := by
  induction cs generalizing s with
  | nil => rfl
  | cons a cs ih =>
    obtain ⟨ha, hn⟩ := List.nodup_cons.mp hn
    rw [List.foldl_cons, ih hn, dueMoment_waiting]
    by_cases hc : c = a
    · subst hc
      rw [if_neg ha, if_pos rfl, if_pos List.mem_cons_self]
    · rw [dueMoment_requestAt s hc, if_neg hc]
      simp only [List.mem_cons, hc, false_or]

theorem foldl_dueMoment_arbiter (cs : List AnalogCh) (s : State) :
    (cs.foldl State.dueMoment s).arbiter =
      { s.arbiter with waiting := (cs.foldl State.dueMoment s).arbiter.waiting } := by
  induction cs generalizing s with
  | nil => rfl
  | cons a cs ih => rw [List.foldl_cons, ih, dueMoment_arbiter]

theorem foldl_dueMoment_slot {cs : List AnalogCh} (hn : cs.Nodup) {s : State}
    (hdup : ∀ c ∈ cs, (s.overtakenOn c).Nodup)
    (hdisj : ∀ c ∈ cs, ∀ c' ∈ cs, ∀ i, i ∈ s.overtakenOn c → i ∈ s.overtakenOn c' → c = c') (j : SlotIx) :
    (cs.foldl State.dueMoment s).slots[j] =
      if ∃ c ∈ cs, j ∈ s.overtakenOn c then Slot.mapClaim Claim.missed s.slots[j] else s.slots[j] := by
  induction cs generalizing s with
  | nil => simp
  | cons a cs ih =>
    obtain ⟨ha, hn⟩ := List.nodup_cons.mp hn
    have hne : ∀ c ∈ cs, c ≠ a := fun c hc e => ha (e ▸ hc)
    have hsame : ∀ c ∈ cs, (s.dueMoment a).overtakenOn c = s.overtakenOn c := fun c hc =>
      dueMoment_overtakenOn s (hne c hc)
    have hex : (∃ c ∈ cs, j ∈ (s.dueMoment a).overtakenOn c) ↔ ∃ c ∈ cs, j ∈ s.overtakenOn c :=
      exists_congr fun c => and_congr_right fun hc => by rw [hsame c hc]
    rw [List.foldl_cons, ih hn (fun c hc => hsame c hc ▸ hdup c (List.mem_cons_of_mem _ hc))
      (fun c hc c' hc' i h h' => hdisj c (List.mem_cons_of_mem _ hc) c' (List.mem_cons_of_mem _ hc') i
        (hsame c hc ▸ h) (hsame c' hc' ▸ h')), if_congr hex rfl rfl, dueMoment_slot (hdup a List.mem_cons_self)]
    by_cases hj : j ∈ s.overtakenOn a
    · have hrest : ¬∃ c ∈ cs, j ∈ s.overtakenOn c := fun ⟨c, hc, hjc⟩ =>
        hne c hc (hdisj c (List.mem_cons_of_mem _ hc) a List.mem_cons_self j hjc hj)
      rw [if_neg hrest, if_pos hj, if_pos ⟨a, List.mem_cons_self, hj⟩]
    · simp only [hj, if_false, List.mem_cons, exists_eq_or_imp, false_or]

theorem foldl_dueMoment_noticesKept {cs : List AnalogCh} (hn : cs.Nodup) (s : State) :
    s.NoticesKept (cs.foldl State.dueMoment s) fun j => ∃ c ∈ cs, j ∈ s.overtakenOn c := by
  induction cs generalizing s with
  | nil => exact .refl s _
  | cons a cs ih =>
    obtain ⟨ha, hn⟩ := List.nodup_cons.mp hn
    refine ((dueMoment_noticesKept s a).mono fun j hj => ⟨a, List.mem_cons_self, hj⟩).trans
      ((ih hn (s.dueMoment a)).mono fun j => ?_)
    rintro ⟨c, hc, hj⟩
    have hca : c ≠ a := fun e => ha (e ▸ hc)
    exact ⟨c, List.mem_cons_of_mem _ hc, dueMoment_overtakenOn s hca ▸ hj⟩

theorem foldl_dueMoment_sameRecords (cs : List AnalogCh) (s : State) : s.SameRecords (cs.foldl State.dueMoment s) :=
  .foldl dueMoment_sameRecords cs s

theorem foldl_dueMoment_noticed {cs : List AnalogCh} (hn : cs.Nodup) {s : State} {c : AnalogCh} {i : SlotIx} {cl : Claim}
    (hcs : c ∈ cs) (hi : i ∈ s.overtakenOn c) (hc : s.claim i = some cl) (hs : cl.state ≠ .spent)
    (hb : s.barred cl.owner = false) : (cs.foldl State.dueMoment s).noticed cl.owner .late i := by
  induction cs generalizing s cl with
  | nil => cases hcs
  | cons a cs ih =>
    obtain ⟨ha, hn⟩ := List.nodup_cons.mp hn
    rcases List.mem_cons.mp hcs with rfl | hcs
    · exact List.foldlRecOn (motive := fun u : State => u.noticed cl.owner .late i) cs _ (dueMoment_noticed hi hc hs hb)
        fun u hu b _ => dueMoment_noticed_of_noticed hu b
    · have hca : c ≠ a := fun e => ha (e ▸ hcs)
      obtain ⟨c', hc', hrecord⟩ := (dueMoment_sameRecords s a).claim hc
      have howner : c'.owner = cl.owner := (congrArg Claim.owner hrecord : c'.record.owner = cl.record.owner)
      have hstate : c'.state = cl.state := (congrArg Claim.state hrecord : c'.record.state = cl.record.state)
      rw [← howner]
      refine ih hn hcs (dueMoment_overtakenOn s hca ▸ hi) hc' (hstate ▸ hs) ?_
      rw [howner, barred_eq, s.dueMoment_ports]
      exact hb

/-! ### What the grant decision reads -/

/-- Two states alike to the grant decision: the records, the stamp counter and the setup store. -/
structure State.AlikeToGrant (s t : State) : Prop where
  records : s.SameRecords t
  stamp : t.clock.stamp = s.clock.stamp
  setup : t.setup = s.setup

theorem State.AlikeToGrant.withArbiter {s t : State} (h : s.AlikeToGrant t) (a b : Arbiter) :
    State.AlikeToGrant { s with arbiter := a } { t with arbiter := b } := ⟨h.records, h.stamp, h.setup⟩

section Alike

variable {s t : State} (h : s.AlikeToGrant t) (ha : t.arbiter = s.arbiter)
include h ha

theorem visit_alike (n : Nat) : t.visit n = ((s.visit n).1, { t with arbiter := (s.visit n).2.arbiter }) := by
  have hlist : t.levelList n = s.levelList n := by
    simp only [State.levelList, h.records.level]
  have hwaits : ∀ n, t.waitsAt n = s.waitsAt n := fun n => by simp only [State.waitsAt, h.records.level, ha]
  have hreq : t.requesting = s.requesting := by
    funext m
    cases m <;> simp [State.requesting, hwaits, ha]
  unfold State.visit
  rw [hlist, hreq, ha]
  dsimp only
  cases (s.levelList n).find? fun m => s.requesting m && !Arbiter.marked s.arbiter m with
  | some m => simp [ha]
  | none =>
    cases (s.levelList n).find? s.requesting with
    | none => simp
    | some m => simp

theorem anyWaiting_alike : t.anyWaiting = s.anyWaiting := by rw [State.anyWaiting, ha]; rfl

theorem marksIfEmpty_alike : t.marksIfEmpty = { t with arbiter := s.marksIfEmpty.arbiter } := by
  unfold State.marksIfEmpty
  rw [anyWaiting_alike h ha]
  split
  · simp [← ha]
  · simp [ha]

theorem grant_alike (c : AnalogCh) : t.grant c = { t with arbiter := (s.grant c).arbiter } := by
  cases hw : s.arbiter.waiting[c] with
  | none =>
    have hs : s.grant c = s := by unfold State.grant; rw [hw]
    have ht : t.grant c = t := by unfold State.grant; rw [ha, hw]
    rw [hs, ht, ← ha]
  | some r =>
    have hdone : t.clock.stamp + BitVec.ofNat 32 (t.setup.windows[c] + 2) =
        s.clock.stamp + BitVec.ofNat 32 (s.setup.windows[c] + 2) := by rw [h.stamp, h.setup]
    rw [grant_of_waiting hw, grant_of_waiting (ha ▸ hw), hdone, ha]
    exact marksIfEmpty_alike (h.withArbiter _ _) rfl

theorem follow_alike {next : State → State} (hnext : ∀ {u v : State}, u.AlikeToGrant v → v.arbiter = u.arbiter →
    next v = { v with arbiter := (next u).arbiter }) (n : Nat) : (t.visit n).2.follow (t.visit n).1 next =
      { t with arbiter := ((s.visit n).2.follow (s.visit n).1 next).arbiter } := by
  rw [visit_alike h ha]
  have hv : State.AlikeToGrant (s.visit n).2 { t with arbiter := (s.visit n).2.arbiter } :=
    ⟨.trans (.symm (.of_slots (s.visit_slots n))) h.records, by rw [s.visit_clock]; exact h.stamp,
      by rw [s.visit_setup]; exact h.setup⟩
  dsimp only
  generalize (s.visit n).2 = u at hv
  cases (s.visit n).1 with
  | none => rfl
  | some m =>
    cases m with
    | channel c => exact grant_alike hv rfl c
    | c2 => exact hnext hv rfl
    | c3 => exact hnext hv rfl

/-- The grant decision reads no claim's runtime and no notice. -/
theorem decideGrant_alike : t.decideGrant = { t with arbiter := s.decideGrant.arbiter } := by
  have hend : ∀ {u v : State}, u.AlikeToGrant v → v.arbiter = u.arbiter → id v = { v with arbiter := (id u).arbiter } :=
    fun _ hav => by simp [← hav]
  rw [decideGrant_eq, decideGrant_eq]
  exact follow_alike h ha (fun h1 ha1 => follow_alike h1 ha1 (fun h2 ha2 => follow_alike h2 ha2 hend 3) 2) 1

end Alike

/-! ### A waiting request is granted (R103, R104) -/

theorem find?_isSome_of_mem {α : Type} {p : α → Bool} {l : List α} {m : α} (hm : m ∈ l) (hp : p m = true) :
    ∃ x, l.find? p = some x ∧ x ∈ l ∧ p x = true := by
  obtain ⟨x, hx⟩ := Option.isSome_iff_exists.mp (List.find?_isSome.mpr ⟨m, hm, hp⟩)
  exact ⟨x, hx, List.mem_of_find?_eq_some hx, List.find?_some hx⟩

theorem foldl_setMark_waiting (ms : List Member) (x : Bool) (a : Arbiter) :
    (ms.foldl (fun a m => Arbiter.setMark a m x) a).waiting = a.waiting :=
  List.foldlRecOn (motive := fun b : Arbiter => b.waiting = a.waiting) ms _ rfl
    fun b hb m _ => (setMark_waiting b m x).trans hb

/-- A visit of a list with a requesting member takes one, and changes marks alone (R103). -/
theorem visit_takes {s : State} {n : Nat} {m : Member} (hm : m ∈ s.levelList n) (hr : s.requesting m = true) :
    ∃ (x : Member) (a : Arbiter), s.visit n = (some x, { s with arbiter := a }) ∧ a.waiting = s.arbiter.waiting ∧
      x ∈ s.levelList n ∧ s.requesting x = true := by
  cases hpick : (s.levelList n).find? fun m => s.requesting m && !Arbiter.marked s.arbiter m with
  | some x =>
    have hp := List.find?_some hpick
    rw [Bool.and_eq_true] at hp
    refine ⟨x, Arbiter.setMark s.arbiter x true, ?_, setMark_waiting _ _ _, List.mem_of_find?_eq_some hpick, hp.1⟩
    simp [State.visit, hpick]
  | none =>
    obtain ⟨x, hx, hmem, hreq⟩ := find?_isSome_of_mem hm hr
    refine ⟨x, Arbiter.setMark ((s.levelList n).foldl (fun a m => Arbiter.setMark a m false) s.arbiter) x true, ?_,
      (setMark_waiting _ _ _).trans (foldl_setMark_waiting _ _ _), hmem, hreq⟩
    simp [State.visit, hpick, hx]

/-- Every waiting request is of a channel at one of the three levels (R100). -/
def State.WaitsAtLevels (s : State) : Prop :=
  ∀ c : AnalogCh, s.arbiter.waiting[c] ≠ none → ∃ n, s.level c = some n ∧ 1 ≤ n ∧ n ≤ 3

theorem waitsAt_iff (s : State) (n : Nat) :
    s.waitsAt n = true ↔ ∃ c : AnalogCh, s.level c = some n ∧ s.arbiter.waiting[c] ≠ none := by
  simp [State.waitsAt, mem_allChannels, Option.isSome_iff_ne_none]

theorem mem_levelList_channel (s : State) (n : Nat) (c : AnalogCh) :
    Member.channel c ∈ s.levelList n ↔ s.level c = some n := by
  unfold State.levelList
  split
  · simp [mem_allChannels]
  · split <;> simp [mem_allChannels]

/-- A state that differs from another in its arbiter's marks. -/
theorem level_withArbiter (s : State) (a : Arbiter) (c : AnalogCh) :
    ({ s with arbiter := a } : State).level c = s.level c := level_congr rfl c

/-- The decision grants a channel that waits (R103). -/
theorem decideGrant_grants {s : State} (hlevels : s.WaitsAtLevels) (hany : s.anyWaiting = true) :
    ∃ (c : AnalogCh) (r : ConvRequest) (a : Arbiter), s.arbiter.waiting[c] = some r ∧
      a.waiting = s.arbiter.waiting ∧ s.decideGrant = ({ s with arbiter := a } : State).grant c := by
  obtain ⟨c0, hc0⟩ := (anyWaiting_iff s).mp hany
  obtain ⟨n0, hn0, h1, h3⟩ := hlevels c0 hc0
  have hchannel : ∀ {c : AnalogCh}, s.arbiter.waiting[c].isSome = true → ∃ r, s.arbiter.waiting[c] = some r :=
    fun h => Option.isSome_iff_exists.mp h
  obtain ⟨hl1, hl2, hl3⟩ := levelList_eq s
  have hfirst : ∃ m ∈ s.levelList 1, s.requesting m = true := by
    by_cases h : n0 = 1
    · exact ⟨.channel c0, (mem_levelList_channel s 1 c0).mpr (h ▸ hn0), Option.isSome_iff_ne_none.mpr hc0⟩
    · refine ⟨.c2, by rw [hl1]; simp, ?_⟩
      have hw : s.waitsAt n0 = true := (waitsAt_iff s n0).mpr ⟨c0, hn0, hc0⟩
      rcases (by omega : n0 = 2 ∨ n0 = 3) with rfl | rfl <;> simp [State.requesting, hw]
  obtain ⟨m, hm, hr⟩ := hfirst
  obtain ⟨x, a, hv1, ha, hx, hreq⟩ := visit_takes hm hr
  cases x with
  | channel c =>
    obtain ⟨r, hw⟩ := hchannel hreq
    exact ⟨c, r, a, hw, ha, (decideGrant_of_first (congrArg Prod.fst hv1)).trans (by rw [hv1])⟩
  | c3 =>
    rw [hl1] at hx
    simp at hx
  | c2 =>
    generalize hs1 : ({ s with arbiter := a } : State) = s1 at hv1
    have hlevel1 : ∀ c, s1.level c = s.level c := fun c => by rw [← hs1, level_withArbiter]
    have hwait1 : s1.arbiter.waiting = s.arbiter.waiting := by rw [← hs1]; exact ha
    have hwaits1 : ∀ n, s1.waitsAt n = s.waitsAt n := fun n => by simp only [State.waitsAt, hlevel1, hwait1]
    have hlist1 : ∀ n, s1.levelList n = s.levelList n := fun n => by simp only [State.levelList, hlevel1]
    have hsecond : ∃ m ∈ s1.levelList 2, s1.requesting m = true := by
      rcases Bool.or_eq_true_iff.mp hreq with h | h
      · obtain ⟨c, hc, hw⟩ := (waitsAt_iff s 2).mp h
        exact ⟨.channel c, hlist1 2 ▸ (mem_levelList_channel s 2 c).mpr hc,
          by rw [State.requesting, hwait1]; exact Option.isSome_iff_ne_none.mpr hw⟩
      · exact ⟨.c3, by rw [hlist1, hl2]; simp, (hwaits1 3).trans h⟩
    obtain ⟨m2, hm2, hr2⟩ := hsecond
    obtain ⟨x2, a2, hv2, ha2, hx2, hreq2⟩ := visit_takes hm2 hr2
    have hfst1 : (s.visit 1).1 = some .c2 := congrArg Prod.fst hv1
    have hsnd1 : (s.visit 1).2 = s1 := congrArg Prod.snd hv1
    have hv2' : (s.visit 1).2.visit 2 = (some x2, { s1 with arbiter := a2 }) := by rw [hsnd1, hv2]
    have hs1a : ∀ b, ({ s1 with arbiter := b } : State) = { s with arbiter := b } := fun b => by rw [← hs1]
    cases x2 with
    | channel c =>
      obtain ⟨r, hw⟩ := hchannel (c := c) (by rw [← hwait1]; exact hreq2)
      refine ⟨c, r, a2, hw, ha2.trans hwait1, (decideGrant_of_second hfst1 (congrArg Prod.fst hv2')).trans ?_⟩
      rw [hv2', hs1a]
    | c2 =>
      rw [hlist1, hl2] at hx2
      simp at hx2
    | c3 =>
      generalize hs2 : ({ s1 with arbiter := a2 } : State) = s2 at hv2'
      have hlevel2 : ∀ c, s2.level c = s.level c := fun c => by rw [← hs2, level_withArbiter, hlevel1]
      have hwait2 : s2.arbiter.waiting = s.arbiter.waiting := by rw [← hs2]; exact ha2.trans hwait1
      obtain ⟨c3, hc3, hw3⟩ := (waitsAt_iff s 3).mp ((hwaits1 3).symm.trans hreq2)
      have hlist2 : s2.levelList 3 = s.levelList 3 := by simp only [State.levelList, hlevel2]
      obtain ⟨x3, a3, hv3, ha3, hx3, hreq3⟩ := visit_takes (s := s2) (n := 3) (m := .channel c3)
        (by rw [hlist2]; exact (mem_levelList_channel s 3 c3).mpr hc3)
        (by rw [State.requesting, hwait2]; exact Option.isSome_iff_ne_none.mpr hw3)
      have hsnd2 : ((s.visit 1).2.visit 2).2 = s2 := congrArg Prod.snd hv2'
      rw [hlist2, hl3] at hx3
      obtain ⟨c, -, rfl⟩ := List.mem_map.mp hx3
      obtain ⟨r, hw⟩ := hchannel (c := c) (by rw [← hwait2]; exact hreq3)
      have hv3' : ((s.visit 1).2.visit 2).2.visit 3 = (some (.channel c), { s2 with arbiter := a3 }) := by
        rw [hsnd2, hv3]
      refine ⟨c, r, a3, hw, ha3.trans hwait2,
        (decideGrant_of_third hfst1 (congrArg Prod.fst hv2') (congrArg Prod.fst hv3')).trans ?_⟩
      rw [hv3', ← hs2]
      exact congrArg (fun u : State => u.grant c) (hs1a a3)

end Sys2Proof.Machine
end

section
/-! SUPPORT and PROOFS. An advance of the cadence count: the sample scheduler and the edge unit. -/

namespace Sys2Proof.Machine

/-! ### Work on runtimes alone -/

/-- Only the runtimes of claims with a property have changed. -/
structure State.RuntimesOnly (p : Claim → Bool) (s t : State) : Prop where
  records : s.SameRecords t
  gen : ∀ j : SlotIx, t.slots[j].gen = s.slots[j].gen
  stands : ∀ j c, s.claim j = some c → p c = false → t.claim j = some c

section RuntimesOnly

variable {p : Claim → Bool}

theorem State.RuntimesOnly.refl (s : State) : State.RuntimesOnly p s s := ⟨.refl s, fun _ => rfl, fun _ _ h _ => h⟩

theorem State.RuntimesOnly.trans {s t u : State} (h : State.RuntimesOnly p s t) (k : State.RuntimesOnly p t u) :
    State.RuntimesOnly p s u :=
  ⟨h.records.trans k.records, fun j => (k.gen j).trans (h.gen j), fun j c hc hp => k.stands j c (h.stands j c hc hp) hp⟩

theorem State.RuntimesOnly.of_slots {s t : State} (h : t.slots = s.slots) : State.RuntimesOnly p s t :=
  ⟨.of_slots h, fun _ => by rw [h], fun j c hc _ => (State.claim_congr h j).trans hc⟩

theorem State.RuntimesOnly.foldl {α : Type} {f : State → α → State} (h : ∀ (s : State) a, State.RuntimesOnly p s (f s a))
    (as : List α) (s : State) : State.RuntimesOnly p s (as.foldl f s) :=
  List.foldlRecOn (motive := fun t => State.RuntimesOnly p s t) as f (.refl s) fun _ ht a _ => ht.trans (h _ a)

theorem updClaim_runtimesOnly (s : State) (i : SlotIx) {f : Claim → Claim} (hf : ∀ c, (f c).record = c.record)
    (hp : ∀ c, p c = false → f c = c) : State.RuntimesOnly p s (s.updClaim i f) where
  records := updClaim_sameRecords s i hf
  gen j := by
    rw [updClaim_slot_mapClaim]
    split <;> rfl
  stands j c hc hpc := by
    rw [State.updClaim_claim]
    split
    · rename_i h
      subst h
      rw [hc]
      exact congrArg some (hp c hpc)
    · exact hc

/-- Every slot stays FREE or occupied, at its generation. -/
theorem State.RuntimesOnly.slotsKept {s t : State} (h : State.RuntimesOnly p s t) : s.SlotsKept t := fun i => by
  refine ⟨h.gen i, ?_⟩
  have hi := congrArg Option.isSome (h.records i)
  rwa [Option.isSome_map, Option.isSome_map] at hi

theorem State.RuntimesOnly.handle {s t : State} (h : State.RuntimesOnly p s t) (i : SlotIx) :
    t.handle i = s.handle i := by
  unfold State.handle
  rw [h.gen i]

end RuntimesOnly

/-! ### The scheduler works on analog runtimes (R87) -/

/-- A claim with an ASENSE body. -/
def Claim.isAnalog (c : Claim) : Bool := (Claim.analogBody? c).isSome

/-- A claim with an ESENSE body. -/
def Claim.isEdge (c : Claim) : Bool := (Claim.edgeBody? c).isSome

theorem mapAnalog_of_not_analog {c : Claim} (h : Claim.isAnalog c = false) (f : AnalogBody → AnalogRun → AnalogRun) :
    Claim.mapAnalog f c = c := by
  unfold Claim.isAnalog Claim.analogBody? at h
  unfold Claim.mapAnalog
  cases hp : c.payload <;> simp_all

theorem mapEdge_of_not_edge {c : Claim} (h : Claim.isEdge c = false) (f : EdgeBody → EdgeRun → EdgeRun) :
    Claim.mapEdge f c = c := by
  unfold Claim.isEdge Claim.edgeBody? at h
  unfold Claim.mapEdge
  cases hp : c.payload <;> simp_all

theorem missMoment_runtimesOnly (s : State) (i : SlotIx) : State.RuntimesOnly Claim.isAnalog s (s.missMoment i) :=
  (updClaim_runtimesOnly s i (mapAnalog_record _) fun _ h => mapAnalog_of_not_analog h _).trans (.of_slots rfl)

theorem dueMoment_runtimesOnly (s : State) (c : AnalogCh) : State.RuntimesOnly Claim.isAnalog s (s.dueMoment c) := by
  by_cases h : s.isDueOn c = true
  · rw [dueMoment_of_due h]
    exact .trans (.foldl missMoment_runtimesOnly _ s) (.of_slots (State.setWaiting_slots ..))
  · rw [dueMoment_of_not_due h]
    exact .refl s

theorem scheduleAdvance_runtimesOnly (s : State) : State.RuntimesOnly Claim.isAnalog s s.scheduleAdvance :=
  .trans (.foldl dueMoment_runtimesOnly allChannels s) (.of_slots (State.decideIfFree_slots _))

/-! ### Interval moments (R133 to R137) -/

/-- What an interval moment makes of a claim, if the claim takes one: its input, its body and the outcome. -/
def State.momentOf (s : State) (i : SlotIx) : Option (EdgeIn × Claim × EdgeBody × SenseOutcome EdgeRun) :=
  match s.claim i with
  | none => none
  | some c =>
    match c.resource, c.payload with
    | .edge e, .esense b r => some (e, c, b, edgeMoment b s.inputs[e].level r)
    | _, _ => none

/-- The trip that an interval moment raises, with the gates it is addressed to (R136). -/
def State.tripAt (s : State) (i : SlotIx) : Option RaisedTrip :=
  (s.momentOf i).bind fun m => m.2.2.2.trip.map fun cause =>
    ⟨m.2.2.1.target, ⟨.edge m.1, cause, m.2.2.1.pattern, m.2.1.owner, s.handle i⟩⟩

theorem momentOf_of_edge {s : State} {i : SlotIx} {c : Claim} {e : EdgeIn} {b : EdgeBody} {r : EdgeRun}
    (hc : s.claim i = some c) (hr : c.resource = .edge e) (hp : c.payload = .esense b r) :
    s.momentOf i = some (e, c, b, edgeMoment b s.inputs[e].level r) := by
  unfold State.momentOf
  simp only [hc, hr, hp]

theorem edgeMomentAt_of_none {s : State} {i : SlotIx} (h : s.momentOf i = none) : s.edgeMomentAt i = (s, none) := by
  unfold State.momentOf at h
  unfold State.edgeMomentAt
  cases hc : s.claim i with
  | none => rfl
  | some c =>
    rw [hc] at h
    cases hr : c.resource <;> cases hp : c.payload <;> simp_all

theorem momentOf_eq_some {s : State} {i : SlotIx} {e : EdgeIn} {c : Claim} {b : EdgeBody} {o : SenseOutcome EdgeRun}
    (h : s.momentOf i = some (e, c, b, o)) : s.claim i = some c ∧ c.resource = .edge e ∧
      ∃ r, c.payload = .esense b r ∧ o = edgeMoment b s.inputs[e].level r := by
  unfold State.momentOf at h
  cases hc : s.claim i with
  | none => rw [hc] at h; cases h
  | some c' =>
    rw [hc] at h
    cases hr : c'.resource <;> cases hp : c'.payload <;> simp only [hr, hp] at h <;> cases h
    exact ⟨rfl, hr, _, hp, rfl⟩

theorem edgeMomentAt_of_some {s : State} {i : SlotIx} {e : EdgeIn} {c : Claim} {b : EdgeBody} {o : SenseOutcome EdgeRun}
    (h : s.momentOf i = some (e, c, b, o)) : s.claim i = some c ∧ (s.edgeMomentAt i).1 =
      (s.updClaim i (Claim.mapEdge fun _ _ => o.run)).postAll o.posts i := by
  obtain ⟨hc, hr, r, hp, rfl⟩ := momentOf_eq_some h
  refine ⟨hc, ?_⟩
  unfold State.edgeMomentAt
  simp only [hc, hr, hp]

theorem edgeMomentAt_trip (s : State) (i : SlotIx) : (s.edgeMomentAt i).2 = s.tripAt i := by
  unfold State.edgeMomentAt State.tripAt State.momentOf
  cases hc : s.claim i with
  | none => rfl
  | some c => cases hr : c.resource <;> cases hp : c.payload <;> simp_all

theorem edgeMomentAt_runtimesOnly (s : State) (i : SlotIx) :
    State.RuntimesOnly Claim.isEdge s (s.edgeMomentAt i).1 := by
  cases h : s.momentOf i with
  | none => rw [edgeMomentAt_of_none h]; exact .refl s
  | some m =>
    obtain ⟨e, c, b, o⟩ := m
    rw [(edgeMomentAt_of_some h).2]
    exact (updClaim_runtimesOnly s i (mapEdge_record _) fun _ h => mapEdge_of_not_edge h _).trans
      (.of_slots (State.postAll_slots ..))

theorem edgeMomentAt_slot_of_ne (s : State) {i j : SlotIx} (h : j ≠ i) : (s.edgeMomentAt i).1.slots[j] = s.slots[j] := by
  cases hm : s.momentOf i with
  | none => rw [edgeMomentAt_of_none hm]
  | some m =>
    obtain ⟨e, c, b, o⟩ := m
    rw [(edgeMomentAt_of_some hm).2, State.postAll_slots, State.updClaim_slot, if_neg h]

theorem postAll_noticed_of_noticed {s : State} {m : Link} {k : NoticeKind} {j : SlotIx} (h : s.noticed m k j)
    (ks : List NoticeKind) (i : SlotIx) : (s.postAll ks i).noticed m k j := by
  unfold State.postAll
  exact List.foldlRecOn (motive := fun t : State => t.noticed m k j) ks _ h fun t ht k' _ => noticed_post ht k' i

theorem post_noticed_of_wish {s : State} {k : NoticeKind} {i : SlotIx} {c : Claim} (hc : s.claim i = some c)
    (hs : c.state ≠ .spent) (hb : s.barred c.owner = false) (hk : k = .sample → c.wantsSample = true) :
    (s.post k i).noticed c.owner k i := by
  have hl : s.noticeLink k i = some c.owner := by
    rw [noticeLink_of_live hc hs, if_neg]
    rintro (h | ⟨h, hw⟩)
    · rw [hb] at h
      cases h
    · rw [hk h] at hw
      cases hw
  unfold State.noticed
  rw [post_notices_of_link hl, PerLink.get_set_self]
  exact exists_mem_mergeNotice k i _

theorem postAll_noticed {s : State} {ks : List NoticeKind} {k : NoticeKind} {i : SlotIx} {c : Claim} (hk : k ∈ ks)
    (hc : s.claim i = some c) (hs : c.state ≠ .spent) (hb : s.barred c.owner = false)
    (hw : k = .sample → c.wantsSample = true) : (s.postAll ks i).noticed c.owner k i := by
  obtain ⟨before, after, rfl⟩ := List.append_of_mem hk
  unfold State.postAll
  rw [List.foldl_append, List.foldl_cons]
  have hslots := s.postAll_slots before i
  have hports := s.postAll_ports before i
  unfold State.postAll at hslots hports
  generalize before.foldl (fun s k => s.post k i) s = t at hslots hports
  refine postAll_noticed_of_noticed (post_noticed_of_wish ((State.claim_congr hslots i).trans hc) hs ?_ hw) after i
  rw [barred_eq, hports]
  exact hb

/-! ### The moments of several claims -/

theorem edgeMomentAt_noticed_of_noticed {s : State} {m : Link} {k : NoticeKind} {j : SlotIx} (h : s.noticed m k j)
    (i : SlotIx) : (s.edgeMomentAt i).1.noticed m k j := by
  cases hm : s.momentOf i with
  | none => rwa [edgeMomentAt_of_none hm]
  | some x =>
    obtain ⟨e, c, b, o⟩ := x
    rw [(edgeMomentAt_of_some hm).2]
    exact postAll_noticed_of_noticed (s := s.updClaim i _) h _ i

theorem edgeMomentAt_noticesKept (s : State) (i : SlotIx) : s.NoticesKept (s.edgeMomentAt i).1 fun j => j = i := by
  cases hm : s.momentOf i with
  | none => rw [edgeMomentAt_of_none hm]; exact .refl s _
  | some x =>
    obtain ⟨e, c, b, o⟩ := x
    rw [(edgeMomentAt_of_some hm).2]
    exact fun l e he => (s.updClaim i _).postAll_noticesKept o.posts i l e he

theorem foldl_edgeMoments (is : List SlotIx) (s : State) (ts : List RaisedTrip) :
    is.foldl (fun (p : State × List RaisedTrip) i =>
      ((p.1.edgeMomentAt i).1, p.2 ++ (p.1.edgeMomentAt i).2.toList)) (s, ts) =
    ((s.edgeMoments is).1, ts ++ (s.edgeMoments is).2) := by
  unfold State.edgeMoments
  induction is generalizing s ts with
  | nil => simp
  | cons i is ih =>
    rw [List.foldl_cons, List.foldl_cons]
    dsimp only
    rw [ih, ih _ ([] ++ _)]
    simp

theorem edgeMoments_cons (s : State) (i : SlotIx) (is : List SlotIx) : s.edgeMoments (i :: is) =
    (((s.edgeMomentAt i).1.edgeMoments is).1, (s.tripAt i).toList ++ ((s.edgeMomentAt i).1.edgeMoments is).2) := by
  rw [← edgeMomentAt_trip]
  have h := foldl_edgeMoments is (s.edgeMomentAt i).1 ([] ++ (s.edgeMomentAt i).2.toList)
  rw [List.nil_append] at h
  rw [← h]
  rfl

/-- A claim's interval moment reads its slot and the inputs alone. -/
theorem tripAt_congr {s t : State} {i : SlotIx} (hslot : t.slots[i] = s.slots[i]) (hin : t.inputs = s.inputs) :
    t.momentOf i = s.momentOf i ∧ t.tripAt i = s.tripAt i := by
  have hm : t.momentOf i = s.momentOf i := by
    unfold State.momentOf
    rw [State.claim_def, State.claim_def, hslot, hin]
  refine ⟨hm, ?_⟩
  unfold State.tripAt State.handle
  rw [hm, hslot]

theorem edgeMoments_trips {is : List SlotIx} (hn : is.Nodup) (s : State) :
    (s.edgeMoments is).2 = is.filterMap s.tripAt := by
  induction is generalizing s with
  | nil => rfl
  | cons i is ih =>
    obtain ⟨hi, hn⟩ := List.nodup_cons.mp hn
    have hrest : is.filterMap (s.edgeMomentAt i).1.tripAt = is.filterMap s.tripAt :=
      List.filterMap_congr fun j hj => (tripAt_congr (edgeMomentAt_slot_of_ne s fun e : j = i => hi (e ▸ hj))
        (State.edgeMomentAt_inputs s i)).2
    rw [edgeMoments_cons, ih hn, hrest, List.filterMap_cons]
    cases s.tripAt i <;> rfl

theorem edgeMoments_runtimesOnly (is : List SlotIx) (s : State) :
    State.RuntimesOnly Claim.isEdge s (s.edgeMoments is).1 := by
  induction is generalizing s with
  | nil => exact .refl s
  | cons i is ih =>
    rw [edgeMoments_cons]
    exact (edgeMomentAt_runtimesOnly s i).trans (ih _)

theorem edgeMoments_slot_of_not_mem {is : List SlotIx} {j : SlotIx} (hj : j ∉ is) (s : State) :
    (s.edgeMoments is).1.slots[j] = s.slots[j] := by
  induction is generalizing s with
  | nil => rfl
  | cons i is ih =>
    obtain ⟨hji, hj⟩ := List.ne_and_not_mem_of_not_mem_cons hj
    rw [edgeMoments_cons]
    exact (ih hj _).trans (edgeMomentAt_slot_of_ne s hji)

theorem edgeMoments_noticed_of_noticed {s : State} {m : Link} {k : NoticeKind} {j : SlotIx} (h : s.noticed m k j)
    (is : List SlotIx) : (s.edgeMoments is).1.noticed m k j := by
  induction is generalizing s with
  | nil => exact h
  | cons i is ih =>
    rw [edgeMoments_cons]
    exact ih (edgeMomentAt_noticed_of_noticed h i)

theorem edgeMoments_noticesKept (is : List SlotIx) (s : State) : s.NoticesKept (s.edgeMoments is).1 fun j => j ∈ is := by
  induction is generalizing s with
  | nil => exact .refl s _
  | cons i is ih =>
    rw [edgeMoments_cons]
    exact ((edgeMomentAt_noticesKept s i).mono fun j hj => hj ▸ List.mem_cons_self).trans
      ((ih _).mono fun j hj => List.mem_cons_of_mem _ hj)

/-- A claim whose moment has come is worked by it, and the kinds of its outcome are posted (R131 to R136). -/
theorem edgeMoments_claim {is : List SlotIx} (hn : is.Nodup) {s : State} {i : SlotIx} (hi : i ∈ is) {e : EdgeIn}
    {c : Claim} {b : EdgeBody} {o : SenseOutcome EdgeRun} (hm : s.momentOf i = some (e, c, b, o)) :
    (s.edgeMoments is).1.claim i = some (Claim.mapEdge (fun _ _ => o.run) c) ∧
      ∀ k ∈ o.posts, c.state ≠ .spent → s.barred c.owner = false → (k = .sample → c.wantsSample = true) →
        (s.edgeMoments is).1.noticed c.owner k i := by
  induction is generalizing s with
  | nil => cases hi
  | cons a is ih =>
    obtain ⟨ha, hn⟩ := List.nodup_cons.mp hn
    rw [edgeMoments_cons]
    by_cases hia : i = a
    · subst hia
      obtain ⟨hc, heq⟩ := edgeMomentAt_of_some hm
      have hclaim : (s.edgeMomentAt i).1.claim i = some (Claim.mapEdge (fun _ _ => o.run) c) := by
        rw [heq, State.claim_congr (State.postAll_slots ..), State.updClaim_claim, if_pos rfl, hc]
        rfl
      refine ⟨(claim_of_slot (edgeMoments_slot_of_not_mem ha _)).trans hclaim, fun k hk hs hb hw => ?_⟩
      refine edgeMoments_noticed_of_noticed ?_ is
      have hrecord := mapEdge_record (fun _ _ => o.run) c
      have howner : (Claim.mapEdge (fun _ _ => o.run) c).owner = c.owner :=
        (congrArg Claim.owner hrecord : (Claim.mapEdge (fun _ _ => o.run) c).record.owner = c.record.owner)
      have hstate : (Claim.mapEdge (fun _ _ => o.run) c).state = c.state :=
        (congrArg Claim.state hrecord : (Claim.mapEdge (fun _ _ => o.run) c).record.state = c.record.state)
      have hwish : (Claim.mapEdge (fun _ _ => o.run) c).wantsSample = c.wantsSample :=
        (congrArg Claim.wantsSample hrecord :
          (Claim.mapEdge (fun _ _ => o.run) c).record.wantsSample = c.record.wantsSample)
      rw [heq, ← howner]
      refine postAll_noticed hk ?_ (hstate ▸ hs) (howner.symm ▸ hb) (hwish.symm ▸ hw)
      rw [State.updClaim_claim, if_pos rfl, hc]
      rfl
    · have hslot := edgeMomentAt_slot_of_ne s hia
      have hm' := (tripAt_congr hslot (State.edgeMomentAt_inputs s a)).1.trans hm
      obtain ⟨h1, h2⟩ := ih hn ((List.mem_cons.mp hi).resolve_left hia) hm'
      refine ⟨h1, fun k hk hs hb hw => h2 k hk hs ?_ hw⟩
      rw [barred_eq, State.edgeMomentAt_ports]
      exact hb

/-! ### The trips of an advance (R136, R137) -/

theorem placeByRank_perm (x : Nat × RaisedTrip) (l : List (Nat × RaisedTrip)) : (placeByRank x l).Perm (x :: l) := by
  induction l with
  | nil => exact .refl _
  | cons y ys ih =>
    unfold placeByRank
    split
    · exact .refl _
    · exact (ih.cons y).trans (.swap x y ys)

/-- The order in which the trips of an advance are raised is one of the orders of them (R137). -/
theorem momentOrder_perm (draw : Nat) (ts : List RaisedTrip) : (momentOrder draw ts).Perm ts := by
  have hplace : ∀ l : List (Nat × RaisedTrip), (l.foldr placeByRank []).Perm l := fun l => by
    induction l with
    | nil => exact .refl _
    | cons x xs ih => exact (placeByRank_perm x _).trans (ih.cons x)
  have hsnd : (((List.range ts.length).map (Config.momentRank draw)).zip ts).map Prod.snd = ts :=
    List.map_snd_zip (by simp)
  unfold momentOrder
  exact ((hplace _).map Prod.snd).trans (by rw [hsnd])

theorem raiseTrip_trips (s : State) (target : Target) (x : Trip) (g : Gate) :
    (s.raiseTrip target x).trips.get g = if target.includes g = true then s.trips.get g ++ [x] else s.trips.get g := by
  cases g <;> rfl

theorem foldl_raiseTrip_trips (ts : List RaisedTrip) (s : State) (g : Gate) :
    (ts.foldl (fun s t => s.raiseTrip t.target t.trip) s).trips.get g =
      s.trips.get g ++ (ts.filter fun t => t.target.includes g).map RaisedTrip.trip := by
  induction ts generalizing s with
  | nil => simp
  | cons x ts ih =>
    rw [List.foldl_cons, ih, raiseTrip_trips]
    split
    · rename_i h
      simp [h]
    · rename_i h
      simp [h]

theorem momentSlots_nodup (s : State) : s.momentSlots.Nodup := slotsWhere_nodup s _

/-- The trips of one gate among those that interval moments raise. -/
theorem edgeAdvance_trips (s : State) (g : Gate) : ∃ raised : List Trip,
    s.edgeAdvance.trips.get g = s.trips.get g ++ raised ∧
      raised.Perm (((s.momentSlots.filterMap s.tripAt).filter fun t => t.target.includes g).map RaisedTrip.trip) := by
  have hnd := momentSlots_nodup s
  refine ⟨_, ?_, ((momentOrder_perm s.draws _).filter _).map _⟩
  rw [← edgeMoments_trips hnd]
  have h := foldl_raiseTrip_trips (momentOrder s.draws (s.edgeMoments s.momentSlots).2)
    (s.edgeMoments s.momentSlots).1 g
  rw [State.edgeMoments_trips] at h
  exact h

theorem edgeAdvance_slots (s : State) : s.edgeAdvance.slots = (s.edgeMoments s.momentSlots).1.slots :=
  foldl_keeps State.slots (fun (s : State) (t : RaisedTrip) => s.raiseTrip t.target t.trip) (fun _ _ => rfl) _ _

theorem edgeAdvance_notices (s : State) : s.edgeAdvance.notices = (s.edgeMoments s.momentSlots).1.notices :=
  foldl_keeps State.notices (fun (s : State) (t : RaisedTrip) => s.raiseTrip t.target t.trip) (fun _ _ => rfl) _ _

theorem edgeAdvance_noticed {s : State} {m : Link} {k : NoticeKind} {j : SlotIx} (h : s.noticed m k j) :
    s.edgeAdvance.noticed m k j :=
  (noticed_congr (edgeAdvance_notices s) m k j).mpr (edgeMoments_noticed_of_noticed h _)

theorem edgeAdvance_runtimesOnly
 (s : State) : State.RuntimesOnly Claim.isEdge s s.edgeAdvance :=
  (edgeMoments_runtimesOnly _ s).trans (.of_slots (edgeAdvance_slots s))

theorem edgeAdvance_draws (s : State) : s.edgeAdvance.draws = s.draws + 1 := rfl

theorem mem_momentSlots (s : State) (i : SlotIx) : i ∈ s.momentSlots ↔ ∃ c b r, s.claim i = some c ∧
    c.payload = .esense b r ∧ c.state = .active ∧ 2 ^ b.interval ∣ s.clock.cadence.toNat := by
  unfold State.momentSlots
  rw [State.mem_slotsWhere]
  refine exists_congr fun c => ?_
  simp only [Bool.and_eq_true, decide_eq_true_eq]
  unfold Claim.edgeBody?
  cases c.payload <;> simp [dueAt_iff]

/-! ### The advance as a whole (R82) -/

theorem exec_cadenceAdvance {s : State} (h : s.resetHeld = false) : exec .cadenceAdvance s = .next s.advance := by
  change execCadenceAdvance s = _
  simp [execCadenceAdvance, h]

theorem takeCount_cadence (s : State) : s.takeCount.clock.cadence =
    if s.clock.momentsWait = true then s.clock.cadence else s.clock.cadence + 1#32 := by
  unfold State.takeCount
  split <;> rfl

/-- The state in which the edge unit takes an advance: the scheduler has worked on analog runtimes alone. -/
theorem advance_runtimesOnly (s : State) :
    State.RuntimesOnly Claim.isAnalog s s.takeCount.scheduleAdvance :=
  .trans (.of_slots (State.takeCount_slots s)) (scheduleAdvance_runtimesOnly _)

theorem isAnalog_of_edge {c : Claim} {b : EdgeBody} {r : EdgeRun} (h : c.payload = .esense b r) :
    Claim.isAnalog c = false := by
  simp [Claim.isAnalog, Claim.analogBody?, h]

/-- A claim with the record of an edge claim is one. -/
theorem edge_of_record {c cl : Claim} (h : cl.record = c.record) {b : EdgeBody} {r : EdgeRun}
    (hp : c.payload = .esense b r) : cl.resource = c.resource ∧ cl.state = c.state ∧
      ∃ r', cl.payload = .esense b r' := by
  have hres : cl.resource = c.resource := (congrArg Claim.resource h : cl.record.resource = c.record.resource)
  have hst : cl.state = c.state := (congrArg Claim.state h : cl.record.state = c.record.state)
  have hbare : cl.payload.bare = c.payload.bare := (congrArg Claim.payload h : cl.record.payload = c.record.payload)
  rw [hp] at hbare
  refine ⟨hres, hst, ?_⟩
  cases hp' : cl.payload with
  | esense b' r' =>
    rw [hp'] at hbare
    cases hbare
    exact ⟨r', rfl⟩
  | drive b' r' => rw [hp'] at hbare; cases hbare
  | gate b' => rw [hp'] at hbare; cases hbare
  | asense b' r' => rw [hp'] at hbare; cases hbare

theorem edgeMoment_inputs {s
 u : State} (h : u.inputs = s.inputs) (b : EdgeBody) (e : EdgeIn) (r : EdgeRun) :
    edgeMoment b u.inputs[e].level r = edgeMoment b s.inputs[e].level r := by rw [h]

theorem isAnalog_of_payload {c : Claim} (h : ∀ b r, c.payload ≠ .asense b r) : Claim.isAnalog c = false := by
  unfold Claim.isAnalog Claim.analogBody?
  cases hp : c.payload with
  | asense b r => exact absurd hp (h b r)
  | drive => rfl
  | gate => rfl
  | esense => rfl

theorem isEdge_of_payload

 {c : Claim} (h : ∀ b r, c.payload ≠ .esense b r) : Claim.isEdge c = false := by
  unfold Claim.isEdge Claim.edgeBody?
  cases hp : c.payload with
  | esense b r => exact absurd hp (h b r)
  | drive => rfl
  | gate => rfl
  | asense => rfl

/-- Settles O39. -/
theorem cadenceAdvanceWorksEdgeMoments : Obligations.CadenceAdvanceWorksEdgeMoments := by
  intro s hreset now moment
  have hmomentEdge : ∀ {i : SlotIx} {cl : Claim} {e : EdgeIn} {b : EdgeBody} {r : EdgeRun}, s.claim i = some cl →
      cl.resource = .edge e → cl.payload = .esense b r → moment i =
        if cl.state = .active ∧ 2 ^ b.interval ∣ now.toNat then
          some (e, cl.owner, b, edgeMoment b s.inputs[e].level r) else none := by
    intro i cl e b r hc hr hp
    obtain ⟨owner, resource, tag, cls, state, hold, deadline, pinned, wants, endCause, payload⟩ := cl
    subst hr hp
    simp only [moment]
    rw [hc]
    cases state <;> simp
  have hmomentNone : ∀ {i : SlotIx}, (∀ cl e b r, s.claim i = some cl → cl.resource = .edge e →
      cl.payload ≠ .esense b r) → moment i = none := by
    intro i hnone
    simp only [moment]
    split
    · rename_i hc
      exact absurd rfl (hnone _ _ _ _ hc rfl)
    · rfl
  refine ⟨s.advance, exec_cadenceAdvance hreset, ?_, fun i cl e b r hc hr hp => ?_, fun g => ?_⟩
  all_goals
    have hrun := advance_runtimesOnly s
    have hin : s.takeCount.scheduleAdvance.inputs = s.inputs := by simp
    have hports : s.takeCount.scheduleAdvance.ports = s.ports := by simp
    have hnow : s.takeCount.scheduleAdvance.clock.cadence = now := by
      rw [State.scheduleAdvance_clock, takeCount_cadence]
    have htrips : s.takeCount.scheduleAdvance.trips = s.trips := by simp
    have hdraws : s.takeCount.scheduleAdvance.draws = s.draws := by simp
    have hadv : s.advance = s.takeCount.scheduleAdvance.edgeAdvance := rfl
    generalize s.takeCount.scheduleAdvance = u at hrun hin hports hnow htrips hdraws hadv
  · rw [hadv, edgeAdvance_draws, hdraws]
  · have hcu := hrun.stands i cl hc (isAnalog_of_edge hp)
    have hmu := momentOf_of_edge hcu hr hp
    have hmem : i ∈ u.momentSlots ↔ cl.state = .active ∧ 2 ^ b.interval ∣ now.toNat := by
      rw [mem_momentSlots, hnow]
      simp [hcu, hp]
    have hmoment := hmomentEdge hc hr hp
    rw [edgeMoment_inputs hin] at hmu
    refine ⟨fun m hm => ?_, fun hm => ?_⟩
    · rw [hmoment] at hm
      split at hm
      · rename_i hcond
        cases hm
        obtain ⟨hclaim, hposts⟩ := edgeMoments_claim (momentSlots_nodup u) (hmem.mpr hcond) hmu
        have hmap : Claim.mapEdge (fun _ _ => (edgeMoment b s.inputs[e].level r).run) cl =
            { cl with payload := .esense b (edgeMoment b s.inputs[e].level r).run } := by
          simp [Claim.mapEdge, hp]
        rw [hadv, State.claim_congr (edgeAdvance_slots u), hclaim, hmap]
        refine ⟨rfl, fun k hk hb hw => ?_⟩
        refine (noticed_congr (edgeAdvance_notices u) _ _ _).mpr (hposts k hk (by rw [hcond.1]; decide) ?_ hw)
        rw [barred_eq, hports]
        exact hb
      · cases hm
    · rw [hmoment] at hm
      have hcond : ¬(cl.state = .active ∧ 2 ^ b.interval ∣ now.toNat) := fun h => by
        rw [if_pos h] at hm
        cases hm
      rw [hadv, State.claim_congr (edgeAdvance_slots u)]
      exact (claim_of_slot (edgeMoments_slot_of_not_mem (fun h => hcond (hmem.mp h)) u)).trans hcu
  · obtain ⟨raised, htg, hperm⟩ := edgeAdvance_trips u g
    refine ⟨raised, by rw [hadv, htg, htrips], hperm.trans (.of_eq ?_)⟩
    unfold State.momentSlots State.slotsWhere
    rw [List.filterMap_filter, List.filter_filterMap, List.map_filterMap]
    refine List.filterMap_congr fun i _ => ?_
    by_cases hedge : ∃ cl e b r, s.claim i = some cl ∧ cl.resource = .edge e ∧ cl.payload = .esense b r
    · obtain ⟨cl, e, b, r, hc, hr, hp⟩ := hedge
      have hcu := hrun.stands i cl hc (isAnalog_of_edge hp)
      have hmu := momentOf_of_edge hcu hr hp
      rw [edgeMoment_inputs hin] at hmu
      have hmem : i ∈ u.momentSlots ↔ cl.state = .active ∧ 2 ^ b.interval ∣ now.toNat := by
        rw [mem_momentSlots, hnow]
        simp [hcu, hp]
      have hslot := (State.claimIs_iff u i _).trans ((State.mem_slotsWhere u _ i).symm.trans hmem)
      rw [hmomentEdge hc hr hp, if_congr hslot rfl rfl, State.tripAt, hmu, hrun.handle]
      by_cases hcond : cl.state = .active ∧ 2 ^ b.interval ∣ now.toNat
      · rw [if_pos hcond, if_pos hcond]
        simp only [Option.bind_some]
        cases (edgeMoment b s.inputs[e].level r).trip with
        | none => rfl
        | some cause =>
          simp only [Option.bind_some, Option.map_some, Option.filter]
          split <;> rfl
      · rw [if_neg hcond, if_neg hcond]
        rfl
    · have htrip : u.tripAt i = none := by
        unfold State.tripAt
        cases hm : u.momentOf i with
        | none => rfl
        | some m =>
          obtain ⟨e, c, b, o⟩ := m
          obtain ⟨hc, hr, r, hp, -⟩ := momentOf_eq_some hm
          obtain ⟨cl, hcl, hrec⟩ := hrun.records.symm.claim hc
          obtain ⟨hres, -, r', hp'⟩ := edge_of_record hrec hp
          exact absurd ⟨cl, e, b, r', hcl, hres.trans hr, hp'⟩ hedge
      rw [htrip, hmomentNone fun cl e b r hc hr hp => hedge ⟨cl, e, b, r, hc, hr, hp⟩]
      split <;> rfl

/-! ### The scheduler's share of an advance -/

theorem allChannels_nodup : allChannels.Nodup := List.nodup_finRange 12

theorem dueAt_eq (count : Count32) : dueAt count = fun k => decide (2 ^ k ∣ count.toNat) :=
  funext fun k => Bool.eq_iff_iff.mpr ((dueAt_iff count k).trans decide_eq_true_iff.symm)

theorem takeCount_rangeInv {s : State} (h : RangeInv s) : RangeInv s.takeCount where
  claims i c hc := h.claims i c ((State.claim_congr (State.takeCount_slots s) i).symm.trans hc)
  periods g p hp := by
    rw [State.takeCount_gates] at hp
    split at hp
    · exact h.periods g p hp
    · rw [GateUnit.run_applied, GateUnit.run_staged] at hp
      exact h.periods g p hp
  duties := by simpa using h.duties
  quotas := by simpa using h.quotas
  windows := by simpa using h.windows
  filters := by simpa using h.filters

theorem arbiterInv_congr {s t : State} (ha : t.arbiter = s.arbiter) (hs : t.slots = s.slots) (h : ArbiterInv s) :
    ArbiterInv t := by
  have hm : ∀ c, t.analogMembers c = s.analogMembers c := fun c => State.slotsWhere_congr hs _
  refine ⟨fun c r hr => ?_, fun f hf => ?_, fun hf c => ?_⟩
  · rw [hm]
    exact h.waiting c r (by rw [← ha]; exact hr)
  · rw [hm]
    exact h.flight f (ha ▸ hf)
  · rw [ha]
    exact h.free (ha ▸ hf) c

theorem level_of_members {s : State} (h : RangeInv s) {c : AnalogCh} (hm : s.members (.analog c) ≠ []) :
    ∃ n, s.level c = some n ∧ 1 ≤ n ∧ n ≤ 3 := by
  obtain ⟨n, hn, ⟨i, cl, b, r, hi, hcl, hp, rfl⟩, -⟩ := memberField_min h hm AnalogBody.urgency
  obtain ⟨cl', b', r', hcl', hp', hrange⟩ := payload_of_analogMember h hi
  rw [hcl] at hcl'
  cases hcl'
  rw [hp] at hp'
  cases hp'
  obtain ⟨-, h1, h3, -⟩ := hrange
  exact ⟨b.urgency, hn, h1, h3⟩

/-- Under the invariant of the requests no claim waits twice. -/
theorem dueApart_of_arbiterInv {s : State} (h : ArbiterInv s) : s.DueApart := by
  have hmem : ∀ {c : AnalogCh} {i : SlotIx}, i ∈ s.overtakenOn c → ∃ r, s.arbiter.waiting[c] = some r ∧ i ∈ r.due := by
    intro c i hi
    unfold State.overtakenOn State.waitingDue at hi
    split at hi
    · split at hi
      · cases hi
      · rename_i r hr
        exact ⟨r, hr, hi⟩
    · cases hi
  refine ⟨fun c => ?_, fun c c' i hc hc' => ?_⟩
  · unfold State.overtakenOn State.waitingDue
    split
    · split
      · exact List.nodup_nil
      · rename_i r hr
        exact (h.waiting c r hr).2.1.imp fun hlt => ne_of_lt hlt
    · exact List.nodup_nil
  · obtain ⟨r, hr, hi⟩ := hmem hc
    obtain ⟨r', hr', hi'⟩ := hmem hc'
    obtain ⟨-, -, hm⟩ := h.waiting c r hr
    obtain ⟨-, -, hm'⟩ := h.waiting c' r' hr'
    obtain ⟨cl, hcl, hres, -⟩ := (mem_members s _ i).mp (hm i hi)
    obtain ⟨cl', hcl', hres', -⟩ := (mem_members s _ i).mp (hm' i hi')
    rw [hcl] at hcl'
    cases hcl'
    rw [hres] at hres'
    exact Resource.analog.inj hres'

theorem isDueOn_members {s : State} {c : AnalogCh} (h : s.isDueOn c = true) : s.members (.analog c) ≠ [] := by
  intro hnil
  rw [State.isDueOn, State.dueInterval, memberField_of_empty hnil] at h
  cases h

/-- After an advance every request that waits is of a channel at one of the three levels. -/
theorem foldl_dueMoment_waitsAtLevels {s : State} (hr : RangeInv s) (ha : ArbiterInv s) :
    (allChannels.foldl State.dueMoment s).WaitsAtLevels := by
  intro c hc
  rw [foldl_dueMoment_waiting allChannels_nodup, if_pos (mem_allChannels c)] at hc
  rw [(foldl_dueMoment_sameRecords allChannels s).level]
  refine level_of_members hr ?_
  by_cases hdue : s.isDueOn c = true
  · exact isDueOn_members hdue
  · rw [State.requestAt, if_neg hdue] at hc
    obtain ⟨r, hw⟩ := Option.ne_none_iff_exists'.mp hc
    obtain ⟨hne, -, hmem⟩ := ha.waiting c r hw
    obtain ⟨i, hi⟩ := List.exists_mem_of_ne_nil _ hne
    exact List.ne_nil_of_mem (hmem i hi)

theorem takeCount_clock {s : State} (h : ClockInv s) : s.takeCount.clock =
    if s.clock.momentsWait = true then { s.clock with momentsWait := false }
    else ⟨0, s.clock.cadence + 1#32, 125#32 * (s.clock.cadence + 1#32), false⟩ := by
  unfold State.takeCount
  split
  · rfl
  · exact nextTick_clock h false

theorem decideIfFree_of_busy {s : State} (h : s.arbiter.inFlight ≠ none) : s.decideIfFree = s := by
  simp [State.decideIfFree, Option.isNone_iff_eq_none, h]

theorem decideIfFree_of_none {s : State} (h : s.anyWaiting = false) : s.decideIfFree = s := by
  simp [State.decideIfFree, h]

theorem decideIfFree_of_waiting {s : State} (hf : s.arbiter.inFlight = none) (h : s.anyWaiting = true) :
    s.decideIfFree = s.decideGrant := by
  simp [State.decideIfFree, h, hf]

theorem advance_notices (s : State) : s.advance.notices =
    ((s.takeCount.scheduleAdvance).edgeMoments s.takeCount.scheduleAdvance.momentSlots).1.notices :=
  edgeAdvance_notices _

/-- Settles O38, over the state in which every channel has taken its due moment. -/
theorem cadenceAdvanceRaisesRequests : Obligations.CadenceAdvanceRaisesRequests := by
  intro s hreset htable hclock hrange harb now clock due isDue request deciding overtaken atEdgeMoment
  -- the state that takes the count, and the one in which the due moments have been worked
  have hslots : s.takeCount.slots = s.slots := by simp
  have harbiter : s.takeCount.arbiter = s.arbiter := by simp
  have hnotices : s.takeCount.notices = s.notices := by simp
  have hports : s.takeCount.ports = s.ports := by simp
  have hsetup : s.takeCount.setup = s.setup := by simp
  have hclk : s.takeCount.clock = clock := by
    rw [takeCount_clock hclock]
    simp only [clock, now]
    split <;> rfl
  have hnow : s.takeCount.clock.cadence = now := takeCount_cadence s
  have hrangew := takeCount_rangeInv hrange
  have harbw := arbiterInv_congr harbiter hslots harb
  have hrec0 : s.SameRecords s.takeCount := .of_slots hslots
  have hclaim0 := State.claim_congr hslots
  have hkeep0 : s.NoticesKept s.takeCount fun i => overtaken i ∨ atEdgeMoment i := .of_eq hnotices _
  have hisDue : ∀ c, s.takeCount.isDueOn c = isDue c := fun c => by
    rw [State.isDueOn, hnow, dueAt_eq, hrec0.dueInterval]
  have hdue : ∀ c, s.takeCount.dueList c = due c := fun c => by
    unfold State.dueList State.analogMembers
    rw [hrec0.members, hnow, dueAt_eq]
    refine List.filter_congr fun i _ => ?_
    rw [State.claimIs, hclaim0]
  have hrequest : ∀ c, s.takeCount.requestAt c = request c := fun c => by
    rw [State.requestAt, hisDue, hnow, hdue, harbiter]
  have hover : ∀ c i, i ∈ s.takeCount.overtakenOn c ↔
      isDue c = true ∧ ∃ q, s.arbiter.waiting[c] = some q ∧ i ∈ q.due := fun c i => by
    rw [State.overtakenOn, hisDue, State.waitingDue, harbiter]
    split
    · rename_i h
      cases s.arbiter.waiting[c] <;> simp [h]
    · rename_i h
      simp [h]
  have hadv : s.advance = ((allChannels.foldl State.dueMoment s.takeCount).decideIfFree).edgeAdvance := rfl
  have hapart := dueApart_of_arbiterInv harbw
  have hslotu := foldl_dueMoment_slot allChannels_nodup (fun c _ => hapart.nodup c)
    (fun c _ c' _ i h h' => hapart.apart c c' i h h')
  have hwaitu := fun c => (foldl_dueMoment_waiting allChannels_nodup s.takeCount c).trans
    ((if_pos (mem_allChannels c)).trans (hrequest c))
  have harbu := foldl_dueMoment_arbiter allChannels s.takeCount
  have hrecu := hrec0.trans (foldl_dueMoment_sameRecords allChannels s.takeCount)
  have hkeepu := foldl_dueMoment_noticesKept allChannels_nodup s.takeCount
  have hlevels := foldl_dueMoment_waitsAtLevels hrangew harbw
  have hclku : (allChannels.foldl State.dueMoment s.takeCount).clock = clock :=
    (foldl_keeps State.clock State.dueMoment State.dueMoment_clock _ _).trans hclk
  have hsetupu : (allChannels.foldl State.dueMoment s.takeCount).setup = s.setup :=
    (foldl_keeps State.setup State.dueMoment State.dueMoment_setup _ _).trans hsetup
  have hgatesu := foldl_keeps State.gates State.dueMoment State.dueMoment_gates allChannels s.takeCount
  have hlate := fun {c : AnalogCh} {i : SlotIx} {cl : Claim} (hi : i ∈ s.takeCount.overtakenOn c) =>
    foldl_dueMoment_noticed (cl := cl) allChannels_nodup (mem_allChannels c) hi
  generalize allChannels.foldl State.dueMoment s.takeCount = u at *
  have hbusyu : u.arbiter.inFlight = s.arbiter.inFlight := by rw [harbu, harbiter]
  have harbt : s.advance.arbiter = u.decideIfFree.arbiter := by rw [hadv, State.edgeAdvance_arbiter]
  have hclkt : s.advance.clock = clock := by rw [hadv, State.edgeAdvance_clock, State.decideIfFree_clock, hclku]
  -- a claim that is no edge claim comes through the edge unit's share as the scheduler has left it
  have hthrough : ∀ {i : SlotIx} {cl : Claim}, u.claim i = some cl → Claim.isEdge cl = false →
      s.advance.claim i = some cl := fun hc hk => by
    rw [hadv]
    exact (edgeAdvance_runtimesOnly _).stands _ _ ((State.claim_congr (State.decideIfFree_slots u) _).trans hc) hk
  have hmissed : ∀ {c i cl}, s.claim i = some cl → cl.resource = .analog c →
      ((∃ c' ∈ allChannels, i ∈ s.takeCount.overtakenOn c') ↔ i ∈ s.takeCount.overtakenOn c) := by
    refine fun {c i cl} hc hr => ⟨fun ⟨c', _, hi⟩ => ?_, fun hi => ⟨c, mem_allChannels c, hi⟩⟩
    obtain ⟨-, q, hq, hiq⟩ := (hover c' i).mp hi
    obtain ⟨cl', hcl', hr', -⟩ := (mem_members s _ i).mp ((harb.waiting c' q hq).2.2 i hiq)
    rw [hc] at hcl'
    cases hcl'
    rw [hr] at hr'
    cases hr'
    exact hi
  refine ⟨s.advance, exec_cadenceAdvance hreset, hclkt, ?_, fun g => ?_, fun i => ?_, ?_, fun hbusy => ?_,
    fun hfree hnone => ?_, fun hfree hsome => ?_,
    fun c i cl b r hc hr hp => ⟨fun hmiss => ⟨?_, fun hb => ?_⟩, fun hmiss => ?_⟩, fun i cl hc hk => ?_⟩
  · apply State.eq_of_fields <;> simp [hclkt]
  · rw [hadv, State.edgeAdvance_gates, State.decideIfFree_gates, hgatesu, State.takeCount_gates]
  · obtain ⟨h1, h2⟩ := (advance_runtimesOnly s).slotsKept i
    obtain ⟨h3, h4⟩ := (edgeAdvance_runtimesOnly s.takeCount.scheduleAdvance).slotsKept i
    exact ⟨h3.trans h1, h4.trans h2⟩
  · refine hkeep0.trans ((hkeepu.mono fun i => ?_).trans ?_)
    · rintro ⟨c, -, hi⟩
      obtain ⟨hd, q, hq, hiq⟩ := (hover c i).mp hi
      exact .inl ⟨c, q, hd, hq, hiq⟩
    · intro l e he
      rw [hadv, edgeAdvance_notices, edgeMoments_noticesKept _ _ l e fun hm => he (.inr ?_), State.decideIfFree_notices]
      obtain ⟨cl, b, r, hcl, hp, hst, hdvd⟩ := (mem_momentSlots _ _).mp hm
      rw [State.decideIfFree_clock, hclku] at hdvd
      rw [State.claim_congr (State.decideIfFree_slots u)] at hcl
      obtain ⟨cl', hcl', hrec⟩ := hrecu.symm.claim hcl
      obtain ⟨-, hst', r', hp'⟩ := edge_of_record hrec hp
      exact ⟨cl', b, r', hcl', hp', hst'.trans hst, by rwa [← hclk, hnow] at hdvd⟩
  · rw [harbt, decideIfFree_of_busy (hbusyu ▸ hbusy)]
    exact ⟨hbusyu, hwaitu⟩
  · rw [harbt, decideIfFree_of_none ((anyWaiting_eq_false_iff u).mpr fun c => (hwaitu c).trans (hnone c)), hbusyu, hfree]
  · have hany : u.anyWaiting = true := by
      obtain ⟨c, hc⟩ := hsome
      exact (anyWaiting_iff u).mpr ⟨c, hwaitu c ▸ hc⟩
    have hgrant := decideIfFree_of_waiting (hbusyu.trans hfree) hany
    have halike : State.AlikeToGrant deciding u := ⟨hrecu, by rw [hclku], hsetupu⟩
    have hsame : u.arbiter = deciding.arbiter := by
      rw [harbu, harbiter]
      have : u.arbiter.waiting = Vector.ofFn request := by
        ext c hc : 1
        rw [Vector.getElem_ofFn]
        exact hwaitu ⟨c, hc⟩
      rw [this]
    obtain ⟨c, r, a, hw, ha, hdec⟩ := decideGrant_grants hlevels hany
    have hwa : ({ u with arbiter := a } : State).arbiter.waiting[c] = some r := by
      change a.waiting[c] = some r
      rw [ha]
      exact hw
    refine ⟨?_, c, r, (hwaitu c).symm.trans hw, ?_, fun c' => ?_⟩
    · rw [harbt, hgrant, decideGrant_alike halike hsame]
    · rw [harbt, hgrant, hdec, grant_inFlight hwa]
      change some (Conversion.mk c r.moment r.due (u.clock.stamp + BitVec.ofNat 32 (u.setup.windows[c] + 2))) = _
      rw [hclku, hsetupu]
    · rw [harbt, hgrant, hdec, grant_waiting hwa, getElem_set_fin]
      change (if c' = c then none else a.waiting[c']) = _
      rw [ha]
      exact ite_congr rfl (fun _ => rfl) fun _ => hwaitu c'
  · have hin : i ∈ s.takeCount.overtakenOn c := (hover c i).mpr hmiss
    have hclaim : u.claim i = some (Claim.missed cl) := by
      rw [State.claim_def, hslotu, if_pos ((hmissed hc hr).mpr hin), mapClaim_claim, ← State.claim_def, hclaim0, hc]
      rfl
    have hmissedEq : Claim.missed cl = { cl with payload := .asense b { r with missed := min 255 (r.missed + 1) } } := by
      simp [Claim.missed, Claim.mapAnalog, hp, AnalogRun.miss]
    rw [hmissedEq] at hclaim
    exact hthrough hclaim (isEdge_of_payload fun _ _ h => by cases h)
  · have hin : i ∈ s.takeCount.overtakenOn c := (hover c i).mpr hmiss
    obtain ⟨-, q, hq, hiq⟩ := hmiss
    obtain ⟨cl', hcl', -, hactive⟩ := (mem_members s _ i).mp ((harb.waiting c q hq).2.2 i hiq)
    rw [hc] at hcl'
    cases hcl'
    have hbw : s.takeCount.barred cl.owner = false := by rw [barred_eq, hports]; exact hb
    rw [hadv]
    refine edgeAdvance_noticed ((noticed_congr (State.decideIfFree_notices u) _ _ _).mpr ?_)
    exact hlate hin ((hclaim0 i).trans hc) (by rw [hactive]; decide) hbw
  · have hclaim : u.claim i = some cl := by
      rw [State.claim_def, hslotu, if_neg fun h => hmiss ((hover c i).mp ((hmissed hc hr).mp h)), ← State.claim_def,
        hclaim0, hc]
    exact hthrough hclaim (isEdge_of_payload fun _ _ h => by rw [hp] at h; cases h)
  · have hanalog : Claim.isAnalog cl = false := isAnalog_of_payload fun b r hp => by
      rw [Claim.kind, hp] at hk
      rcases hk with hk | hk <;> cases hk
    refine (edgeAdvance_runtimesOnly _).stands i cl ((advance_runtimesOnly s).stands i cl hc hanalog) ?_
    refine isEdge_of_payload fun b r hp => ?_
    rw [Claim.kind, hp] at hk
    rcases hk with hk | hk <;> cases hk

end Sys2Proof.Machine
end


section
/-! SUPPORT and PROOFS. Values and edges handed to sense claims: the completion of a conversion and the glitch
filters. -/

namespace Sys2Proof.Machine

/-! ### Work on one sense claim after another -/

/-- Work on the claims of a kind, slot by slot. `out` is what the work makes of a slot's claim and the kinds that it
posts there, and none where it leaves the slot. -/
structure SenseWork (p : Claim → Bool) (work : State → SlotIx → State)
    (out : State → SlotIx → Option (Claim × List NoticeKind)) : Prop where
  done : ∀ s i c' ks, out s i = some (c', ks) → ∃ c, s.claim i = some c ∧ p c = true ∧ c'.record = c.record ∧
    (work s i).slots = (s.updClaim i fun _ => c').slots ∧
    (work s i).notices = ((s.updClaim i fun _ => c').postAll ks i).notices
  idle : ∀ s i, out s i = none → (work s i).slots = s.slots ∧ (work s i).notices = s.notices
  ports : ∀ s i, (work s i).ports = s.ports
  others : ∀ s i j, i ≠ j → out (work s j) i = out s i

section SenseWork

variable {p : Claim → Bool} {work : State → SlotIx → State} {out : State → SlotIx → Option (Claim × List NoticeKind)}
  (hw : SenseWork p work out)
include hw

theorem SenseWork.slot_of_ne (s : State) {i j : SlotIx} (h : j ≠ i) : (work s i).slots[j] = s.slots[j] := by
  cases ho : out s i with
  | none => rw [(hw.idle s i ho).1]
  | some x =>
    obtain ⟨c, -, -, -, hslots, -⟩ := hw.done s i x.1 x.2 ho
    rw [hslots, State.updClaim_slot, if_neg h]

theorem SenseWork.runtimesOnly (s : State) (i : SlotIx) : State.RuntimesOnly p s (work s i) := by
  cases ho : out s i with
  | none => exact .of_slots (hw.idle s i ho).1
  | some x =>
    obtain ⟨c, hc, hp, hrec, hslots, -⟩ := hw.done s i x.1 x.2 ho
    have hclaim : ∀ j, (work s i).claim j = if j = i then some x.1 else s.claim j := fun j => by
      rw [State.claim_congr hslots, State.updClaim_claim, hc]
      rfl
    refine ⟨fun j => ?_, fun j => ?_, fun j c' hc' hp' => ?_⟩
    · rw [hclaim]
      split
      · rename_i h
        rw [h, hc]
        exact congrArg some hrec
      · rfl
    · rw [hslots, updClaim_slot_mapClaim]
      split <;> rfl
    · rw [hclaim, if_neg, hc']
      rintro rfl
      rw [hc] at hc'
      cases hc'
      rw [hp] at hp'
      cases hp'

theorem SenseWork.noticesKept (s : State) (i : SlotIx) :
    s.NoticesKept (work s i) fun j => j = i ∧ out s i ≠ none := by
  cases ho : out s i with
  | none => exact .of_eq (hw.idle s i ho).2 _
  | some x =>
    obtain ⟨c, -, -, -, -, hnotices⟩ := hw.done s i x.1 x.2 ho
    intro l e he
    rw [hnotices]
    exact (s.updClaim i _).postAll_noticesKept x.2 i l e fun h => he ⟨h, by simp⟩

theorem SenseWork.noticed_of_noticed {s : State} {m : Link} {k : NoticeKind} {j : SlotIx} (h : s.noticed m k j)
    (i : SlotIx) : (work s i).noticed m k j := by
  cases ho : out s i with
  | none => exact (noticed_congr (hw.idle s i ho).2 m k j).mpr h
  | some x =>
    obtain ⟨c, -, -, -, -, hnotices⟩ := hw.done s i x.1 x.2 ho
    exact (noticed_congr hnotices m k j).mpr (postAll_noticed_of_noticed (s := s.updClaim i _) h x.2 i)

theorem SenseWork.foldl_runtimesOnly (is : List SlotIx) (s : State) : State.RuntimesOnly p s (is.foldl work s) :=
  .foldl hw.runtimesOnly is s

theorem SenseWork.foldl_slot_of_not_mem {is : List SlotIx} {j : SlotIx} (hj : j ∉ is) (s : State) :
    (is.foldl work s).slots[j] = s.slots[j] := by
  induction is generalizing s with
  | nil => rfl
  | cons i is ih =>
    obtain ⟨hji, hj⟩ := List.ne_and_not_mem_of_not_mem_cons hj
    exact (ih hj _).trans (hw.slot_of_ne s hji)

theorem SenseWork.foldl_noticesKept {is : List SlotIx} (hn : is.Nodup) (s : State) :
    s.NoticesKept (is.foldl work s) fun j => j ∈ is ∧ out s j ≠ none := by
  induction is generalizing s with
  | nil => exact .refl s _
  | cons i is ih =>
    obtain ⟨hi, hn⟩ := List.nodup_cons.mp hn
    refine ((hw.noticesKept s i).mono ?_).trans ((ih hn (work s i)).mono fun j hj => ?_)
    · rintro j ⟨rfl, ho⟩
      exact ⟨List.mem_cons_self, ho⟩
    · exact ⟨List.mem_cons_of_mem _ hj.1, hw.others s j i (fun e => hi (e ▸ hj.1)) ▸ hj.2⟩

theorem SenseWork.foldl_claim_of_none {is : List SlotIx} (hn : is.Nodup) {s : State} {i : SlotIx}
    (ho : out s i = none) : (is.foldl work s).slots[i] = s.slots[i] := by
  induction is generalizing s with
  | nil => rfl
  | cons a is ih =>
    obtain ⟨ha, hn⟩ := List.nodup_cons.mp hn
    rw [List.foldl_cons]
    by_cases hia : i = a
    · subst hia
      rw [hw.foldl_slot_of_not_mem ha, (hw.idle s i ho).1]
    · rw [ih hn ((hw.others s i a hia).trans ho), hw.slot_of_ne s hia]

theorem SenseWork.foldl_claim {is : List SlotIx} (hn : is.Nodup) {s : State} {i : SlotIx} (hi : i ∈ is) {c c' : Claim}
    {ks : List NoticeKind} (hc : s.claim i = some c) (ho : out s i = some (c', ks)) :
    (is.foldl work s).claim i = some c' ∧
      ∀ k ∈ ks, c.state ≠ .spent → s.barred c.owner = false → (k = .sample → c.wantsSample = true) →
        (is.foldl work s).noticed c.owner k i := by
  induction is generalizing s with
  | nil => cases hi
  | cons a is ih =>
    obtain ⟨ha, hn⟩ := List.nodup_cons.mp hn
    rw [List.foldl_cons]
    by_cases hia : i = a
    · subst hia
      obtain ⟨x, hx, -, hrec, hslots, hnotices⟩ := hw.done s i c' ks ho
      rw [hc] at hx
      cases hx
      have hclaim : (s.updClaim i fun _ => c').claim i = some c' := by
        rw [State.updClaim_claim, if_pos rfl, hc]
        rfl
      refine ⟨(claim_of_slot (hw.foldl_slot_of_not_mem ha _)).trans ((State.claim_congr hslots i).trans hclaim),
        fun k hk hs hb hwish => ?_⟩
      have howner : c'.owner = c.owner := (congrArg Claim.owner hrec : c'.record.owner = c.record.owner)
      have hstate : c'.state = c.state := (congrArg Claim.state hrec : c'.record.state = c.record.state)
      have hws : c'.wantsSample = c.wantsSample :=
        (congrArg Claim.wantsSample hrec : c'.record.wantsSample = c.record.wantsSample)
      refine List.foldlRecOn (motive := fun t : State => t.noticed c.owner k i) is work ?_
        fun t ht j _ => hw.noticed_of_noticed ht j
      rw [noticed_congr hnotices, ← howner]
      exact postAll_noticed hk hclaim (hstate ▸ hs) (howner.symm ▸ hb) (hws.symm ▸ hwish)
    · have hc' : (work s a).claim i = some c := (claim_of_slot (hw.slot_of_ne s hia)).trans hc
      obtain ⟨h1, h2⟩ := ih hn ((List.mem_cons.mp hi).resolve_left hia) hc' ((hw.others s i a hia).trans ho)
      refine ⟨h1, fun k hk hs hb hwish => h2 k hk hs ?_ hwish⟩
      rw [barred_eq, hw.ports]
      exact hb

end SenseWork

/-! ### Deliveries (R110 to R114) -/

/-- What a delivery makes of a claim. -/
def State.delivered (s : State) (value : Nat) (i : SlotIx) : Option (Claim × AnalogBody × SenseOutcome AnalogRun) :=
  match s.claim i with
  | none => none
  | some c =>
    match c.payload with
    | .asense b r => some (c, b, analogDeliver b value r)
    | _ => none

theorem delivered_of_analog {s : State} {i : SlotIx} {c : Claim} {b : AnalogBody} {r : AnalogRun}
    (hc : s.claim i = some c) (hp : c.payload = .asense b r) (value : Nat) :
    s.delivered value i = some (c, b, analogDeliver b value r) := by
  unfold State.delivered
  simp only [hc, hp]

theorem delivered_eq_some {s : State} {value : Nat} {i : SlotIx} {c : Claim} {b : AnalogBody}
    {o : SenseOutcome AnalogRun} (h : s.delivered value i = some (c, b, o)) :
    s.claim i = some c ∧ ∃ r, c.payload = .asense b r ∧ o = analogDeliver b value r := by
  unfold State.delivered at h
  cases hc : s.claim i with
  | none => rw [hc] at h; cases h
  | some c' =>
    rw [hc] at h
    cases hp : c'.payload <;> simp only [hp] at h <;> cases h
    exact ⟨rfl, _, hp, rfl⟩

theorem delivered_congr {s t : State} {i : SlotIx} (h : t.claim i = s.claim i) (value : Nat) :
    t.delivered value i = s.delivered value i := by
  unfold State.delivered
  rw [h]

theorem deliver_of_none {s : State} {value : Nat} {i : SlotIx} (h : s.delivered value i = none) (ch : AnalogCh) :
    s.deliver ch value i = s := by
  unfold State.delivered at h
  unfold State.deliver
  cases hc : s.claim i with
  | none => rfl
  | some c =>
    rw [hc] at h
    cases hp : c.payload <;> simp_all

/-- The trip of a delivery, raised toward the gates of its target (R113, R142). -/
def State.raiseOf (s : State) (i : SlotIx) (ch : AnalogCh) (c : Claim) (b : AnalogBody) (cause : Option TripCause)
    (u : State) : State :=
  match cause with
  | none => u
  | some cause => u.raiseTrip (b.targetFor cause) (s.tripOf i c (.analog ch) cause b.pattern)

theorem deliver_of_some {s : State} {value : Nat} {i : SlotIx} {c : Claim} {b : AnalogBody}
    {o : SenseOutcome AnalogRun} (h : s.delivered value i = some (c, b, o)) (ch : AnalogCh) :
    s.deliver ch value i = s.raiseOf i ch c b o.trip
      ((s.updClaim i (Claim.mapAnalog fun _ _ => o.run)).postAll o.posts i) := by
  obtain ⟨hc, r, hp, rfl⟩ := delivered_eq_some h
  unfold State.deliver
  simp only [hc, hp]
  rfl

theorem updClaim_const {s : State} {i : SlotIx} {c : Claim} (hc : s.claim i = some c) (f : Claim → Claim) :
    (s.updClaim i fun _ => f c) = s.updClaim i f := by
  rw [State.updClaim_eq_putClaim hc, State.updClaim_eq_putClaim hc]

@[simp] theorem raiseOf_slots (s : State) (i : SlotIx) (ch : AnalogCh) (c : Claim) (b : AnalogBody)
    (cause : Option TripCause) (u : State) : (s.raiseOf i ch c b cause u).slots = u.slots := by cases cause <;> rfl

@[simp] theorem raiseOf_notices (s : State) (i : SlotIx) (ch : AnalogCh) (c : Claim) (b : AnalogBody)
    (cause : Option TripCause) (u : State) : (s.raiseOf i ch c b cause u).notices = u.notices := by cases cause <;> rfl

theorem deliver_slot_of_ne (s : State) (ch : AnalogCh) (value : Nat) {i j : SlotIx} (h : j ≠ i) :
    (s.deliver ch value i).slots[j] = s.slots[j] := by
  cases ho : s.delivered value i with
  | none => rw [deliver_of_none ho]
  | some x =>
    obtain ⟨c, b, o⟩ := x
    rw [deliver_of_some ho, raiseOf_slots, State.postAll_slots, State.updClaim_slot, if_neg h]

theorem deliver_senseWork (ch : AnalogCh) (value : Nat) : SenseWork Claim.isAnalog (fun s i => s.deliver ch value i)
    fun s i => (s.delivered value i).map fun x => (Claim.mapAnalog (fun _ _ => x.2.2.run) x.1, x.2.2.posts) where
  done s i c' ks h := by
    obtain ⟨⟨c, b, o⟩, hx, he⟩ := Option.map_eq_some_iff.mp h
    cases he
    obtain ⟨hc, r, hp, -⟩ := delivered_eq_some hx
    refine ⟨c, hc, by simp [Claim.isAnalog, Claim.analogBody?, hp], mapAnalog_record _ c, ?_, ?_⟩
    · rw [deliver_of_some hx, raiseOf_slots, State.postAll_slots, updClaim_const hc]
    · rw [deliver_of_some hx, raiseOf_notices, updClaim_const hc]
  idle s i h := by
    rw [deliver_of_none (Option.map_eq_none_iff.mp h)]
    exact ⟨rfl, rfl⟩
  ports s i := s.deliver_ports ch value i
  others s i j h := by
    rw [delivered_congr (claim_of_slot (deliver_slot_of_ne s ch value h))]


/-- The trip toward one gate that a delivery raises. -/
def State.deliveryTrip (s : State) (ch : AnalogCh) (value : Nat) (g : Gate) (i : SlotIx) : Option Trip :=
  (s.delivered value i).bind fun x => x.2.2.trip.bind fun cause =>
    if (x.2.1.targetFor cause).includes g = true then some (s.tripOf i x.1 (.analog ch) cause x.2.1.pattern) else none

theorem deliveryTrip_eq {s t : State} (hslots : t.slots = s.slots) (ch : AnalogCh) (value : Nat) (g : Gate)
    (i : SlotIx) : t.deliveryTrip ch value g i = (s.claim i).bind fun cl =>
      match cl.payload with
      | .asense b r => (analogDeliver b value r).trip.bind fun cause =>
        if (b.targetFor cause).includes g = true then some ⟨.analog ch, cause, b.pattern, cl.owner, s.handle i⟩ else none
      | _ => none := by
  unfold State.deliveryTrip State.delivered State.tripOf State.handle
  rw [State.claim_congr hslots, hslots]
  cases s.claim i with
  | none => rfl
  | some c =>
    cases hp : c.payload <;> simp only [hp, Option.bind_some] <;> rfl

theorem deliver_trips (s : State)
 (ch : AnalogCh) (value : Nat) (i : SlotIx) (g : Gate) :
    (s.deliver ch value i).trips.get g = s.trips.get g ++ (s.deliveryTrip ch value g i).toList := by
  cases ho : s.delivered value i with
  | none => simp [deliver_of_none ho, State.deliveryTrip, ho]
  | some x =>
    obtain ⟨c, b, o⟩ := x
    rw [deliver_of_some ho]
    cases ht : o.trip with
    | none => simp [State.raiseOf, State.deliveryTrip, ho, ht]
    | some cause =>
      simp only [State.raiseOf, raiseTrip_trips, State.deliveryTrip, ho, ht, Option.bind_some, State.postAll_trips,
        State.updClaim_trips]
      split <;> simp

theorem foldl_deliver_trips {is : List SlotIx} (hn : is.Nodup) (s : State) (ch : AnalogCh) (value : Nat) (g : Gate) :
    (is.foldl (fun s i => s.deliver ch value i) s).trips.get g =
      s.trips.get g ++ is.filterMap (s.deliveryTrip ch value g) := by
  induction is generalizing s with
  | nil => simp
  | cons i is ih =>
    obtain ⟨hi, hn⟩ := List.nodup_cons.mp hn
    have hrest : is.filterMap ((s.deliver ch value i).deliveryTrip ch value g) =
        is.filterMap (s.deliveryTrip ch value g) := List.filterMap_congr fun j hj => by
      have hslot := deliver_slot_of_ne s ch value fun e : j = i => hi (e ▸ hj)
      unfold State.deliveryTrip State.tripOf State.handle
      rw [delivered_congr (claim_of_slot hslot), hslot]
    rw [List.foldl_cons, ih hn, deliver_trips, hrest, List.filterMap_cons, List.append_assoc]
    cases s.deliveryTrip ch value g i <;> rfl

/-! ### Time passes to an instant of the present tick (R93, R126) -/

theorem passClocks_frame (s : State) (n : Nat) :
    s.passClocks n = { s with clock := (s.passClocks n).clock, gates := (s.passClocks n).gates } := rfl

theorem passClocks_clock_of_le {s : State} {n : Nat} (hn : n ≤ 2000 - s.clock.divider) : (s.passClocks n).clock =
    { s.clock with
      divider := s.clock.divider + n
      stamp := s.clock.stamp + BitVec.ofNat 32 ((s.clock.divider + n) / 16 - s.clock.divider / 16) } := by
  have hm : min n (2000 - s.clock.divider) = n := Nat.min_eq_left hn
  unfold State.passClocks
  rw [hm]

theorem passClocks_gates_of_le {s : State} {n : Nat} (hn : n ≤ 2000 - s.clock.divider) (g : Gate) :
    (s.passClocks n).gates.get g = GateUnit.run n (s.gates.get g) := by
  rw [State.passClocks_gates, Nat.min_eq_left hn]

theorem atInstant_of_le {s : State} {n : Nat} (h : s.clock.divider + n ≤ 2000) (event : State → State) :
    s.atInstant n event = event (s.passClocks n) := if_pos h

theorem atInstant_of_lt {s : State} {n : Nat} (h : 2000 < s.clock.divider + n) (event : State → State) :
    s.atInstant n event = s := if_neg (not_le.mpr h)

/-- The gate clocks to a stamp counter some µs ahead lie within the tick exactly if its µs do (R93, R126). -/
theorem clocksIn_le_iff {s : State} (h : s.clock.divider ≤ 2000) (micros : Nat) :
    s.clock.divider + s.clocksIn micros ≤ 2000 ↔ s.clock.divider / 16 + micros ≤ 125 := by
  unfold State.clocksIn
  omega

theorem clocksIn_stamp {s : State} (micros : Nat) :
    (s.clock.divider + s.clocksIn micros) / 16 - s.clock.divider / 16 = micros := by
  unfold State.clocksIn
  omega

/-! ### The completion of a conversion (R96) -/

theorem exec_conversionComplete_of_free {s : State} (hr : s.resetHeld = false) (hf : s.arbiter.inFlight = none)
    (value : BitVec 12) : exec (.conversionComplete value) s = .next s := by
  change execConversionComplete value s = _
  simp [execConversionComplete, hr, hf]

theorem exec_conversionComplete_of_inFlight {s : State} (hr : s.resetHeld = false) {f : Conversion}
    (hf : s.arbiter.inFlight = some f) (value : BitVec 12) : exec (.conversionComplete value) s =
      .next (s.atInstant (s.clocksIn (s.microsTo f.completesAt)) fun s => s.complete f value.toNat) := by
  change execConversionComplete value s = _
  simp [execConversionComplete, hr, hf]

/-- Every waiting request is of a channel with members, and so at one of the three levels. -/
theorem waitsAtLevels_of_inv {s : State} (hr : RangeInv s) (ha : ArbiterInv s) : s.WaitsAtLevels := fun c hc => by
  obtain ⟨r, hw⟩ := Option.ne_none_iff_exists'.mp hc
  obtain ⟨hne, -, hmem⟩ := ha.waiting c r hw
  obtain ⟨i, hi⟩ := List.exists_mem_of_ne_nil _ hne
  exact level_of_members hr (List.ne_nil_of_mem (hmem i hi))

theorem waitsAtLevels_congr {s t : State} (hrec : s.SameRecords t) (hw : t.arbiter.waiting = s.arbiter.waiting)
    (h : s.WaitsAtLevels) : t.WaitsAtLevels := fun c hc => by
  rw [hrec.level]
  exact h c (by rwa [hw] at hc)

theorem runtimesOnly_claim_of_kind {s t : State} (h : State.RuntimesOnly Claim.isAnalog s t) {i : SlotIx} {cl : Claim}
    (hc : s.claim i = some cl) (hk : cl.kind ≠ .asense) : t.claim i = some cl :=
  h.stands i cl hc (isAnalog_of_payload fun b r hp => hk (by rw [Claim.kind, hp]; rfl))

/-- Settles O42. -/
theorem conversionCompleteDelivers : Obligations.ConversionCompleteDelivers := by
  intro value s hreset
  refine ⟨fun hf => exec_conversionComplete_of_free hreset hf value, fun f hf => ?_⟩
  intro ahead left
  have hexec := exec_conversionComplete_of_inFlight hreset hf value
  have hleft : s.microsTo f.completesAt = left := rfl
  rw [hleft] at hexec
  refine ⟨fun hclock hfar => ?_, fun hclock hnear htable hrange harb => ?_⟩
  · rw [hexec, atInstant_of_lt]
    have := clocksIn_le_iff hclock.1 left
    omega
  · intro clocks
    have hle := (clocksIn_le_iff hclock.1 left).mpr hnear
    have hn : clocks ≤ 2000 - s.clock.divider := by
      change s.clocksIn left ≤ _
      omega
    rw [atInstant_of_le hle] at hexec
    change exec _ s = .next ((s.passClocks clocks).complete f value.toNat) at hexec
    -- the state at the instant of the completion, and the one in which the value has been delivered
    have hnd : f.due.Nodup := (harb.flight f hf).1.imp fun hlt => ne_of_lt hlt
    have hwork := deliver_senseWork f.channel value.toNat
    have hslots : (s.passClocks clocks).slots = s.slots := by simp
    have hclk := passClocks_clock_of_le hn
    have hstamp : (s.clock.divider + clocks) / 16 - s.clock.divider / 16 = left := clocksIn_stamp left
    rw [hstamp] at hclk
    have hsteady := fun {A : Type} (g : State → A) (h : ∀ s i, g (s.deliver f.channel value.toNat i) = g s) =>
      foldl_keeps g (fun s i => s.deliver f.channel value.toNat i) h f.due (s.passClocks clocks)
    have hclku := (hsteady State.clock fun s i => s.deliver_clock _ _ i).trans hclk
    have hgatesu := hsteady State.gates fun s i => s.deliver_gates _ _ i
    have harbu := (hsteady State.arbiter fun s i => s.deliver_arbiter _ _ i).trans (s.passClocks_arbiter clocks)
    have hsetupu := (hsteady State.setup fun s i => s.deliver_setup _ _ i).trans (s.passClocks_setup clocks)
    have hrunu : State.RuntimesOnly Claim.isAnalog s (f.due.foldl (fun s i => s.deliver f.channel value.toNat i)
        (s.passClocks clocks)) := (State.RuntimesOnly.of_slots hslots).trans (hwork.foldl_runtimesOnly f.due _)
    have hkeptu := hwork.foldl_noticesKept hnd (s.passClocks clocks)
    have hclaimu := fun {i : SlotIx} (hi : i ∈ f.due) {c c' : Claim} {ks : List NoticeKind} =>
      hwork.foldl_claim hnd (s := s.passClocks clocks) hi (c := c) (c' := c') (ks := ks)
    have houtu := fun {i : SlotIx} (hi : i ∉ f.due) => hwork.foldl_slot_of_not_mem hi (s.passClocks clocks)
    have htripsu := foldl_deliver_trips hnd (s.passClocks clocks) f.channel value.toNat
    have hdef : (s.passClocks clocks).complete f value.toNat = State.decideIfFree
      { f.due.foldl (fun s i => s.deliver f.channel value.toNat i) (s.passClocks clocks) with
        arbiter := { (f.due.foldl (fun s i => s.deliver f.channel value.toNat i) (s.passClocks clocks)).arbiter with
          inFlight := none } } := rfl
    generalize f.due.foldl (fun s i => s.deliver f.channel value.toNat i) (s.passClocks clocks) = u at *
    generalize ht : (s.passClocks clocks).complete f value.toNat = t at *
    have hslotst : t.slots = u.slots := by rw [hdef, State.decideIfFree_slots]
    have hnoticest : t.notices = u.notices := by rw [hdef, State.decideIfFree_notices]
    have hclkt : t.clock = u.clock := by rw [hdef, State.decideIfFree_clock]
    have hthrough := State.claim_congr hslotst
    have hwaitu : u.arbiter.waiting = s.arbiter.waiting := by rw [harbu]
    have hleft' : ((f.completesAt - s.clock.stamp).toNat) = ahead := rfl
    refine ⟨t, hexec, ?_, ?_, ?_, fun g => ?_, fun i => ?_, ?_, fun i cl b r hc hp => ⟨fun hi => ?_, fun hi => ?_⟩,
      fun i cl hc hk => ?_, fun g => ?_, fun hnone => ?_, fun hsome => ?_⟩
    · rw [← ht]
      apply State.eq_of_fields <;> simp
    · rw [hclkt, hclku]
    · rw [hclkt, hclku]
    · rw [hdef, State.decideIfFree_gates]
      exact (congrArg (·.get g) hgatesu).trans (passClocks_gates_of_le hn g)
    · rw [hslotst, hthrough]
      exact hrunu.slotsKept i
    · intro l e he
      rw [hnoticest, hkeptu l e fun h => he h.1, State.passClocks_notices]
    · have hclaim0 : (s.passClocks clocks).claim i = some cl := (State.claim_congr hslots i).trans hc
      have hout := delivered_of_analog hclaim0 hp value.toNat
      have hactive : cl.state = .active := by
        obtain ⟨cl', hcl', -, hst⟩ := (mem_members s _ i).mp ((harb.flight f hf).2 i hi)
        rw [hc] at hcl'
        cases hcl'
        exact hst
      obtain ⟨h1, h2⟩ := hclaimu hi hclaim0 (by rw [hout, Option.map_some])
      refine ⟨?_, fun k hk hb hwish => ?_⟩
      · rw [hthrough, h1]
        unfold Claim.mapAnalog
        simp only [hp]
      · refine (noticed_congr hnoticest _ _ _).mpr (h2 k hk (by rw [hactive]; decide) ?_ hwish)
        rw [barred_eq, State.passClocks_ports]
        exact hb
    · exact (hthrough i).trans ((claim_of_slot (houtu hi)).trans ((State.claim_congr hslots i).trans hc))
    · rw [hthrough, runtimesOnly_claim_of_kind hrunu hc hk]
    · rw [hdef, State.decideIfFree_trips]
      refine (htripsu g).trans ?_
      rw [State.passClocks_trips]
      refine congrArg _ (List.filterMap_congr fun i _ => ?_)
      exact deliveryTrip_eq hslots f.channel value.toNat g i
    · rw [hdef, decideIfFree_of_none ((anyWaiting_eq_false_iff _).mpr fun c => hwaitu ▸ hnone c)]
      exact ⟨by rw [harbu], rfl, fun c => hwaitu ▸ hnone c⟩
    · have hany : ({ u with arbiter := { u.arbiter with inFlight := none } } : State).anyWaiting = true := by
        obtain ⟨c, hc⟩ := hsome
        exact (anyWaiting_iff _).mpr ⟨c, hwaitu ▸ hc⟩

      have hlevels : State.WaitsAtLevels { u with arbiter := { u.arbiter with inFlight := none } } :=
        waitsAtLevels_congr (t := { u with arbiter := { u.arbiter with inFlight := none } })
          hrunu.records hwaitu (waitsAtLevels_of_inv hrange harb)
      have hgrant := hdef.trans (decideIfFree_of_waiting rfl hany)
      have halike : State.AlikeToGrant { s with clock := t.clock, arbiter := { s.arbiter with inFlight := none } }
          { u with arbiter := { u.arbiter with inFlight := none } } :=
        ⟨hrunu.records, congrArg Clock.stamp hclkt.symm, hsetupu⟩

      obtain ⟨c, r, a, hw, ha, hdec⟩ := decideGrant_grants hlevels hany
      have hwa : ({ u with arbiter := a } : State).arbiter.waiting[c] = some r := by
        change a.waiting[c] = some r
        rw [ha]
        exact hw
      refine ⟨?_, c, r, hwaitu ▸ hw, ?_, fun c' => ?_⟩
      · have hdecided := congrArg State.arbiter (decideGrant_alike halike (by rw [harbu]))
        exact (congrArg State.arbiter hgrant).trans hdecided
      · rw [hclkt, hgrant, hdec]
        refine (grant_inFlight hwa).trans ?_
        change some (Conversion.mk c r.moment r.due (u.clock.stamp + BitVec.ofNat 32 (u.setup.windows[c] + 2))) = _
        rw [hsetupu]


      · rw [hgrant, hdec]
        refine (congrArg (·[c']) (grant_waiting hwa)).trans ?_
        rw [getElem_set_fin]
        change (if c' = c then none else a.waiting[c']) = _
        rw [ha]
        exact ite_congr rfl (fun _ => rfl) fun _ => hwaitu ▸ rfl

/-! ### An accepted edge (R127, R128) -/

/-- What an accepted edge makes of a claim that takes it. -/
def State.handed (s : State) (new : Level) (stamp : Count32) (i : SlotIx) : Option (Claim × SenseOutcome EdgeRun) :=
  match s.claim i with
  | none => none
  | some c =>
    match c.payload with
    | .esense b r => if b.mode ≠ .level ∧ b.edge.takes new = true then some (c, edgeHanded b stamp r) else none
    | _ => none

theorem handed_of_edge {s : State} {i : SlotIx} {c : Claim} {b : EdgeBody} {r : EdgeRun} (hc : s.claim i = some c)
    (hp : c.payload = .esense b r) (new : Level) (stamp : Count32) : s.handed new stamp i =
      if b.mode ≠ .level ∧ b.edge.takes new = true then some (c, edgeHanded b stamp r) else none := by
  unfold State.handed
  simp only [hc, hp]

theorem handed_eq_some {s : State} {new : Level} {stamp : Count32} {i : SlotIx} {c : Claim} {o : SenseOutcome EdgeRun}
    (h : s.handed new stamp i = some (c, o)) : s.claim i = some c ∧ ∃ b r, c.payload = .esense b r ∧
      b.mode ≠ .level ∧ b.edge.takes new = true ∧ o = edgeHanded b stamp r := by
  unfold State.handed at h
  cases hc : s.claim i with
  | none => rw [hc] at h; cases h
  | some c' =>
    rw [hc] at h
    cases hp : c'.payload <;> simp only [hp] at h
    case esense b r =>
      split at h
      · rename_i hb
        cases h
        exact ⟨rfl, b, r, hp, hb.1, hb.2, rfl⟩
      · cases h
    all_goals cases h

theorem handed_congr {s t : State} {i : SlotIx} (h : t.claim i = s.claim i) (new : Level) (stamp : Count32) :
    t.handed new stamp i = s.handed new stamp i := by
  unfold State.handed
  rw [h]

theorem handEdge_of_none {s : State} {new : Level} {stamp : Count32} {i : SlotIx} (h : s.handed new stamp i = none) :
    s.handEdge new stamp i = s := by
  unfold State.handed at h
  unfold State.handEdge
  cases hc : s.claim i with
  | none => rfl
  | some c =>
    rw [hc] at h
    cases hp : c.payload <;> simp_all

theorem handEdge_of_some {s : State} {new : Level} {stamp : Count32} {i : SlotIx} {c : Claim} {o : SenseOutcome EdgeRun}
    (h : s.handed new stamp i = some (c, o)) :
    s.handEdge new stamp i = (s.updClaim i (Claim.mapEdge fun _ _ => o.run)).postAll o.posts i := by
  obtain ⟨hc, b, r, hp, hm, ht, rfl⟩ := handed_eq_some h
  unfold State.handEdge
  simp only [hc, hp, if_pos (And.intro hm ht)]

theorem handEdge_slot_of_ne (s : State) (new : Level) (stamp : Count32) {i j : SlotIx} (h : j ≠ i) :
    (s.handEdge new stamp i).slots[j] = s.slots[j] := by
  cases ho : s.handed new stamp i with
  | none => rw [handEdge_of_none ho]
  | some x =>
    obtain ⟨c, o⟩ := x
    rw [handEdge_of_some ho, State.postAll_slots, State.updClaim_slot, if_neg h]

theorem handEdge_senseWork (new : Level) (stamp : Count32) :
    SenseWork Claim.isEdge (fun s i => s.handEdge new stamp i)
      fun s i => (s.handed new stamp i).map fun x => (Claim.mapEdge (fun _ _ => x.2.run) x.1, x.2.posts) where
  done s i c' ks h := by
    obtain ⟨⟨c, o⟩, hx, he⟩ := Option.map_eq_some_iff.mp h
    cases he
    obtain ⟨hc, b, r, hp, -⟩ := handed_eq_some hx
    refine ⟨c, hc, by simp [Claim.isEdge, Claim.edgeBody?, hp], mapEdge_record _ c, ?_, ?_⟩
    · rw [handEdge_of_some hx, State.postAll_slots, updClaim_const hc]
    · rw [handEdge_of_some hx, updClaim_const hc]
  idle s i h := by
    rw [handEdge_of_none (Option.map_eq_none_iff.mp h)]
    exact ⟨rfl, rfl⟩
  ports s i := s.handEdge_ports new stamp i
  others s i j h := by rw [handed_congr (claim_of_slot (handEdge_slot_of_ne s new stamp h))]

/-- An acceptance hands the edge to every member that takes it: outside the sensitivity there is none (R128). -/
theorem acceptEdge_eq (s : State) (e : EdgeIn) (stamp : Count32) : s.acceptEdge e stamp =
    (s.members (.edge e)).foldl (fun t i => t.handEdge s.inputs[e].level.flip stamp i)
      (s.setInput e ⟨s.inputs[e].level.flip, none, s.inputs[e].filter⟩) := by
  have hdef : s.acceptEdge e stamp =
      if ((s.sensitivity e).any fun sel => sel.takes s.inputs[e].level.flip) = true then
        (s.members (.edge e)).foldl (fun t i => t.handEdge s.inputs[e].level.flip stamp i)
          (s.setInput e ⟨s.inputs[e].level.flip, none, s.inputs[e].filter⟩)
      else s.setInput e ⟨s.inputs[e].level.flip, none, s.inputs[e].filter⟩ := by
    unfold State.acceptEdge
    cases s.sensitivity e <;> rfl
  rw [hdef]
  split
  · rfl
  · rename_i h
    refine (foldl_of_fixed fun i hi => handEdge_of_none (Option.eq_none_iff_forall_ne_some.mpr ?_)).symm
    rintro ⟨c, o⟩ ho
    obtain ⟨hc, b, r, hp, hm, ht, -⟩ := handed_eq_some ho
    exact h ((sensitivity_takes_iff s e _).mpr ⟨i, c, b, r, hi, hc, hp, hm, ht⟩)

/-- An edge of an input is accepted with its stamp: the filtered level is taken over, and each claim that asks for the
edge has it. -/
structure State.Accepted (e : EdgeIn) (s t : State) (stamp : Count32) : Prop where
  frame : t = { s with
    inputs := s.inputs.set e ⟨s.inputs[e].level.flip, none, s.inputs[e].filter⟩, slots := t.slots, notices := t.notices }
  slots : s.SlotsKept t
  notices : s.NoticesKept t fun i => ∃ cl b r, s.claim i = some cl ∧ cl.payload = .esense b r ∧ cl.resource = .edge e ∧
    cl.state = .active ∧ b.mode ≠ .level ∧ b.edge.takes s.inputs[e].level.flip = true
  taken : ∀ i cl b r, s.claim i = some cl → cl.payload = .esense b r → cl.resource = .edge e → cl.state = .active →
    b.mode ≠ .level → b.edge.takes s.inputs[e].level.flip = true →
    t.claim i = some { cl with payload := .esense b (edgeHanded b stamp r).run } ∧
    ∀ k ∈ (edgeHanded b stamp r).posts, s.barred cl.owner = false →
      (k = .sample → cl.wantsSample = true) → t.noticed cl.owner k i
  stands : ∀ i cl, s.claim i = some cl → (cl.resource ≠ .edge e ∨ cl.state ≠ .active ∨ ∀ b r,
    cl.payload = .esense b r → b.mode = .level ∨ b.edge.takes s.inputs[e].level.flip = false) → t.claim i = some cl

theorem acceptEdge_accepted (s : State) (e : EdgeIn) (stamp : Count32) : s.Accepted e (s.acceptEdge e stamp) stamp := by
  have hw := handEdge_senseWork s.inputs[e].level.flip stamp
  have hn : (s.members (.edge e)).Nodup := slotsWhere_nodup s _
  have hmem := mem_members s (.edge e)
  have hinputs : (s.acceptEdge e stamp).inputs = s.inputs.set e ⟨s.inputs[e].level.flip, none, s.inputs[e].filter⟩ := by
    rw [acceptEdge_eq]
    exact foldl_keeps State.inputs _ (fun t i => t.handEdge_inputs _ stamp i) _ _
  have hslots : (s.setInput e ⟨s.inputs[e].level.flip, none, s.inputs[e].filter⟩).slots = s.slots := rfl
  have hclaim := State.claim_congr hslots
  refine ⟨?_, ?_, ?_, fun i cl b r hc hp hr hst hm ht => ?_, fun i cl hc hno => ?_⟩
  · apply State.eq_of_fields <;> simp [hinputs]
  · rw [acceptEdge_eq]
    exact ((State.RuntimesOnly.of_slots hslots).trans (hw.foldl_runtimesOnly _ _)).slotsKept
  · rw [acceptEdge_eq]
    have hkept := hw.foldl_noticesKept hn (s.setInput e ⟨s.inputs[e].level.flip, none, s.inputs[e].filter⟩)
    refine fun l a ha => hkept l a fun hi => ha ?_
    obtain ⟨hi, ho⟩ := hi
    obtain ⟨⟨c', ks⟩, ho⟩ := Option.ne_none_iff_exists'.mp ho
    obtain ⟨⟨c, o⟩, ho, -⟩ := Option.map_eq_some_iff.mp ho
    obtain ⟨hc, b, r, hp, hm, ht, -⟩ := handed_eq_some ho
    obtain ⟨c', hc', hr, hst⟩ := (hmem _).mp hi
    rw [hclaim, hc'] at hc
    cases hc
    exact ⟨c, b, r, hc', hp, hr, hst, hm, ht⟩
  · rw [acceptEdge_eq]
    have hout := handed_of_edge ((hclaim i).trans hc) hp s.inputs[e].level.flip stamp
    rw [if_pos ⟨hm, ht⟩] at hout
    obtain ⟨h1, h2⟩ := hw.foldl_claim hn ((hmem i).mpr ⟨cl, hc, hr, hst⟩) ((hclaim i).trans hc)
      (by rw [hout, Option.map_some])
    refine ⟨h1.trans ?_, fun k hk hb hwish => h2 k hk (by rw [hst]; decide) hb hwish⟩
    unfold Claim.mapEdge
    simp only [hp]
  · rw [acceptEdge_eq]
    by_cases hi : i ∈ s.members (.edge e)
    · refine (claim_of_slot (hw.foldl_claim_of_none hn ?_)).trans ((hclaim i).trans hc)
      refine Option.map_eq_none_iff.mpr (Option.eq_none_iff_forall_ne_some.mpr ?_)
      rintro ⟨c, o⟩ ho
      obtain ⟨hc', b, r, hp, hm, ht, -⟩ := handed_eq_some ho
      obtain ⟨c', hcl, hr, hst⟩ := (hmem i).mp hi
      rw [hclaim] at hc'
      rw [hc] at hc' hcl
      cases hc'
      cases hcl
      rcases hno with h | h | h
      · exact h hr
      · exact h hst
      · rcases h b r hp with h | h
        · exact hm h
        · rw [h] at ht
          cases ht
    · exact (claim_of_slot (hw.foldl_slot_of_not_mem hi _)).trans ((hclaim i).trans hc)

/-! ### A pin's change (R127) -/

/-- Gate clocks have passed within the tick: only the clocks and the gate counters have moved. -/
structure State.Passed (clocks : Nat) (s u : State) : Prop where
  frame : u = { s with clock := u.clock, gates := u.gates }
  clock : u.clock = { s.clock with
    divider := s.clock.divider + clocks
    stamp := s.clock.stamp + BitVec.ofNat 32 ((s.clock.divider + clocks) / 16 - s.clock.divider / 16) }
  gates : ∀ g, u.gates.get g = GateUnit.run clocks (s.gates.get g)

theorem passClocks_passed {s : State} {n : Nat} (hn : n ≤ 2000 - s.clock.divider) :
    State.Passed n s (s.passClocks n) := ⟨passClocks_frame s n, passClocks_clock_of_le hn, passClocks_gates_of_le hn⟩

/-- What the pin's move makes of an input once what has fallen due there is accepted. -/
def State.movePin (s : State) (e : EdgeIn) : State :=
  if s.inputs[e].pending.isSome then s.setInput e ⟨s.inputs[e].level, none, s.inputs[e].filter⟩
  else if s.inputs[e].filter = 0 then s.acceptEdge e s.clock.stamp
  else s.setInput e ⟨s.inputs[e].level, some ⟨s.clock.stamp, s.inputs[e].filter⟩, s.inputs[e].filter⟩

theorem exec_edgePinChange {s : State} (hr : s.resetHeld = false) (e : EdgeIn) (lvl : Level) (micros : Nat) :
    exec (.edgePinChange e lvl micros) s = .next (if s.inputs[e].pin = lvl then s else
      ((s.passClocks (16 * micros - s.clock.divider)).acceptDue e).movePin e) := by
  change execEdgePinChange e lvl micros s = _
  simp only [execEdgePinChange, hr]
  rfl

theorem acceptDue_of_none {s : State} {e : EdgeIn} (h : s.inputs[e].pending = none) : s.acceptDue e = s := by
  unfold State.acceptDue
  rw [h]

theorem acceptDue_of_some {s : State} {e : EdgeIn} {p : PendingChange} (h : s.inputs[e].pending = some p) :
    s.acceptDue e = if p.filter ≤ (s.clock.stamp - p.stamp).toNat then s.acceptEdge e p.stamp else s := by
  unfold State.acceptDue
  rw [h]
  exact if_congr Nat.sub_eq_zero_iff_le rfl rfl

theorem movePin_of_pending {s : State} {e : EdgeIn} {p : PendingChange} (h : s.inputs[e].pending = some p) :
    s.movePin e = s.setInput e { s.inputs[e] with pending := none } := if_pos (by rw [h]; rfl)

theorem movePin_of_unfiltered {s : State} {e : EdgeIn} (h : s.inputs[e].pending = none) (hf : s.inputs[e].filter = 0) :
    s.movePin e = s.acceptEdge e s.clock.stamp := by
  unfold State.movePin
  rw [h, if_pos hf]
  rfl

theorem movePin_of_filtered {s : State} {e : EdgeIn} (h : s.inputs[e].pending = none) (hf : s.inputs[e].filter ≠ 0) :
    s.movePin e = s.setInput e ⟨s.inputs[e].level, some ⟨s.clock.stamp, s.inputs[e].filter⟩, s.inputs[e].filter⟩ := by
  unfold State.movePin
  rw [h, if_neg hf]
  rfl

theorem exec_acceptedEdge_of_none {s : State} (hr : s.resetHeld = false) {e : EdgeIn} (h : s.inputs[e].pending = none) :
    exec (.acceptedEdge e) s = .next s := by
  change execAcceptedEdge e s = _
  unfold execAcceptedEdge
  rw [hr, h]
  rfl

theorem exec_acceptedEdge_of_some {s : State} (hr : s.resetHeld = false) {e : EdgeIn} {p : PendingChange}
    (h : s.inputs[e].pending = some p) : exec (.acceptedEdge e) s =
      .next (s.atInstant (s.clocksIn (p.left s.clock.stamp)) fun s => s.acceptEdge e p.stamp) := by
  change execAcceptedEdge e s = _
  unfold execAcceptedEdge
  rw [hr, h]
  rfl

theorem movePin_clock (s : State) (e : EdgeIn) : (s.movePin e).clock = s.clock := by
  unfold State.movePin
  split
  · rfl
  · split
    · exact s.acceptEdge_clock e _
    · rfl

theorem acceptEdge_input (s : State) (e : EdgeIn) (stamp : Count32) :
    (s.acceptEdge e stamp).inputs[e] = ⟨s.inputs[e].level.flip, none, s.inputs[e].filter⟩ := by
  rw [(acceptEdge_accepted s e stamp).frame, getElem_set_fin, if_pos rfl]

/-- Settles O43. -/
theorem glitchFilterAndAcceptedEdges : Obligations.GlitchFilterAndAcceptedEdges := by
  intro e s hreset x accepted passed
  have haccept : ∀ (u : State) (stamp : Count32), accepted u (u.acceptEdge e stamp) stamp := fun u stamp =>
    have h := acceptEdge_accepted u e stamp
    ⟨h.frame, h.slots, h.notices, fun i cl hc => ⟨fun b r => h.taken i cl b r hc, h.stands i cl hc⟩⟩
  have hpassed : ∀ {n : Nat}, n ≤ 2000 - s.clock.divider → passed n (s.passClocks n) := fun hn =>
    have h := passClocks_passed hn
    ⟨h.frame, h.clock, h.gates⟩
  refine ⟨fun lvl micros hmicros => ⟨fun hpin => ?_, fun hpin => ?_⟩, exec_acceptedEdge_of_none hreset,
    fun p hp hclock => ?_⟩
  · rw [exec_edgePinChange hreset, if_pos hpin]
  · have hn : 16 * micros - s.clock.divider ≤ 2000 - s.clock.divider := by omega
    have hexec := exec_edgePinChange hreset e lvl micros
    rw [if_neg hpin] at hexec
    have hpass := passClocks_passed hn
    have hpassed := hpassed hn
    generalize s.passClocks (16 * micros - s.clock.divider) = u at *
    have hinput : u.inputs[e] = x := by rw [hpass.frame]
    refine ⟨u, _, hexec, hpassed, ?_, fun hclock hle => ?_, fun p hp hlt => ?_, fun hnone hf => ?_, fun hnone hf => ?_,
      fun p hp hge => ?_⟩
    · rw [movePin_clock, State.acceptDue_clock]

    · rw [hpass.clock]
      change s.clock.stamp + BitVec.ofNat 32 _ = _
      rw [hclock.2]
      exact stamp_add _ (by omega)
    · rw [← hinput] at hp
      rw [acceptDue_of_some hp, if_neg (by omega), movePin_of_pending hp, hinput]
    · rw [← hinput] at hnone hf
      rw [acceptDue_of_none hnone, movePin_of_filtered hnone hf, ← hinput]
    · rw [← hinput] at hnone hf
      rw [acceptDue_of_none hnone, movePin_of_unfiltered hnone hf]
      exact haccept u _
    · rw [← hinput] at hp
      rw [acceptDue_of_some hp, if_pos hge]
      have hin := acceptEdge_input u e p.stamp
      refine ⟨_, haccept u p.stamp, fun hf => ?_, fun hf => ?_⟩
      · rw [movePin_of_filtered (by rw [hin]) (by rw [hin, hinput]; exact hf), hin, State.acceptEdge_clock, hinput]
      · rw [movePin_of_unfiltered (by rw [hin]) (by rw [hin, hinput]; exact hf), ← State.acceptEdge_clock u e p.stamp]
        exact haccept _ _
  · intro left
    have hexec := exec_acceptedEdge_of_some hreset hp
    have hleft : p.left s.clock.stamp = left := rfl
    rw [hleft] at hexec
    have hiff := clocksIn_le_iff hclock.1 left
    refine ⟨fun hfar => ?_, fun hnear => ?_⟩
    · rw [hexec, atInstant_of_lt (by omega)]
    · have hn : s.clocksIn left ≤ 2000 - s.clock.divider := by omega
      rw [atInstant_of_le (hiff.mpr hnear)] at hexec
      refine ⟨s.passClocks (s.clocksIn left), _, hexec, hpassed hn, ?_, haccept _ _⟩
      rw [(passClocks_passed hn).clock]
      change _ + BitVec.ofNat 32 ((s.clock.divider + s.clocksIn left) / 16 - s.clock.divider / 16) = _
      rw [clocksIn_stamp]

end Sys2Proof.Machine
end

section
/-! SUPPORT and PROOFS. A period end: the phase of each channel, and what it reports of the channel's head. -/

namespace Sys2Proof.Machine

/-! ### What a channel reports of its head (R68, R69, R70, R74) -/

/-- What a channel makes of its head at a period end: nothing, a counted burst, a counted burst that is its last with
other entries waiting, the end of a retirement, or a completion. -/
inductive HeadReport
  | stays | counts | countsOut | finishes | completes

/-- The report at duty 0. -/
def HeadView.reportAtZero (v : HeadView) (entries : Nat) : HeadReport :=
  if v.state = .retiring then .finishes else if v.finished ∧ entries = 1 then .completes else .stays

/-- The report of a period end worked as RUNNING. -/
def HeadView.reportRunning (v : HeadView) (duty entries : Nat) : HeadReport :=
  if v.counts duty then if v.burstLeft = 1 ∧ 1 < entries then .countsOut else .counts
  else if duty = 0 then v.reportAtZero entries else .stays

/-- The report of a period end worked as WINDING_DOWN. -/
def HeadView.reportWinding (v : HeadView) (duty entries : Nat) : HeadReport :=
  if duty = 0 then v.reportAtZero entries else .stays

/-- The report of a channel with a head. -/
def State.headReport (s : State) (d : Drive) (v : HeadView) : HeadReport :=
  let running := v.reportRunning (s.runningDuty d) (s.driveList d).length
  let winding := v.reportWinding (s.windingDuty d) (s.driveList d).length
  match (s.drives.get d).phase with
  | .halted | .switching | .dwell => .stays
  | .idle => if s.wanted d ≠ (s.drives.get d).pattern then .stays else running
  | .running => if s.wanted d ≠ (s.drives.get d).pattern then winding else running
  | .windingDown => if s.wanted d = (s.drives.get d).pattern then running else winding

/-- A report taken. -/
def State.take (s : State) (d : Drive) (h : SlotIx) : HeadReport → State
  | .stays => s
  | .counts => s.updClaim h Claim.countBurst
  | .countsOut => (s.updClaim h Claim.countBurst).headCompletes d h
  | .finishes => s.headFinishes d h
  | .completes => s.headCompletes d h

theorem reportAtZero_eq_take (s : State) (d : Drive) (v : HeadView) :
    s.reportAtZero d v = s.take d v.slot (v.reportAtZero (s.driveList d).length) := by
  unfold State.reportAtZero HeadView.reportAtZero
  split
  · rfl
  · split <;> rfl

theorem head_isSome_of_view {s : State} {d : Drive} {v : HeadView} (h : s.headView d = some v) :
    (s.head d).isSome = true := by
  obtain ⟨c, tl, hl, -⟩ := (headView_eq_some_iff s d v).mp h
  rw [State.head, hl]
  rfl

section View

variable {s : State} {d : Drive} {v : HeadView} (hv : s.headView d = some v)
include hv

theorem workRunning_of_view : s.workRunning d (some v) =
    (s.setDrive d { s.drives.get d with phase := .running, duty := s.runningDuty d }).take d v.slot
      (v.reportRunning (s.runningDuty d) (s.driveList d).length) := by
  unfold State.workRunning HeadView.reportRunning State.runningDuty
  rw [hv]
  dsimp only
  split
  · by_cases hlast : v.burstLeft = 1 ∧ 1 < (s.driveList d).length
    · rw [if_pos hlast]
      exact if_pos hlast
    · rw [if_neg hlast]
      exact if_neg hlast
  · split
    · exact reportAtZero_eq_take _ d v
    · rfl

theorem workWindingDown_of_view : s.workWindingDown d (some v) =
    (s.setDrive d { s.drives.get d with
      phase := if s.windingDuty d = 0 then .switching else .windingDown, duty := s.windingDuty d }).take d v.slot
      (v.reportWinding (s.windingDuty d) (s.driveList d).length) := by
  unfold State.workWindingDown HeadView.reportWinding State.windingDuty
  rw [hv]
  dsimp only
  split
  · exact reportAtZero_eq_take _ d v
  · rfl

theorem workPhase_of_view : s.workPhase d = (s.setDrive d (s.workedChannel d)).take d v.slot (s.headReport d v) := by
  have hsome := head_isSome_of_view hv
  have hsame : s.setDrive d (s.drives.get d) = s := by
    apply State.eq_of_fields <;> simp
  have hrun := workRunning_of_view hv
  have hwind := workWindingDown_of_view hv
  unfold State.workPhase State.workedChannel State.headReport
  dsimp only
  rw [hv]
  cases (s.drives.get d).phase with
  | halted => exact hsame.symm
  | switching => rfl
  | dwell => rfl
  | idle =>
    dsimp only
    split
    · rfl
    · simpa using hrun

  | running =>
    dsimp only
    split
    · exact hwind
    · simpa using hrun
  | windingDown =>
    dsimp only
    split
    · simpa using hrun
    · exact hwind

end View

/-! ### What a report leaves -/

/-- Work on the claim in one slot: the other slots, the lists and the link ports stand, and so do the notices of the
other claims and each that stands already. -/
structure State.WorksAt (h : SlotIx) (s u : State) : Prop where
  slots : ∀ j, j ≠ h → u.slots[j] = s.slots[j]
  lists : u.driveLists = s.driveLists
  ports : u.ports = s.ports
  gates : u.gates = s.gates
  kept : s.NoticesKept u fun j => j = h
  noticed : ∀ m k i, s.noticed m k i → u.noticed m k i

theorem State.WorksAt.refl (h : SlotIx) (s : State) : State.WorksAt h s s :=
  ⟨fun _ _ => rfl, rfl, rfl, rfl, .refl s _, fun _ _ _ hn => hn⟩

theorem State.WorksAt.trans {h : SlotIx} {s t u : State} (h1 : State.WorksAt h s t) (h2 : State.WorksAt h t u) :
    State.WorksAt h s u :=
  ⟨fun j hj => (h2.slots j hj).trans (h1.slots j hj), h2.lists.trans h1.lists, h2.ports.trans h1.ports,
    h2.gates.trans h1.gates, h1.kept.trans h2.kept, fun m k i hn => h2.noticed m k i (h1.noticed m k i hn)⟩

theorem updClaim_worksAt (s : State) (h : SlotIx) (f : Claim → Claim) : State.WorksAt h s (s.updClaim h f) :=
  ⟨fun j hj => by rw [State.updClaim_slot, if_neg hj], by simp, by simp, by simp, .of_eq (by simp) _,
    fun m k i hn => (noticed_congr (by simp) m k i).mpr hn⟩

theorem completeClaim_worksAt (s : State) (h : SlotIx) : State.WorksAt h s (s.completeClaim h) :=
  ⟨fun _ hj => completeClaim_slot_of_ne s hj, by simp, by simp, by simp, completeClaim_noticesKept s h,
    fun _ _ _ hn => noticed_completeClaim hn h⟩

theorem finish_worksAt (s : State) (h : SlotIx) : State.WorksAt h s (s.finish h) :=
  ⟨fun j hj => by rw [finish_slot, if_neg hj], by simp, by simp, by simp, s.finish_noticesKept h,
    fun _ _ _ hn => finish_noticed hn h⟩

theorem State.WorksAt.driveList {h : SlotIx} {s u : State} (hw : State.WorksAt h s u) (d : Drive) :
    u.driveList d = s.driveList d := State.driveList_congr hw.lists d

/-- A report works at the head, and the head leaves the list or stays. -/
theorem take_shape {s : State} {d : Drive} {h : SlotIx} {t : List SlotIx} (hl : s.driveList d = h :: t)
    (r : HeadReport) : ∃ u, State.WorksAt h s u ∧ (s.take d h r = u ∨ s.take d h r = u.changeList d (some h) t) := by
  have htail : (s.driveList d).tail = t := by rw [hl]; rfl
  cases r with
  | stays => exact ⟨s, .refl h s, .inl rfl⟩
  | counts => exact ⟨_, updClaim_worksAt s h _, .inl rfl⟩
  | countsOut =>
    exact ⟨_, (updClaim_worksAt s h Claim.countBurst).trans (completeClaim_worksAt _ h), .inr (htail ▸ rfl)⟩
  | finishes => exact ⟨_, finish_worksAt s h, .inr (htail ▸ rfl)⟩
  | completes => exact ⟨_, completeClaim_worksAt s h, .inr (htail ▸ rfl)⟩

theorem take_otherList {s : State} {d e : Drive} {h : SlotIx} {t : List SlotIx} (hl : s.driveList d = h :: t)
    (he : e ≠ d) (r : HeadReport) : (s.take d h r).driveList e = s.driveList e := by
  obtain ⟨u, hu, heq | heq⟩ := take_shape hl r <;> rw [heq]
  · exact hu.driveList e
  · rw [changeList_driveList, if_neg he, hu.driveList]

theorem take_outside {s : State} {d : Drive} {h j : SlotIx} {t : List SlotIx} (hl : s.driveList d = h :: t)
    (hn : (s.driveList d).Nodup) (hj : j ∉ s.driveList d) (r : HeadReport) : (s.take d h r).slots[j] = s.slots[j] := by
  obtain ⟨-, hnt⟩ := List.nodup_cons.mp (hl ▸ hn)
  obtain ⟨hjh, hjt⟩ := List.ne_and_not_mem_of_not_mem_cons (hl ▸ hj)
  obtain ⟨u, hu, heq | heq⟩ := take_shape hl r <;> rw [heq]
  · exact hu.slots j hjh
  · rw [changeList_slot_of_not_mem u d _ hnt hjt, hu.slots j hjh]

theorem take_ports {s : State} {d : Drive} {h : SlotIx} {t : List SlotIx} (hl : s.driveList d = h :: t)
    (r : HeadReport) : (s.take d h r).ports = s.ports := by
  obtain ⟨u, hu, heq | heq⟩ := take_shape hl r <;> rw [heq]
  · exact hu.ports
  · rw [State.changeList_ports, hu.ports]

theorem take_noticed {s : State} {d : Drive} {h : SlotIx} {t : List SlotIx} (hl : s.driveList d = h :: t)
    (r : HeadReport) {m : Link} {k : NoticeKind} {i : SlotIx} (hn : s.noticed m k i) :
    (s.take d h r).noticed m k i := by
  obtain ⟨u, hu, heq | heq⟩ := take_shape hl r <;> rw [heq]
  · exact hu.noticed m k i hn
  · exact changeList_noticed (hu.noticed m k i hn) d _ _

/-- A channel's list as the table and the rules of R26 leave it: each entry once, a live claim of the channel, and
STANDBY behind the head. -/
structure State.InOrder (s : State) (d : Drive) : Prop where
  nodup : (s.driveList d).Nodup
  entry : ∀ j ∈ s.driveList d, ∃ c, s.claim j = some c ∧ c.resource = .drive d ∧ c.state ≠ .spent
  behind : ∀ h t, s.driveList d = h :: t → ∀ j ∈ t, ∀ c, s.claim j = some c → c.state = .standby

theorem inOrder_of_inv {s : State} (ht : TableInv s) (hl : ListInv s) (d : Drive) : s.InOrder d := by
  refine ⟨ht.driveNodup d, fun j hj => ?_, hl.waiting d⟩
  obtain ⟨c, hc, hr, hs⟩ := ht.driveEntry d j hj
  exact ⟨c, hc, hr, ne_spent_of_listed hs⟩

theorem mapClaim_of_fixed {f : Claim → Claim} {x : Slot} {c : Claim} (hc : x.claim = some c) (hf : f c = c) :
    Slot.mapClaim f x = x := by
  unfold Slot.mapClaim
  rw [hc, Option.map_some, hf, ← hc]

/-- Behind the present head a report changes nothing but the entry that takes over. -/
theorem take_quiet {s : State} {d : Drive} (ho : s.InOrder d) {h : SlotIx} {t : List SlotIx}
    (hl : s.driveList d = h :: t) (r : HeadReport) :
    (∀ i, i ≠ h → (s.take d h r).head d ≠ some i → (s.take d h r).slots[i] = s.slots[i]) ∧
      s.NoticesKept (s.take d h r) fun i => i = h ∨ (s.take d h r).head d = some i := by
  obtain ⟨hht, hnt⟩ := List.nodup_cons.mp (hl ▸ ho.nodup)
  obtain ⟨u, hu, heq | heq⟩ := take_shape hl r
  · rw [heq]
    exact ⟨fun i hi _ => hu.slots i hi, hu.kept.mono fun i hi => .inl hi⟩
  have hne : ∀ j ∈ t, j ≠ h := fun j hj e => hht (e ▸ hj)
  have hfit : u.Fit t := ⟨hnt, fun j hj => by
    obtain ⟨c, hc, -, hs⟩ := ho.entry j (hl ▸ List.mem_cons_of_mem h hj)
    exact ⟨c, (claim_of_slot (hu.slots j (hne j hj))).trans hc, hs⟩⟩
  have hhead : (u.changeList d (some h) t).head d = t.head? := by
    rw [State.head, changeList_driveList, if_pos rfl]
  rw [heq, hhead]
  refine ⟨fun i hi hnew => ?_, (hu.kept.mono fun i hi => .inl hi).trans ?_⟩
  · by_cases hit : i ∈ t
    · obtain ⟨j, t, rfl⟩ := List.exists_cons_of_ne_nil (List.ne_nil_of_mem hit)
      have hij : i ≠ j := fun e => hnew (e ▸ rfl)
      obtain ⟨c, hc, -⟩ := ho.entry i (hl ▸ List.mem_cons_of_mem h hit)
      have hst := ho.behind h (j :: t) hl i hit c hc
      rw [changeList_slot u d _ hnt, settled_claim_behind hnt ((List.mem_cons.mp hit).resolve_left hij), hu.slots i hi]
      exact mapClaim_of_fixed hc (by rw [Claim.behindHead, ← hst])
    · rw [changeList_slot_of_not_mem u d _ hnt hit, hu.slots i hi]
  · exact (changeList_noticesKept hfit d (some h)).mono fun i hi => hi.imp (fun e => (Option.some.inj e).symm) id

/-! ### The channels of a gate (R66) -/

theorem channelPeriodEnd_of_view {s : State} {d : Drive} {v : HeadView} (hv : s.headView d = some v) :
    s.channelPeriodEnd d = ((s.setDrive d (s.workedChannel d)).take d v.slot (s.headReport d v)).formCompare d := by
  rw [State.channelPeriodEnd, workPhase_of_view hv]

theorem workPhase_of_noView {s : State} {d : Drive} (hv : s.headView d = none) :
    s.workPhase d = s.setDrive d (s.workedChannel d) := by
  have hsame : s.setDrive d (s.drives.get d) = s := by
    apply State.eq_of_fields <;> simp
  have hrun : s.workRunning d none = s.setDrive d { s.drives.get d with
      phase := if (s.headView d).isNone = true ∧ s.runningDuty d = 0 then .idle else .running
      duty := s.runningDuty d } := by
    unfold State.workRunning State.runningDuty
    simp [hv]
  have hwind : s.workWindingDown d none = s.setDrive d { s.drives.get d with
      phase := if s.windingDuty d = 0 then .switching else .windingDown, duty := s.windingDuty d } := by
    unfold State.workWindingDown State.windingDuty
    rw [hv]
  unfold State.workPhase State.workedChannel
  dsimp only
  rw [hv] at hrun ⊢
  cases (s.drives.get d).phase with
  | halted => exact hsame.symm
  | switching => rfl
  | dwell => rfl
  | idle =>
    dsimp only
    split
    · rfl
    · split
      · exact hrun
      · exact hsame.symm
  | running =>
    dsimp only
    split
    · exact hwind
    · exact hrun
  | windingDown =>
    dsimp only
    split
    · exact hrun
    · exact hwind

theorem channelPeriodEnd_of_noView {s : State} {d : Drive} (hv : s.headView d = none) :
    s.channelPeriodEnd d = (s.setDrive d (s.workedChannel d)).formCompare d := by
  rw [State.channelPeriodEnd, workPhase_of_noView hv]

theorem driveList_of_view {s : State} {d : Drive} {v : HeadView} (hv : s.headView d = some v) :
    ∃ tl, s.driveList d = v.slot :: tl := by
  obtain ⟨-, tl, hl, -⟩ := (headView_eq_some_iff s d v).mp hv
  exact ⟨tl, hl⟩

theorem channelPeriodEnd_worksInList : WorksInList State.channelPeriodEnd where
  others s d e he := by
    cases hv : s.headView d with
    | none => rw [channelPeriodEnd_of_noView hv]; rfl
    | some v =>
      obtain ⟨tl, hl⟩ := driveList_of_view hv
      rw [channelPeriodEnd_of_view hv]
      exact take_otherList (s := s.setDrive d (s.workedChannel d)) hl he _
  outside s d hn j hj := by
    cases hv : s.headView d with
    | none => rw [channelPeriodEnd_of_noView hv]; rfl
    | some v =>
      obtain ⟨tl, hl⟩ := driveList_of_view hv
      rw [channelPeriodEnd_of_view hv]
      exact take_outside (s := s.setDrive d (s.workedChannel d)) hl hn hj _
  ports s d := s.channelPeriodEnd_ports d
  noticed s d m k i hn := by
    cases hv : s.headView d with
    | none => rw [channelPeriodEnd_of_noView hv]; exact hn
    | some v =>
      obtain ⟨tl, hl⟩ := driveList_of_view hv
      rw [channelPeriodEnd_of_view hv]
      exact take_noticed (s := s.setDrive d (s.workedChannel d)) hl _ hn

/-- A state that holds the list of a channel and the slots in it holds its order. -/
theorem State.InOrder.congr {s t : State} {d : Drive} (h : s.InOrder d) (hl : t.driveList d = s.driveList d)
    (hs : ∀ j ∈ s.driveList d, t.slots[j] = s.slots[j]) : t.InOrder d := by
  have hclaim : ∀ j ∈ s.driveList d, t.claim j = s.claim j := fun j hj => claim_of_slot (hs j hj)
  refine ⟨hl ▸ h.nodup, fun j hj => ?_, fun h' t' hcons j hj c hc => ?_⟩
  · rw [hl] at hj
    rw [hclaim j hj]
    exact h.entry j hj
  · rw [hl] at hcons
    rw [hclaim j (hcons ▸ List.mem_cons_of_mem h' hj)] at hc
    exact h.behind h' t' hcons j hj c hc

theorem State.InOrder.apart {s : State} {d e : Drive} (hd : s.InOrder d) (he : s.InOrder e) (hne : e ≠ d) {j : SlotIx}
    (hj : j ∈ s.driveList d) : j ∉ s.driveList e := by
  intro hje
  obtain ⟨c, hc, hr, -⟩ := hd.entry j hj
  obtain ⟨c', hc', hr', -⟩ := he.entry j hje
  rw [hc] at hc'
  cases hc'
  rw [hr] at hr'
  exact hne (Resource.drive.inj hr').symm

theorem channelPeriodEnd_inOrder {s : State} {d e : Drive} (hd : s.InOrder d) (he : s.InOrder e) (hne : e ≠ d) :
    (s.channelPeriodEnd d).InOrder e :=
  he.congr (channelPeriodEnd_worksInList.others s d e hne) fun _ hj =>
    channelPeriodEnd_worksInList.outside s d hd.nodup _ (he.apart hd hne.symm hj)

/-- A slot whose claim heads one of some channels, in one state or another. -/
def State.headsOneOf (ds : List Drive) (s t : State) (i : SlotIx) : Prop :=
  ∃ d ∈ ds, s.head d = some i ∨ t.head d = some i

theorem channelPeriodEnd_quiet {s : State} {d : Drive} (ho : s.InOrder d) :
    (∀ i, ¬State.headsOneOf [d] s (s.channelPeriodEnd d) i → (s.channelPeriodEnd d).slots[i] = s.slots[i]) ∧
      s.NoticesKept (s.channelPeriodEnd d) (State.headsOneOf [d] s (s.channelPeriodEnd d)) := by
  cases hv : s.headView d with
  | none =>
    rw [channelPeriodEnd_of_noView hv]
    exact ⟨fun _ _ => rfl, .of_eq rfl _⟩
  | some v =>
    obtain ⟨tl, hl⟩ := driveList_of_view hv
    have hhead : s.head d = some v.slot := by rw [State.head, hl]; rfl
    rw [channelPeriodEnd_of_view hv]
    obtain ⟨h1, h2⟩ := take_quiet (s := s.setDrive d (s.workedChannel d)) ⟨ho.nodup, ho.entry, ho.behind⟩ hl
      (s.headReport d v)
    generalize (s.setDrive d (s.workedChannel d)).take d v.slot (s.headReport d v) = w at h1 h2
    refine ⟨fun i hi => h1 i (fun e => hi ?_) fun e => hi ?_, fun l a ha => h2 l a fun hi => ha ?_⟩
    · exact ⟨d, List.mem_singleton_self d, .inl (e ▸ hhead)⟩
    · exact ⟨d, List.mem_singleton_self d, .inr e⟩
    · exact ⟨d, List.mem_singleton_self d, hi.imp (fun e => hhead.trans (congrArg some e.symm)) id⟩

theorem WorksInList.foldl_otherList {work : State → Drive → State} (h : WorksInList work) {d : Drive} {ds : List Drive}
    (hd : d ∉ ds) (s : State) : (ds.foldl work s).driveList d = s.driveList d := by
  induction ds generalizing s with
  | nil => rfl
  | cons e ds ih =>
    obtain ⟨hde, hd⟩ := List.ne_and_not_mem_of_not_mem_cons hd
    exact (ih hd _).trans (h.others s e d hde)

/-- The work on several channels changes no more than their heads, present and new. -/
theorem foldl_channelPeriodEnd_quiet {ds : List Drive} (hnd : ds.Nodup) {s : State} (ho : ∀ d ∈ ds, s.InOrder d) :
    (∀ i, ¬State.headsOneOf ds s (ds.foldl State.channelPeriodEnd s) i →
      (ds.foldl State.channelPeriodEnd s).slots[i] = s.slots[i]) ∧
      s.NoticesKept (ds.foldl State.channelPeriodEnd s)
        (State.headsOneOf ds s (ds.foldl State.channelPeriodEnd s)) := by
  induction ds generalizing s with
  | nil => exact ⟨fun _ _ => rfl, .refl s _⟩
  | cons d ds ih =>
    obtain ⟨hd, hnd⟩ := List.nodup_cons.mp hnd
    have hod := ho d List.mem_cons_self
    obtain ⟨h1, h2⟩ := channelPeriodEnd_quiet hod
    obtain ⟨h3, h4⟩ := ih hnd fun e he => channelPeriodEnd_inOrder hod (ho e (List.mem_cons_of_mem d he))
      fun heq => hd (heq ▸ he)
    have hlist : ((ds.foldl State.channelPeriodEnd (s.channelPeriodEnd d)).head d) = (s.channelPeriodEnd d).head d := by
      exact congrArg List.head? (channelPeriodEnd_worksInList.foldl_otherList hd _)
    have hlists : ∀ e ∈ ds, (s.channelPeriodEnd d).head e = s.head e := fun e he =>
      congrArg List.head? (channelPeriodEnd_worksInList.others s d e fun heq => hd (heq ▸ he))
    rw [List.foldl_cons]
    generalize ds.foldl State.channelPeriodEnd (s.channelPeriodEnd d) = t at h3 h4 hlist
    have hfirst : ∀ i, State.headsOneOf [d] s (s.channelPeriodEnd d) i → State.headsOneOf (d :: ds) s t i := by
      rintro i ⟨e, he, hi⟩
      cases List.mem_singleton.mp he
      exact ⟨d, List.mem_cons_self, hi.imp id fun h => hlist.trans h⟩
    have hrest : ∀ i, State.headsOneOf ds (s.channelPeriodEnd d) t i → State.headsOneOf (d :: ds) s t i := by
      rintro i ⟨e, he, hi⟩
      exact ⟨e, List.mem_cons_of_mem d he, hi.imp (fun h => (hlists e he).symm.trans h) id⟩
    exact ⟨fun i hi => (h3 i fun h => hi (hrest i h)).trans (h1 i fun h => hi (hfirst i h)),
      (h2.mono hfirst).trans (h4.mono hrest)⟩


/-! ### A gate's period end (R47, R48) -/

theorem exec_periodEnd_of_closed {s : State} (hr : s.resetHeld = false) {g : Gate} (ho : s.gateIsOpen g = false) :
    exec (.periodEnd g) s = .next s := by
  change execPeriodEnd g s = _
  simp [execPeriodEnd, hr, ho]

theorem exec_periodEnd_of_open {s : State} (hr : s.resetHeld = false) {g : Gate} (ho : s.gateIsOpen g = true) :
    exec (.periodEnd g) s = .next (s.atInstant (s.gates.get g).toWrap fun s => s.gatePeriodEnd g) := by
  change execPeriodEnd g s = _
  simp [execPeriodEnd, hr, ho]

theorem exec_periodEnd_of_near {s : State} (hr : s.resetHeld = false) {g : Gate} (ho : s.gateIsOpen g = true)
    (hn : s.clock.divider + (s.gates.get g).toWrap ≤ 2000) :
    exec (.periodEnd g) s = .next ((s.passClocks (s.gates.get g).toWrap).gatePeriodEnd g) := by
  rw [exec_periodEnd_of_open hr ho, atInstant_of_le hn]

theorem exec_periodEnd_of_far {s : State} (hr : s.resetHeld = false) {g : Gate} (ho : s.gateIsOpen g = true)
    (hn : 2000 < s.clock.divider + (s.gates.get g).toWrap) : exec (.periodEnd g) s = .next s := by
  rw [exec_periodEnd_of_open hr ho, atInstant_of_lt hn]

/-- What a period end makes of a channel under the gate is what the work on that channel alone makes of it. -/
theorem gatePeriodEnd_child {s : State} (htable : TableInv s) {g : Gate} {d : Drive} (hd : d.parent = g) :
    ∃ u, s.SameInList u d ∧ u.drives.get d = s.drives.get d ∧ u.gates = s.gates.set g (GateUnit.wrap (s.gates.get g)) ∧
      (s.gatePeriodEnd g).drives.get d = (u.channelPeriodEnd d).drives.get d ∧
      (s.gatePeriodEnd g).driveList d = (u.channelPeriodEnd d).driveList d ∧
      (∀ j ∈ s.driveList d, (s.gatePeriodEnd g).slots[j] = (u.channelPeriodEnd d).slots[j]) ∧
      ∀ m k i, (u.channelPeriodEnd d).noticed m k i → (s.gatePeriodEnd g).noticed m k i := by
  have hother : ∀ {ds : List Drive} (w : State), d ∉ ds →
      (ds.foldl State.channelPeriodEnd w).drives.get d = w.drives.get d := by
    intro ds w h
    induction ds generalizing w with
    | nil => rfl
    | cons e ds ih =>
      obtain ⟨hde, h⟩ := List.ne_and_not_mem_of_not_mem_cons h
      exact (ih _ h).trans (State.channelPeriodEnd_other w e d hde)
  obtain ⟨u, hu, -, hlist, hslots, hnoticed, before, after, hb, ha, hfront, hback⟩ :=
    channelPeriodEnd_worksInList.foldl_children (s' := s.setGate g (GateUnit.wrap (s.gates.get g))) htable rfl rfl rfl hd
  refine ⟨u, hu, ?_, ?_, ?_, hlist, hslots, hnoticed⟩
  · rw [hfront, hother _ hb]
    rfl
  · rw [hfront, foldl_keeps State.gates _ State.channelPeriodEnd_gates]
    rfl
  · unfold State.gatePeriodEnd
    rw [hback, hother _ ha]

theorem State.SameInList.head {s u : State} {d : Drive} (h : s.SameInList u d) : u.head d = s.head d := by
  rw [State.head, h.list]
  rfl

theorem head_mem {s : State} {d : Drive} {i : SlotIx} (h : s.head d = some i) : i ∈ s.driveList d :=
  List.mem_of_mem_head? h

theorem State.SameInList.headView {s u : State} {d : Drive} (h : s.SameInList u d) : u.headView d = s.headView d := by
  unfold State.headView
  rw [h.head]
  cases hh : s.head d with
  | none => rfl
  | some i =>
    dsimp only
    rw [h.claim (head_mem hh)]

theorem State.SameInList.wanted {s u : State} {d : Drive} (h : s.SameInList u d) : u.wanted d = s.wanted d := by
  unfold State.wanted
  rw [h.head]
  cases hh : s.head d with
  | none => rfl
  | some i =>
    dsimp only [Option.bind_some]
    rw [h.claim (head_mem hh)]

theorem State.SameInList.workedChannel {s u : State} {d : Drive} (h : s.SameInList u d)
    (hch : u.drives.get d = s.drives.get d) : u.workedChannel d = s.workedChannel d := by
  unfold State.workedChannel State.runningDuty State.windingDuty
  rw [h.head, h.headView, h.wanted, hch]

/-- Gate clocks that pass leave what a channel reads of its list. -/
theorem passClocks_sameInList (s : State) (n : Nat) (d : Drive) : s.SameInList (s.passClocks n) d :=
  ⟨rfl, fun _ _ => rfl, rfl⟩

theorem wrap_run_toWrap {u : GateUnit} (ho : u.isOpen = true) :
    GateUnit.wrap (GateUnit.run u.toWrap u) = { u with
      counter := min (u.elapsed - u.applied.getD 1) ((u.staged.or u.applied).getD 1 - 1)
      waited := u.elapsed - u.applied.getD 1 - ((u.staged.or u.applied).getD 1 - 1)
      applied := u.staged.or u.applied
      staged := none } := by
  have helapsed : (GateUnit.run u.toWrap u).elapsed = u.elapsed + u.toWrap := by
    rw [GateUnit.run, if_pos ho]
    change min (u.elapsed + u.toWrap) u.last + (u.elapsed + u.toWrap - u.last) = _
    omega
  unfold GateUnit.wrap
  rw [helapsed, GateUnit.run_applied, GateUnit.run_staged]
  have hlate : u.elapsed + u.toWrap - u.applied.getD 1 = u.elapsed - u.applied.getD 1 := by
    unfold GateUnit.toWrap
    omega
  rw [hlate]
  simp only [GateUnit.run, GateUnit.elapsed, GateUnit.last, ho, if_true, Nat.zero_add]

/-- Settles O40, over the state that one channel after another leaves to the next. -/
theorem periodEndWorksThePhases : Obligations.PeriodEndWorksThePhases := by
  intro g s hreset u left late
  refine ⟨exec_periodEnd_of_closed hreset, exec_periodEnd_of_far hreset, fun ho hnear htable => ?_⟩
  have hn : (s.gates.get g).toWrap ≤ 2000 - s.clock.divider := by
    change left ≤ _
    omega
  have hexec := exec_periodEnd_of_near hreset ho hnear
  have hsame := fun d => passClocks_sameInList s (s.gates.get g).toWrap d
  have hgates := fun k => passClocks_gates_of_le hn k
  have hclock := fun hinv : ClockInv s => passClocks_clock (n := (s.gates.get g).toWrap) hinv hnear
  have hdrives := s.passClocks_drives (s.gates.get g).toWrap
  have htablew : TableInv (s.passClocks (s.gates.get g).toWrap) := htable.congr rfl rfl fun _ h => h
  generalize s.passClocks (s.gates.get g).toWrap = w at *
  have hgatest : ∀ k, (w.gatePeriodEnd g).gates.get k =
      if k = g then GateUnit.wrap (w.gates.get g) else w.gates.get k := fun k => by
    rw [State.gatePeriodEnd_gates, PerGate.get_set]
  refine ⟨w.gatePeriodEnd g, hexec, fun hinv => ?_, ?_, fun k hk => ?_, fun d hd => ⟨?_, ?_⟩, fun d hd => ?_⟩
  · rw [State.gatePeriodEnd_clock, hclock hinv]
    rfl
  · rw [hgatest, if_pos rfl, hgates, wrap_run_toWrap ho]
    rfl
  · rw [hgatest, if_neg hk, hgates]
    rfl
  · rw [State.gatePeriodEnd_otherDrive _ _ _ hd, hdrives]
  · unfold State.gatePeriodEnd
    rw [channelPeriodEnd_worksInList.foldl_otherList fun h => hd ((mem_children g d).mp h)]
    exact (hsame d).list
  · intro ch v wanted up down running winding worked
    obtain ⟨x, hx, hch, hxgates, hdrive, -⟩ := gatePeriodEnd_child htablew hd
    have hworked : x.workedChannel d = s.workedChannel d :=
      (hx.workedChannel hch).trans ((hsame d).workedChannel (by rw [hdrives]))
    rw [hdrive, State.channelPeriodEnd_drives, PerDrive.get_set_self, hworked, hxgates, hd, State.gatePeriodEnd_gates]
    have hphase : s.workedChannel d = ⟨worked.1, worked.2.1, worked.2.2, ch.compare⟩ := by
      have hidle : ¬(s.head d).isSome = true ↔ s.head d = none := by rw [Option.not_isSome_iff_eq_none]
      unfold State.workedChannel State.runningDuty State.windingDuty
      simp only [worked, running, winding, up, down, v, wanted, ch, Option.isNone_iff_eq_none]
      have heta : ∀ {p : Phase}, (s.drives.get d).phase = p → s.drives.get d =
          ⟨p, (s.drives.get d).duty, (s.drives.get d).pattern, (s.drives.get d).compare⟩ := fun h => by rw [← h]
      cases hp : (s.drives.get d).phase with
      | halted => exact heta hp
      | switching => rfl
      | dwell =>
        dsimp only
        rw [← ite_not, if_congr hidle rfl rfl]
      | idle =>
        dsimp only
        by_cases hw : s.wanted d = (s.drives.get d).pattern
        · rw [if_neg (not_not.mpr hw), if_neg (not_not.mpr hw)]
          by_cases hh : s.head d = none
          · rw [if_pos hh, if_neg (by rw [hh]; decide)]
            exact heta hp

          · rw [if_neg hh, if_pos (not_not.mp (mt hidle.mp hh))]
        · rw [if_pos hw, if_pos hw]
      | running =>
        dsimp only
        split <;> rfl
      | windingDown =>
        dsimp only
        split <;> rfl
    rw [hphase]



/-! ### The reports of a period end (R69, R74, R30, R32) -/

/-- The head of a list leaves it after some work on its own claim: the next entry takes over (R28). -/
theorem headLeaves {s u : State} {d : Drive} (ho : s.InOrder d) {h : SlotIx} {t : List SlotIx}
    (hl : s.driveList d = h :: t) (hu : State.WorksAt h s u) :
    (u.changeList d (some h) t).driveList d = t ∧ (u.changeList d (some h) t).slots[h] = u.slots[h] ∧
      ∀ j rest cj, t = j :: rest → s.claim j = some cj → s.gateIsOpen d.parent = true →
        (u.changeList d (some h) t).claim j = some { cj with state := .inForce } ∧
        (s.barred cj.owner = false → (u.changeList d (some h) t).noticed cj.owner .taken j) := by
  obtain ⟨hht, hnt⟩ := List.nodup_cons.mp (hl ▸ ho.nodup)
  have hne : ∀ j ∈ t, j ≠ h := fun j hj e => hht (e ▸ hj)
  have hclaim : ∀ j ∈ t, u.claim j = s.claim j := fun j hj => claim_of_slot (hu.slots j (hne j hj))
  have hfit : u.Fit t := ⟨hnt, fun j hj => by
    obtain ⟨c, hc, -, hs⟩ := ho.entry j (hl ▸ List.mem_cons_of_mem h hj)
    exact ⟨c, (hclaim j hj).trans hc, hs⟩⟩
  refine ⟨by rw [changeList_driveList, if_pos rfl], changeList_slot_of_not_mem u d _ hnt hht,
    fun j rest cj ht hcj hopen => ?_⟩
  have hj : j ∈ t := ht ▸ List.mem_cons_self
  have hstandby := ho.behind h t hl j hj cj hcj
  obtain ⟨h1, h2⟩ := changeList_takesOver hfit d (old := some h) (j := j) (by rw [ht]; rfl)
    (fun e => hne j hj (Option.some.inj e).symm) ((hclaim j hj).trans hcj)
  have hopen' : u.gateIsOpen d.parent = true := by
    unfold State.gateIsOpen
    rw [hu.gates]
    exact hopen
  refine ⟨?_, fun hb => h2 ?_⟩
  · rw [h1, hopen', Claim.asHead, if_neg (by rw [hstandby]; decide), if_pos rfl]
  · rw [barred_eq, hu.ports]
    exact hb

theorem countBurst_of_drive {c : Claim} {b : DriveBody} {left : Nat} (h : c.payload = .drive b left) :
    Claim.countBurst c = { c with payload := .drive b (left - 1) } := by
  unfold Claim.countBurst
  simp only [h]

theorem countBurst_state (c : Claim) : (Claim.countBurst c).state = c.state := by
  unfold Claim.countBurst
  split <;> rfl

section Reports


variable {s : State} {d : Drive} (ho : s.InOrder d) {h : SlotIx} {t : List SlotIx} (hl : s.driveList d = h :: t)
  {c : Claim} (hc : s.claim h = some c)
include ho hl

theorem take_finishes : (s.take d h .finishes).driveList d = t ∧
    (s.take d h .finishes).slots[h] = (s.finish h).slots[h] := by
  have htake : s.take d h .finishes = (s.finish h).changeList d (some h) t := by
    change (s.finish h).changeList d (some h) (s.driveList d).tail = _
    rw [hl]
    rfl
  obtain ⟨h1, h2, -⟩ := headLeaves ho hl (finish_worksAt s h)
  rw [htake]
  exact ⟨h1, h2⟩

include hc

theorem take_completes : (s.take d h .completes).driveList d = t ∧
    (s.take d h .completes).claim h = some { c with state := .complete } ∧
    (s.barred c.owner = false → (s.take d h .completes).noticed c.owner .complete h) := by
  have htake : s.take d h .completes = (s.completeClaim h).changeList d (some h) t := by
    change (s.completeClaim h).changeList d (some h) (s.driveList d).tail = _
    rw [hl]
    rfl
  obtain ⟨h1, h2, -⟩ := headLeaves ho hl (completeClaim_worksAt s h)
  obtain ⟨c', hc', -, hs⟩ := ho.entry h (hl ▸ List.mem_cons_self)
  rw [hc] at hc'
  cases hc'
  rw [htake]
  exact ⟨h1, (claim_of_slot h2).trans (completeClaim_claim hc),
    fun hb => changeList_noticed (completeClaim_noticed hc hs hb) d _ _⟩

theorem take_countsOut : (s.take d h .countsOut).driveList d = t ∧
    (s.take d h .countsOut).claim h = some { Claim.countBurst c with state := .complete } ∧
    (s.barred c.owner = false → (s.take d h .countsOut).noticed c.owner .complete h) ∧
    ∀ j rest cj, t = j :: rest → s.claim j = some cj → s.gateIsOpen d.parent = true →
      (s.take d h .countsOut).claim j = some { cj with state := .inForce } ∧
      (s.barred cj.owner = false → (s.take d h .countsOut).noticed cj.owner .taken j) := by
  have htake : s.take d h .countsOut =
      ((s.updClaim h Claim.countBurst).completeClaim h).changeList d (some h) t := by
    change ((s.updClaim h Claim.countBurst).completeClaim h).changeList d (some h) (s.driveList d).tail = _
    rw [hl]
    rfl
  obtain ⟨h1, h2, h3⟩ := headLeaves ho hl
    ((updClaim_worksAt s h Claim.countBurst).trans (completeClaim_worksAt _ h))
  obtain ⟨c', hc', -, hs⟩ := ho.entry h (hl ▸ List.mem_cons_self)
  rw [hc] at hc'
  cases hc'
  have hcount : (s.updClaim h Claim.countBurst).claim h = some (Claim.countBurst c) := by
    rw [State.updClaim_claim, if_pos rfl, hc]
    rfl
  have hsame := Claim.countBurst_same c
  rw [htake]
  refine ⟨h1, (claim_of_slot h2).trans (completeClaim_claim hcount), fun hb => ?_, h3⟩
  have hnoticed := completeClaim_noticed hcount (by rw [countBurst_state]; exact hs) (by rw [hsame.owner]; exact hb)
  rw [hsame.owner] at hnoticed
  exact changeList_noticed hnoticed d _ _

end Reports

/-- A channel worked as RUNNING, and one worked as WINDING_DOWN. -/
def State.worksRunning (s : State) (d : Drive) : Prop :=
  ((s.drives.get d).phase = .running ∨ (s.drives.get d).phase = .windingDown ∨ (s.drives.get d).phase = .idle) ∧
    s.wanted d = (s.drives.get d).pattern

def State.worksWinding (s : State) (d : Drive) : Prop :=
  ((s.drives.get d).phase = .running ∨ (s.drives.get d).phase = .windingDown) ∧ s.wanted d ≠ (s.drives.get d).pattern

theorem worked_of_running {s : State} {d : Drive} {v : HeadView} (hv : s.headView d = some v) (h : s.worksRunning d) :
    s.headReport d v = v.reportRunning (s.runningDuty d) (s.driveList d).length ∧
      (s.workedChannel d).duty = s.runningDuty d := by
  have hsome := head_isSome_of_view hv
  obtain ⟨hp | hp | hp, hw⟩ := h <;> unfold State.headReport State.workedChannel <;> simp [hp, hw, hsome]

theorem worked_of_winding {s : State} {d : Drive} (v : HeadView) (h : s.worksWinding d) :
    s.headReport d v = v.reportWinding (s.windingDuty d) (s.driveList d).length ∧
      (s.workedChannel d).duty = s.windingDuty d := by
  obtain ⟨hp | hp, hw⟩ := h <;> unfold State.headReport State.workedChannel <;> simp [hp, hw]

theorem headReport_of_neither {s : State} {d : Drive} (v : HeadView) (hr : ¬s.worksRunning d)
    (hw : ¬s.worksWinding d) : s.headReport d v = .stays := by
  unfold State.worksRunning at hr
  unfold State.worksWinding at hw
  unfold State.headReport
  dsimp only
  cases hp : (s.drives.get d).phase <;> simp_all

/-- The reports of a channel with a head in order, by what the period end finds (R69, R74). -/
structure State.Reports (s t : State) (d : Drive) (h : SlotIx) (tl : List SlotIx) (c : Claim) (b : DriveBody)
    (left duty : Nat) (running winding : Prop) : Prop where
  last : running ∧ c.state = .inForce ∧ b.burst ≠ 0 ∧ 0 < left ∧ 0 < duty → left = 1 ∧ tl ≠ [] →
    t.driveList d = tl ∧ t.claim h = some { c with payload := .drive b (left - 1), state := .complete } ∧
    (s.barred c.owner = false → t.noticed c.owner .complete h) ∧
    ∀ j rest cj, tl = j :: rest → s.claim j = some cj → t.claim j = some { cj with state := .inForce } ∧
      (s.barred cj.owner = false → t.noticed cj.owner .taken j)
  counted : running ∧ c.state = .inForce ∧ b.burst ≠ 0 ∧ 0 < left ∧ 0 < duty → ¬(left = 1 ∧ tl ≠ []) →
    t.driveList d = h :: tl ∧ t.claim h = some { c with payload := .drive b (left - 1) }
  finishes : running ∨ winding → duty = 0 → c.state = .retiring →
    t.driveList d = tl ∧ t.slots[h] = (s.finish h).slots[h]
  completes : running ∨ winding → duty = 0 → c.state ≠ .retiring → b.burst ≠ 0 ∧ left = 0 → tl = [] →
    t.driveList d = [] ∧ t.claim h = some { c with state := .complete } ∧
    (s.barred c.owner = false → t.noticed c.owner .complete h)
  stays : ¬(running ∧ c.state = .inForce ∧ b.burst ≠ 0 ∧ 0 < left ∧ 0 < duty) →
    ¬((running ∨ winding) ∧ duty = 0 ∧ (c.state = .retiring ∨ (b.burst ≠ 0 ∧ left = 0) ∧ tl = [])) →
    t.driveList d = h :: tl ∧ t.claim h = some c

theorem counts_iff (v : HeadView) (duty : Nat) : v.counts duty = true ↔
    v.state = .inForce ∧ v.body.burst ≠ 0 ∧ 0 < v.burstLeft ∧ 0 < duty := by
  simp [HeadView.counts, and_assoc]

theorem finished_iff (v : HeadView) : v.finished = true ↔ v.body.burst ≠ 0 ∧ v.burstLeft = 0 := by
  simp [HeadView.finished]

theorem one_lt_length_cons {α : Type} {x : α} {l : List α} : 1 < (x :: l).length ↔ l ≠ [] := by
  cases l <;> simp

theorem channelPeriodEnd_reports {s : State} {d : Drive} (ho : s.InOrder d) {h : SlotIx} {tl : List SlotIx}
    (hl : s.driveList d = h :: tl) {c : Claim} (hc : s.claim h = some c) {b : DriveBody} {left : Nat}
    (hp : c.payload = .drive b left) (hopen : s.gateIsOpen d.parent = true) :
    s.Reports (s.channelPeriodEnd d) d h tl c b left (s.workedChannel d).duty (s.worksRunning d)
      (s.worksWinding d) := by
  have hv : s.headView d = some ⟨h, c.state, b, left⟩ := (headView_eq_some_iff s d _).mpr ⟨c, tl, hl, hc, rfl, hp⟩
  have how : (s.setDrive d (s.workedChannel d)).InOrder d := ⟨ho.nodup, ho.entry, ho.behind⟩
  rw [channelPeriodEnd_of_view hv]
  have hrun := worked_of_running hv
  have hwind := worked_of_winding (s := s) (d := d) ⟨h, c.state, b, left⟩
  have hneither := headReport_of_neither (s := s) (d := d) ⟨h, c.state, b, left⟩
  rw [hl] at hrun hwind
  have h1 := take_countsOut how hl hc
  have h2 := take_finishes how hl
  have h3 := take_completes how hl hc
  have hcount := countBurst_of_drive hp
  generalize s.headReport d ⟨h, c.state, b, left⟩ = r at *
  generalize hduty : (s.workedChannel d).duty = duty at *
  have hlen : 1 < (h :: tl).length ↔ tl ≠ [] := one_lt_length_cons
  have hone : (h :: tl).length = 1 ↔ tl = [] := by simp
  have hatZero : s.worksRunning d ∨ s.worksWinding d → duty = 0 →
      r = HeadView.reportAtZero ⟨h, c.state, b, left⟩ (h :: tl).length := by
    rintro (hrunning | hwinding) hzero
    · obtain ⟨hr, hd⟩ := hrun hrunning
      rw [hr, ← hd, HeadView.reportRunning, if_neg fun hcounts => ?_, if_pos hzero]
      obtain ⟨-, -, -, hpos⟩ := (counts_iff _ _).mp hcounts
      omega
    · obtain ⟨hr, hd⟩ := hwind hwinding
      rw [hr, ← hd, HeadView.reportWinding, if_pos hzero]
  refine ⟨fun hcounts hlast => ?_, fun hcounts hlast => ?_, fun hwork hzero hst => ?_,
    fun hwork hzero hst hfin htl => ?_, fun hnocount hnozero => ?_⟩
  · obtain ⟨hrunning, hcounts⟩ := hcounts
    obtain ⟨hr, hd⟩ := hrun hrunning
    rw [← hd, HeadView.reportRunning, if_pos ((counts_iff _ _).mpr hcounts),
      if_pos ⟨hlast.1, hlen.mpr hlast.2⟩] at hr
    rw [hr]
    obtain ⟨hlist, hclaim, hnoticed, hnext⟩ := h1
    rw [hcount] at hclaim
    exact ⟨hlist, hclaim, hnoticed, fun j rest cj htl hcj => hnext j rest cj htl hcj hopen⟩
  · obtain ⟨hrunning, hcounts⟩ := hcounts
    obtain ⟨hr, hd⟩ := hrun hrunning
    rw [← hd, HeadView.reportRunning, if_pos ((counts_iff _ _).mpr hcounts),
      if_neg fun hl => hlast ⟨hl.1, hlen.mp hl.2⟩] at hr
    rw [hr]
    refine ⟨hl, (State.updClaim_claim _ _ _ _).trans ?_⟩
    rw [if_pos rfl, ← hcount]
    exact congrArg (Option.map Claim.countBurst) hc
  · obtain ⟨hlist, hslot⟩ := h2
    rw [hatZero hwork hzero, HeadView.reportAtZero, if_pos hst]
    exact ⟨hlist, hslot.trans (finish_slot_congr rfl rfl)⟩
  · rw [hatZero hwork hzero, HeadView.reportAtZero, if_neg hst, if_pos ⟨(finished_iff _).mpr hfin, hone.mpr htl⟩]
    obtain ⟨hlist, hclaim, hnoticed⟩ := h3
    exact ⟨htl ▸ hlist, hclaim, hnoticed⟩
  · have hstays : r = .stays := by
      by_cases hwork : s.worksRunning d ∨ s.worksWinding d
      · by_cases hzero : duty = 0
        · rw [hatZero hwork hzero, HeadView.reportAtZero, if_neg fun hst => hnozero ⟨hwork, hzero, .inl hst⟩,
            if_neg fun hfin => hnozero ⟨hwork, hzero, .inr ⟨(finished_iff _).mp hfin.1, hone.mp hfin.2⟩⟩]
        · rcases hwork with hrunning | hwinding
          · obtain ⟨hr, hd⟩ := hrun hrunning
            rw [hr, ← hd, HeadView.reportRunning,
              if_neg fun hcounts => hnocount ⟨hrunning, (counts_iff _ _).mp hcounts⟩, if_neg hzero]
          · obtain ⟨hr, hd⟩ := hwind hwinding
            rw [hr, ← hd, HeadView.reportWinding, if_neg hzero]
      · exact hneither (fun h => hwork (.inl h)) fun h => hwork (.inr h)
    rw [hstays]
    exact ⟨hl, hc⟩

theorem State.SameInList.trans {s t u : State} {d : Drive} (h1 : s.SameInList t d) (h2 : t.SameInList u d) :
    s.SameInList u d :=
  ⟨h2.list.trans h1.list, fun j hj => (h2.slots j (h1.list ▸ hj)).trans (h1.slots j hj), h2.ports.trans h1.ports⟩

theorem State.SameInList.inOrder
 {s u : State} {d : Drive} (h : s.SameInList u d) (ho : s.InOrder d) : u.InOrder d :=
  ho.congr h.list h.slots

/-- Settles O41, over the state that one channel after another leaves to the next. -/
theorem periodEndReports : Obligations.PeriodEndReports := by
  refine ⟨fun g s t htable hlist hexec => ?_, fun g d s t h tl c b left hreset hopen hd htable hlist hnear hl hc hp hexec => ?_⟩
  · intro isHead
    have ho := inOrder_of_inv htable hlist
    rcases exec_periodEnd g s with hsame | ⟨-, n, hnext⟩
    · rw [hsame] at hexec
      cases hexec
      exact ⟨rfl, fun _ _ => rfl, .refl s _⟩
    rw [hnext] at hexec
    cases hexec
    obtain ⟨h1, h2⟩ := foldl_channelPeriodEnd_quiet (children_nodup g)
      (s := (s.passClocks n).setGate g (GateUnit.wrap ((s.passClocks n).gates.get g)))
      fun d _ => ⟨(ho d).nodup, (ho d).entry, (ho d).behind⟩
    have hheads : ∀ i, State.headsOneOf g.children
        ((s.passClocks n).setGate g (GateUnit.wrap ((s.passClocks n).gates.get g)))
        ((s.passClocks n).gatePeriodEnd g) i → isHead i := by
      rintro i ⟨d, hd, hi⟩
      exact ⟨d, (mem_children g d).mp hd, hi⟩
    refine ⟨?_, fun i hi => h1 i fun h => hi (hheads i h), fun l e he => h2 l e fun h => he (hheads _ h)⟩
    apply State.eq_of_fields <;> simp
  · have hexec' := exec_periodEnd_of_near hreset hopen hnear
    rw [hexec'] at hexec
    cases hexec
    have hsame := passClocks_sameInList s (s.gates.get g).toWrap d
    have hopenw : (s.passClocks (s.gates.get g).toWrap).gateIsOpen g = true := by
      unfold State.gateIsOpen
      rw [State.passClocks_gates, GateUnit.run_isOpen]
      exact hopen
    have hdrives := s.passClocks_drives (s.gates.get g).toWrap
    have htablew : TableInv (s.passClocks (s.gates.get g).toWrap) := htable.congr rfl rfl fun _ h => h
    generalize s.passClocks (s.gates.get g).toWrap = w at *
    obtain ⟨x, hxw, hch, hxgates, hdrive, hlistt, hslots, hnoticed⟩ := gatePeriodEnd_child htablew hd
    have hx := hsame.trans hxw
    intro ch duty finished isRunning isWinding counts counted
    have hopenx
 : x.gateIsOpen d.parent = true := by
      unfold State.gateIsOpen
      rw [hd, hxgates, PerGate.get_set_self, GateUnit.wrap_isOpen]
      exact hopenw
    have hmem : ∀ j ∈ h :: tl, j ∈ s.driveList d := fun j hj => hl ▸ hj
    have hslot : ∀ j ∈ h :: tl, (w.gatePeriodEnd g).slots[j] = (x.channelPeriodEnd d).slots[j] := fun j hj =>
      hslots j (hsame.list ▸ hmem j hj)
    have hclaim : ∀ j ∈ h :: tl, (w.gatePeriodEnd g).claim j = (x.channelPeriodEnd d).claim j := fun j hj =>
      claim_of_slot (hslot j hj)
    have hhead : h ∈ h :: tl := List.mem_cons_self
    have hreport := channelPeriodEnd_reports (hx.inOrder (inOrder_of_inv htable hlist d)) (hx.list.trans hl)
      ((hx.claim (hmem h hhead)).trans hc) hp hopenx
    have hduty : (x.workedChannel d).duty = duty := by
      change _ = ((w.gatePeriodEnd g).drives.get d).duty
      rw [hdrive, State.channelPeriodEnd_drives, PerDrive.get_set_self]
    have hchs : x.drives.get d = s.drives.get d := hch.trans (by rw [hdrives])
    have hrunning : x.worksRunning d = isRunning := by
      unfold State.worksRunning
      rw [hchs, hx.wanted]
    have hwinding : x.worksWinding d = isWinding := by
      unfold State.worksWinding
      rw [hchs, hx.wanted]
    rw [hduty, hrunning, hwinding] at hreport
    clear_value duty isRunning isWinding
    refine ⟨fun hcounts hlast => ?_, fun hcounts hlast => ?_, fun hwork hzero hst => ?_,
      fun hwork hzero hst hfin htl => ?_, fun hnocount hnozero => ?_⟩
    · obtain ⟨h1, h2, h3, h4⟩ := hreport.last hcounts hlast
      refine ⟨hlistt.trans h1, (hclaim h hhead).trans h2, fun hb => hnoticed _ _ _ (h3 ((hx.barred _).trans hb)),
        fun j rest cj htl hcj => ?_⟩
      have hj : j ∈ h :: tl := List.mem_cons_of_mem h (htl ▸ List.mem_cons_self)
      obtain ⟨h5, h6⟩ := h4 j rest cj htl ((hx.claim (hmem j hj)).trans hcj)
      exact ⟨(hclaim j hj).trans h5, fun hb => hnoticed _ _ _ (h6 ((hx.barred _).trans hb))⟩
    · obtain ⟨h1, h2⟩ := hreport.counted hcounts hlast
      exact ⟨hlistt.trans h1, (hclaim h hhead).trans h2⟩
    · obtain ⟨h1, h2⟩ := hreport.finishes hwork hzero hst
      exact ⟨hlistt.trans h1, (hslot h hhead).trans (h2.trans (finish_slot_congr (hx.slots h (hmem h hhead)) hx.ports))⟩
    · obtain ⟨h1, h2, h3⟩ := hreport.completes hwork hzero hst hfin htl
      exact ⟨hlistt.trans h1, (hclaim h hhead).trans h2, fun hb => hnoticed _ _ _ (h3 ((hx.barred _).trans hb))⟩
    · obtain ⟨h1, h2⟩ := hreport.stays hnocount hnozero
      exact ⟨hlistt.trans h1, (hclaim h hhead).trans h2⟩

end Sys2Proof.Machine
end

section
/-! SUPPORT and PROOFS. What a step keeps, by its parts; the configuration, the setup store, the clocks and the authority
link. -/

namespace Sys2Proof.Machine

/-! ### A step by its parts -/

/-- What an event of time, of the pins or of the gates makes of the state. -/
inductive Timed (s : State) : State → Prop
  | advance : Timed s s.advance
  | expire (i : SlotIx) : Timed s (s.expire i)
  | periodEnd (g : Gate) (ho : s.gateIsOpen g = true) (n : Nat) : Timed s ((s.passClocks n).gatePeriodEnd g)
  | complete (f : Conversion) (hf : s.arbiter.inFlight = some f) (v : BitVec 12) (n : Nat) :
    Timed s ((s.passClocks n).complete f v.toNat)
  | pinChange (e : EdgeIn) (v : Level) (n : Nat) : Timed s (s.pinChange e v n)
  | accept (e : EdgeIn) (p : PendingChange) (hp : s.inputs[e].pending = some p) (n : Nat) :
    Timed s ((s.passClocks n).acceptEdge e p.stamp)
  | trip (g : Gate) : Timed s (s.takeTrip g)
  | clocks : Timed s (s.passClocks 1)

/-- A property reads neither the queue, the free values drawn, nor a reset that is held, and of the ports only the
barred marks. -/
def ReadsParts (P : State → Prop) : Prop := ∀ (s : State) (q : List Instr) (n : Nat) (r : Bool) (p : PerLink Port),
  P s → (∀ l, (p.get l).barred = (s.ports.get l).barred) →
    P { s with pending := q, draws := n, resetHeld := r, ports := p }

theorem ReadsParts.quiet {P : State → Prop} (h : ReadsParts P) {s : State} (hs : P s) (q : List Instr) (n : Nat)
    (r : Bool) : P { s with pending := q, draws := n, resetHeld := r } := h s q n r s.ports hs fun _ => rfl

theorem ReadsParts.port {P : State → Prop} (h : ReadsParts P) {s : State} (hs : P s) (l : Link) (p : Port)
    (hp : p.barred = (s.ports.get l).barred) : P (s.setPort l p) :=
  h s s.pending s.draws s.resetHeld (s.ports.set l p) hs fun m => by
    rw [PerLink.get_set]
    split
    · rename_i e
      rw [e, hp]
    · rfl

theorem step_keeps_parts {P : State → Prop} (hread : ReadsParts P)
    (hreset : ∀ auth pins csLow, P (State.released auth pins csLow)) (hchange : ∀ s t, P s → Change s t → P t)
    (htimed : ∀ s t, P s → Timed s t → P t) {s t : State} (hs : P s) (h : step s = .next t) : P t := by
  refine step_keeps P (fun s q hs => hread.quiet hs q s.draws s.resetHeld) (fun s t hs hm => ?_) hs h
  cases hm with
  | same => exact hs
  | held => exact hread.quiet (s := State.reset) (hreset _ _ _) s.pending s.draws true
  | released auth pins csLow => exact hread.quiet (hreset auth pins csLow) s.pending s.draws false
  | window l w o h => exact hread.port hs l _ rfl
  | response t h l r => exact hread.port (hchange s t hs h) l _ rfl
  | advance => exact htimed s _ hs .advance
  | expire i => exact htimed s _ hs (.expire i)
  | periodEnd g ho n => exact htimed s _ hs (.periodEnd g ho n)
  | complete f hf v n => exact htimed s _ hs (.complete f hf v n)
  | pinChange e v n => exact htimed s _ hs (.pinChange e v n)
  | accept e p hp n => exact htimed s _ hs (.accept e p hp n)
  | trip g => exact htimed s _ hs (.trip g)
  | clocks => exact htimed s _ hs .clocks

/-! ### The clocks (R82, R126) -/

theorem clockInv_congr {s t : State} (h : t.clock = s.clock) (hs : ClockInv s) : ClockInv t := by
  unfold ClockInv
  rw [h]
  exact hs

theorem passClocks_clockInv {s : State} (h : ClockInv s) (n : Nat) : ClockInv (s.passClocks n) := by
  have hn : s.passClocks n = s.passClocks (min n (2000 - s.clock.divider)) := by
    unfold State.passClocks
    rw [min_assoc, min_self]
  have hle := h.1
  rw [hn, ClockInv, passClocks_clock h (by omega)]
  exact ⟨by dsimp only; omega, rfl⟩

theorem nextTick_clockInv {s : State} (h : ClockInv s) (waits : Bool) : ClockInv (s.nextTick waits) := by
  rw [ClockInv, nextTick_clock h]
  exact ⟨Nat.zero_le _, by simp⟩

theorem takeCount_clockInv {s : State} (h : ClockInv s) : ClockInv s.takeCount := by
  unfold State.takeCount
  split
  · exact h
  · exact nextTick_clockInv h false

theorem expire_clock_cases (s : State) (i : SlotIx) :
    (s.expire i).clock = s.clock ∨ (s.expire i).clock = (s.nextTick true).clock := by
  unfold State.expire
  split
  · exact .inl rfl
  · split
    · exact .inl (by simp)
    · split
      · exact .inr (by simp)
      · exact .inl rfl

theorem Change.clock {s t : State} (h : Change s t) : t.clock = s.clock := by
  cases h with
  | tookNotices m => exact foldl_keeps State.clock _ (fun _ _ => by simp) _ _
  | renewedAll m => exact foldl_keeps State.clock State.renewClaim (fun _ _ => rfl) _ _
  | nothing | read | renewed | pinned | admitted | reach | window | filter | polarity | locked => rfl
  | evicted | opened | amended | retired | droppedAll | cleared | tested => simp

@[simp] theorem complete_clock (s : State) (f : Conversion) (v : Nat) : (s.complete f v).clock = s.clock :=
  (State.decideIfFree_clock _).trans
    (foldl_keeps State.clock (fun s i => s.deliver f.channel v i) (fun s i => s.deliver_clock _ _ i) f.due s)

/-- A pin's move leaves the clock, or lets time pass to its instant. -/
theorem pinChange_clock_cases (s : State) (e : EdgeIn) (v : Level) (n : Nat) :
    (s.pinChange e v n).clock = s.clock ∨ (s.pinChange e v n).clock = (s.passToMicro n).clock := by
  unfold State.pinChange
  split
  · exact .inl rfl
  · refine .inr ?_
    dsimp only
    split
    · exact State.acceptDue_clock _ e
    · split
      · exact (State.acceptEdge_clock _ e _).trans (State.acceptDue_clock _ e)
      · exact State.acceptDue_clock _ e

theorem timed_clockInv {s t : State} (hs : ClockInv s) (h : Timed s t) : ClockInv t := by
  cases h with
  | advance => exact clockInv_congr (by simp [State.advance]) (takeCount_clockInv hs)
  | expire i =>
    rcases expire_clock_cases s i with h | h
    · exact clockInv_congr h hs
    · exact clockInv_congr h (nextTick_clockInv hs true)
  | periodEnd g ho n => exact clockInv_congr (by simp) (passClocks_clockInv hs n)
  | complete f hf v n => exact clockInv_congr (complete_clock _ f _) (passClocks_clockInv hs n)
  | pinChange e v n =>
    rcases pinChange_clock_cases s e v n with h | h
    · exact clockInv_congr h hs
    · exact clockInv_congr h (passClocks_clockInv hs _)
  | accept e p hp n => exact clockInv_congr (by simp) (passClocks_clockInv hs n)
  | trip g => exact clockInv_congr (by simp) hs
  | clocks => exact passClocks_clockInv hs 1

theorem step_clockInv {s t : State} (hs : ClockInv s) (h : step s = .next t) : ClockInv t :=
  step_keeps_parts (fun _ _ _ _ _ hs _ => hs) (fun auth pins csLow => by
    obtain ⟨-, -, -, -, -, -, -, -, hclock, -⟩ := released_invariants auth pins csLow
    exact hclock) (fun s t hs h => clockInv_congr h.clock hs) (fun _ _ => timed_clockInv) hs h

/-! ### The authority link (R167) -/

theorem authorityInv_congr {s t : State} (hsetup : t.setup.authority = s.setup.authority)
    (hbar : t.barred s.setup.authority = s.barred s.setup.authority) (h : AuthorityInv s) : AuthorityInv t := by
  unfold AuthorityInv
  rw [hsetup, hbar]
  exact h

/-- No request names another authority link, and none bars it (R167, R173). -/
theorem change_authorityInv {s t : State} (hs : AuthorityInv s) (h : Change s t) : AuthorityInv t := by
  have hsame : ∀ {u : State}, u.setup.authority = s.setup.authority → u.ports = s.ports → AuthorityInv u :=
    fun hset hports => authorityInv_congr hset (by rw [barred_eq, barred_eq, hports]) hs
  cases h with
  | evicted m hm _ =>
    refine authorityInv_congr (by simp) ?_ hs
    rw [barred_eq, barred_eq, State.evictLink_ports, PerLink.get_set, if_neg (Ne.symm hm)]
  | admitted m =>
    refine ⟨hs.1, ?_⟩
    change ((s.ports.set m { s.ports.get m with barred := false }).get s.setup.authority).barred = false
    rw [PerLink.get_set]
    split
    · rfl
    · exact hs.2
  | tookNotices m =>
    exact hsame (congrArg Setup.authority (foldl_keeps State.setup _ (fun _ _ => by simp) _ _))
      (foldl_keeps State.ports _ (fun _ _ => by simp) _ _)
  | renewedAll m =>
    exact hsame (congrArg Setup.authority (foldl_keeps State.setup State.renewClaim (fun _ _ => rfl) _ _))
      (foldl_keeps State.ports State.renewClaim (fun _ _ => rfl) _ _)
  | nothing | read | renewed | pinned | reach | window | filter | polarity | locked => exact hsame rfl rfl
  | opened | amended | retired | droppedAll | cleared | tested => exact hsame (by simp) (by simp)

theorem Timed.setup {s t : State} (h : Timed s t) : t.setup = s.setup := by
  cases h <;> simp [State.advance]

theorem Timed.ports {s t : State} (h : Timed s t) : t.ports = s.ports := by
  cases h <;> simp [State.advance]

theorem step_authorityInv {s t : State} (hs : AuthorityInv s) (h : step s = .next t) : AuthorityInv t :=
  step_keeps_parts (fun s q n r p hs hp => ⟨hs.1, (hp _).trans hs.2⟩) (fun auth pins csLow => by
    obtain ⟨-, -, -, -, -, -, -, -, -, hauth, -⟩ := released_invariants auth pins csLow
    exact hauth) (fun _ _ => change_authorityInv)
    (fun s t hs h => authorityInv_congr (by rw [h.setup]) (by rw [barred_eq, barred_eq, h.ports]) hs) hs h


/-! ### The setup store in RUN (R170) -/

/-- An event that is no power-on reset, at a part that is not held in reset, leaves the state, changes a port's window,
or is an event of time, of the pins or of the gates. -/
theorem exec_event {c : Instr} {s t : State} (he : c.isEvent = true) (hc : c ≠ .powerOnReset)
    (hr : s.resetHeld = false) (h : exec c s = .next t) : t = s ∨ (∃ l p, t = s.setPort l p) ∨ Timed s t := by
  have hinstant : ∀ n (event : State → State), Timed s (event (s.passClocks n)) →
      s.atInstant n event = s ∨ Timed s (s.atInstant n event) := fun n event hev => by
    unfold State.atInstant
    split
    · exact .inr hev
    · exact .inl rfl
  have hif : ∀ {u v : State}, (if s.resetHeld = true then u else v) = v := fun {u v} => by simp [hr]
  cases c with
  | powerOnReset => exact absurd rfl hc
  | resetRelease auth pins csLow => cases h; exact .inl hif
  | windowBegin l =>
    cases h
    dsimp only
    split
    · exact .inl rfl
    · exact .inr (.inl ⟨l, _, rfl⟩)
  | cadenceAdvance => cases h; exact .inr (.inr (hif ▸ .advance))
  | holdExpiry i => cases h; exact .inr (.inr (hif ▸ .expire i))
  | periodEnd g =>
    cases h
    rw [hif]
    split
    · rename_i ho
      exact (hinstant _ _ (.periodEnd g ho _)).imp id .inr
    · exact .inl rfl
  | conversionComplete value =>
    cases h
    rw [hif]
    split
    · exact .inl rfl
    · rename_i f hf
      exact (hinstant _ _ (.complete f hf value _)).imp id .inr
  | edgePinChange e lvl n => cases h; exact .inr (.inr (hif ▸ .pinChange e lvl n))
  | acceptedEdge e =>
    cases h
    rw [hif]
    split
    · exact .inl rfl
    · rename_i p hp
      exact (hinstant _ (fun u => u.acceptEdge e p.stamp) (.accept e p hp _)).imp id .inr
  | tripTaken g => cases h; exact .inr (.inr (hif ▸ .trip g))
  | csRiseAfterReset l =>
    cases h
    dsimp only
    split
    · exact .inl rfl
    · exact .inr (.inl ⟨l, _, rfl⟩)
  | _ => cases he

/-- In RUN no request changes the setup store or a glitch filter (R170). -/
theorem Change.setup_of_run {s t : State} (hrun : s.setup.part = .run) (h : Change s t) :
    t.setup = s.setup ∧ t.inputs = s.inputs := by
  have hconfig : ∀ {p : Prop}, s.setup.part = .config → p := fun hc => by rw [hrun] at hc; cases hc
  cases h with
  | reach _ _ hc | window _ _ hc | filter _ _ hc | polarity _ _ hc | locked hc => exact hconfig hc
  | tookNotices m =>
    exact ⟨foldl_keeps State.setup _ (fun _ _ => by simp) _ _, foldl_keeps State.inputs _ (fun _ _ => by simp) _ _⟩
  | renewedAll m =>
    exact ⟨foldl_keeps State.setup State.renewClaim (fun _ _ => rfl) _ _,
      foldl_keeps State.inputs State.renewClaim (fun _ _ => rfl) _ _⟩
  | nothing | read | renewed | pinned | admitted => exact ⟨rfl, rfl⟩
  | opened | amended | retired | droppedAll | cleared | tested | evicted => exact ⟨by simp, by simp⟩

theorem setInput_filter (s : State) (e : EdgeIn) (lvl : Level) (p : Option PendingChange) (j : EdgeIn) :
    (s.setInput e ⟨lvl, p, s.inputs[e].filter⟩).inputs[j].filter = s.inputs[j].filter := by
  change (s.inputs.set e _)[j].filter = _
  rw [getElem_set_fin]
  split
  · rename_i heq
    rw [heq]
  · rfl

theorem acceptEdge_filter (s : State) (e : EdgeIn) (stamp : Count32) (j : EdgeIn) :
    (s.acceptEdge e stamp).inputs[j].filter = s.inputs[j].filter := by
  rw [(acceptEdge_accepted s e stamp).frame]
  exact setInput_filter s e _ _ j

theorem acceptDue_filter (s : State) (e j : EdgeIn) : (s.acceptDue e).inputs[j].filter = s.inputs[j].filter := by
  unfold State.acceptDue
  split
  · rfl
  · split
    · exact acceptEdge_filter s e _ j
    · rfl

theorem pinChange_filter (s : State) (e : EdgeIn) (v : Level) (n : Nat) (j : EdgeIn) :
    (s.pinChange e v n).inputs[j].filter = s.inputs[j].filter := by
  have hdue : ((s.passToMicro n).acceptDue e).inputs[j].filter = s.inputs[j].filter := acceptDue_filter _ e j
  unfold State.pinChange
  split
  · rfl
  · dsimp only
    split
    · exact (setInput_filter _ e _ _ j).trans hdue
    · split
      · exact (acceptEdge_filter _ e _ j).trans hdue
      · exact (setInput_filter _ e _ _ j).trans hdue

theorem Timed.filter {s t : State} (h : Timed s t) (j : EdgeIn) : t.inputs[j].filter = s.inputs[j].filter := by
  have hsame : ∀ {u : State}, u.inputs = s.inputs → u.inputs[j].filter = s.inputs[j].filter := fun hu => by rw [hu]
  cases h with
  | pinChange e v n => exact pinChange_filter s e v n j
  | accept e p hp n => exact acceptEdge_filter (s.passClocks n) e p.stamp j
  | advance => exact hsame (by simp [State.advance])
  | expire | periodEnd | complete | trip | clocks => exact hsame (by simp)

theorem exec_setup_of_run {c : Instr} {s t : State} (hrun : s.setup.part = .run) (hc : c ≠ .powerOnReset)
    (h : exec c s = .next t) (hr : s.resetHeld = false) :
    t.setup = s.setup ∧ ∀ e : EdgeIn, t.inputs[e].filter = s.inputs[e].filter := by
  cases he : c.isEvent with
  | false =>
    obtain ⟨l, u, hu, hreq⟩ := exec_requested he s
    rw [hu] at h
    cases h
    cases hreq with
    | left => exact ⟨rfl, fun _ => rfl⟩
    | answered u hchange r =>
      obtain ⟨h1, h2⟩ := hchange.setup_of_run hrun

      exact ⟨h1, fun e => congrArg (fun v : Vector EdgeInput 8 => v[e].filter) h2⟩
  | true =>
    rcases exec_event he hc hr h with rfl | ⟨l, p, rfl⟩ | ht
    · exact ⟨rfl, fun _ => rfl⟩
    · exact ⟨rfl, fun _ => rfl⟩
    · exact ⟨ht.setup, ht.filter⟩

/-! ### CONFIG (R166) -/

/-- Nothing stands in the part: no claim, no entry, no notice, no vote, no hold, no request and no trip. -/
structure State.Blank (s : State) : Prop where
  slots : ∀ i, s.claim i = none
  drives : ∀ d, s.driveList d = []
  gateLists : ∀ g, s.gateList g = []
  notices : ∀ l, s.notices.get l = []
  gates : ∀ g, (s.gates.get g).isOpen = false ∧ (s.gates.get g).holds = []
  waiting : ∀ c : AnalogCh, s.arbiter.waiting[c] = none
  inFlight : s.arbiter.inFlight = none
  trips : ∀ g, s.trips.get g = []

theorem blank_of_configInv {s : State} (h : ConfigInv s) (hc : s.setup.part = .config) : s.Blank := by
  obtain ⟨h1, h2, h3, h4, h5, h6, h7, h8⟩ := h hc
  exact ⟨h1, h2, h3, h4, h5, h6, h7, h8⟩

theorem configInv_of_blank {s : State} (h : s.Blank) : ConfigInv s := fun _ =>
  ⟨h.slots, h.drives, h.gateLists, h.notices, h.gates, h.waiting, h.inFlight, h.trips⟩

/-- A state that changes no part of which blankness speaks is blank with it. -/
theorem State.Blank.congr {s t : State} (h : s.Blank) (hslots : ∀ i, t.claim i = none)
    (hdrives : t.driveLists = s.driveLists) (hlists : t.gateLists = s.gateLists)
    (hnotices : ∀ l, t.notices.get l = [])
    (hgates : ∀ g, (t.gates.get g).isOpen = (s.gates.get g).isOpen ∧ (t.gates.get g).holds = (s.gates.get g).holds)
    (harbiter : t.arbiter = s.arbiter) (htrips : t.trips = s.trips) : t.Blank where
  slots := hslots
  drives d := (State.driveList_congr hdrives d).trans (h.drives d)
  gateLists g := (State.gateList_congr hlists g).trans (h.gateLists g)
  notices := hnotices
  gates g := by
    obtain ⟨h1, h2⟩ := hgates g
    rw [h1, h2]
    exact h.gates g
  waiting := by rw [harbiter]; exact h.waiting
  inFlight := by rw [harbiter]; exact h.inFlight
  trips := by rw [htrips]; exact h.trips

theorem State.Blank.members {s : State} (h : s.Blank) (r : Resource) : s.members r = [] :=
  State.slotsWhere_of_free h.slots _

theorem State.Blank.passClocks {s : State} (h : s.Blank) (n : Nat) : (s.passClocks n).Blank :=
  h.congr h.slots rfl rfl h.notices (fun g => by rw [State.passClocks_gates]; simp) rfl rfl

/-- An advance of a blank part does no more than take the count. -/
theorem State.Blank.advance {s : State} (h : s.Blank) : s.advance.Blank := by
  have hcount : s.takeCount.Blank :=
    h.congr (fun i => (State.claim_congr (State.takeCount_slots s) i).trans (h.slots i)) (by simp) (by simp)
      (fun l => by rw [State.takeCount_notices, h.notices])
      (fun g => by rw [State.takeCount_gates]; split <;> simp) (by simp) (by simp)
  have hdue : ∀ cs : List AnalogCh, cs.foldl State.dueMoment s.takeCount = s.takeCount := fun cs =>
    foldl_of_fixed fun c _ => dueMoment_of_not_due fun hd => isDueOn_members hd (hcount.members _)
  have hschedule : s.takeCount.scheduleAdvance = s.takeCount := by
    unfold State.scheduleAdvance
    rw [hdue, decideIfFree_of_none ((anyWaiting_eq_false_iff _).mpr hcount.waiting)]
  have hmoments : s.takeCount.momentSlots = [] := State.slotsWhere_of_free hcount.slots _
  have hnone : s.takeCount.edgeMoments [] = (s.takeCount, []) := rfl
  rw [State.advance, hschedule]
  refine ⟨fun i => ?_, fun d => ?_, fun g => ?_, fun l => ?_, fun g => ?_, ?_, ?_, fun g => ?_⟩
  · rw [State.claim_congr ((edgeAdvance_slots _).trans (by rw [hmoments, hnone]))]
    exact hcount.slots i
  · exact (State.driveList_congr (State.edgeAdvance_driveLists _) d).trans (hcount.drives d)
  · exact (State.gateList_congr (State.edgeAdvance_gateLists _) g).trans (hcount.gateLists g)
  · rw [edgeAdvance_notices, hmoments, hnone]
    exact hcount.notices l
  · rw [State.edgeAdvance_gates]
    exact hcount.gates g
  · rw [State.edgeAdvance_arbiter]
    exact hcount.waiting
  · rw [State.edgeAdvance_arbiter]
    exact hcount.inFlight
  · obtain ⟨raised, htrips, hperm⟩ := edgeAdvance_trips s.takeCount g
    rw [hmoments] at hperm
    rw [htrips, hcount.trips, List.nil_append]
    exact hperm.eq_nil

theorem State.Blank.acceptEdge {s : State} (h : s.Blank) (e : EdgeIn) (stamp : Count32) :
    (s.acceptEdge e stamp).Blank := by
  rw [acceptEdge_eq, h.members]
  exact h.congr h.slots rfl rfl h.notices (fun _ => ⟨rfl, rfl⟩) rfl rfl

theorem State.Blank.setInput {s : State} (h : s.Blank) (e : EdgeIn) (x : EdgeInput) : (s.setInput e x).Blank :=
  h.congr h.slots rfl rfl h.notices (fun _ => ⟨rfl, rfl⟩) rfl rfl

theorem State.Blank.acceptDue {s : State} (h : s.Blank) (e : EdgeIn) : (s.acceptDue e).Blank := by
  unfold State.acceptDue
  split
  · exact h
  · split
    · exact h.acceptEdge e _
    · exact h

theorem State.Blank.pinChange {s : State} (h : s.Blank) (e : EdgeIn) (v : Level) (n : Nat) :
    (s.pinChange e v n).Blank := by
  have hdue : ((s.passToMicro n).acceptDue e).Blank := (h.passClocks _).acceptDue e
  unfold State.pinChange
  split
  · exact h
  · dsimp only
    split
    · exact hdue.setInput e _
    · split
      · exact hdue.acceptEdge e _
      · exact hdue.setInput e _

theorem State.Blank.timed {s t : State} (h : s.Blank) (ht : Timed s t) : t.Blank := by
  cases ht with
  | advance => exact h.advance
  | expire i =>
    rw [State.expire, h.slots]
    exact h
  | periodEnd g ho n =>
    obtain ⟨hclosed, -⟩ := h.gates g
    exact absurd ho (by rw [State.gateIsOpen, hclosed]; decide)
  | complete f hf v n =>
    rw [h.inFlight] at hf
    cases hf
  | pinChange e v n => exact h.pinChange e v n
  | accept e p hp n => exact (h.passClocks n).acceptEdge e p.stamp
  | trip g =>
    have hnone := h.trips g
    unfold State.takeTrip
    rw [hnone]
    exact h
  | clocks => exact h.passClocks 1

/-- Nothing is read of a claim, and no notices are taken, where there are none. -/
theorem State.Blank.read {s : State} (h : s.Blank) (i : SlotIx) : (s.updClaim i Claim.readByOwner).Blank :=
  h.congr (fun j => by rw [State.updClaim_claim, h.slots, h.slots]; split <;> rfl) rfl rfl h.notices
    (fun _ => ⟨rfl, rfl⟩) rfl rfl

theorem State.Blank.takeNotices {s : State} (h : s.Blank) (l : Link) :
    (((s.notices.get l).take 6).foldl State.takeEntry
      { s with notices := s.notices.set l ((s.notices.get l).drop 6) }).Blank := by
  rw [h.notices]
  refine h.congr h.slots rfl rfl (fun m => ?_) (fun _ => ⟨rfl, rfl⟩) rfl rfl
  change (s.notices.set l []).get m = []
  rw [PerLink.get_set]
  split
  · rfl
  · exact h.notices m

theorem State.Blank.change {s t : State} (h : s.Blank) (hc : s.setup.part = .config) (ht : Change s t) : ConfigInv t := by
  have hrun : s.setup.part = .run → ConfigInv t := fun hr => by rw [hc] at hr; cases hr
  have hfree : ∀ (c : Claim) (i : SlotIx), s.claim i = some c → ConfigInv t := fun c i hi => by
    rw [h.slots] at hi
    cases hi
  cases ht with
  | nothing => exact configInv_of_blank h
  | read i => exact configInv_of_blank (h.read i)
  | tookNotices l => exact configInv_of_blank (h.takeNotices l)
  | opened l body r i f ho => exact hrun ho.run
  | amended body l i c f ho hf => exact hrun ho.run
  | renewed i c hi _ _ => exact hfree c i hi
  | renewedAll l =>
    rw [State.renewable, State.slotsWhere_of_free h.slots]
    exact configInv_of_blank h
  | retired l body i c ho => exact hrun ho.run
  | droppedAll l hr => exact hrun hr
  | cleared g src hr => exact hrun hr
  | tested g src hr => exact hrun hr
  | pinned i c hi _ => exact hfree c i hi

  | evicted l _ hr => exact hrun hr
  | admitted l => exact configInv_of_blank ⟨h.slots, h.drives, h.gateLists, h.notices, h.gates, h.waiting, h.inFlight, h.trips⟩
  | reach | window | filter | polarity =>
    exact configInv_of_blank ⟨h.slots, h.drives, h.gateLists, h.notices, h.gates, h.waiting, h.inFlight, h.trips⟩
  | locked _ =>
    intro hp
    cases hp

/-- In RUN a request leaves the part in RUN. -/
theorem Change.run {s t : State} (hrun : s.setup.part = .run) (h : Change s t) : t.setup.part = .run := by
  rw [(h.setup_of_run hrun).1, hrun]

theorem step_configInv {s t : State} (hs : ConfigInv s) (h : step s = .next t) : ConfigInv t := by
  refine step_keeps_parts (fun s q n r p hs _ => hs) (fun auth pins csLow => ?_) (fun s t hs h => ?_)
    (fun s t hs h => ?_) hs h
  · obtain ⟨-, -, -, -, -, hconfig, -⟩ := released_invariants auth pins csLow
    exact hconfig
  · cases hp : s.setup.part with
    | config => exact (blank_of_configInv hs hp).change hp h
    | run => exact fun hc => by rw [h.run hp] at hc; cases hc
  · intro hp
    rw [h.setup] at hp
    exact configInv_of_blank ((blank_of_configInv hs hp).timed h) (by rw [h.setup, hp])

/-- Settles O57, each part by the parts of a step. -/
theorem configSetupClocksAndAuthority : Obligations.ConfigSetupClocksAndAuthority :=
  ⟨⟨fun _ _ => step_configInv, fun _ _ _ hrun hc h hr => exec_setup_of_run hrun hc h hr⟩,
    fun _ _ => step_clockInv, fun _ _ => step_authorityInv⟩

end Sys2Proof.Machine
end

section
/-! SUPPORT and PROOFS. What each command leaves of the claims' fields, and what it makes of quotas and tags. -/

namespace Sys2Proof

/-- The fields of R1 by the requests that may change them: the place never, the name by EVICT, the terms by AMEND, the
pin by PIN. -/
structure Claim.SamePlace (c d : Claim) : Prop where
  resource : d.resource = c.resource
  cls : d.cls = c.cls

structure Claim.SameName (c d : Claim) : Prop where
  owner : d.owner = c.owner
  tag : d.tag = c.tag

structure Claim.SameTerms (c d : Claim) : Prop where
  hold : d.hold = c.hold
  wants : d.wantsSample = c.wantsSample
  body : d.payload.body = c.payload.body

/-- The relation that a command of which some of the four may change leaves. -/
structure Claim.SameBut (evict amend pin : Prop) (c d : Claim) : Prop where
  place : c.SamePlace d
  name : ¬evict → c.SameName d
  terms : ¬amend → c.SameTerms d
  pinned : ¬pin → d.pinned = c.pinned

theorem Claim.SameBut.trans {evict amend pin : Prop} {c d e : Claim} (h : c.SameBut evict amend pin d)
    (k : d.SameBut evict amend pin e) : c.SameBut evict amend pin e where
  place := ⟨k.place.resource.trans h.place.resource, k.place.cls.trans h.place.cls⟩
  name hn := ⟨(k.name hn).owner.trans (h.name hn).owner, (k.name hn).tag.trans (h.name hn).tag⟩
  terms hn := ⟨(k.terms hn).hold.trans (h.terms hn).hold, (k.terms hn).wants.trans (h.terms hn).wants,
    (k.terms hn).body.trans (h.terms hn).body⟩
  pinned hn := (k.pinned hn).trans (h.pinned hn)

theorem Claim.Same.sameBut {c d : Claim} (h : c.Same d) (evict amend pin : Prop) : c.SameBut evict amend pin d :=
  ⟨⟨h.resource, h.cls⟩, fun _ => ⟨h.owner, h.tag⟩, fun _ => ⟨h.hold, h.wants, h.body⟩, fun _ => h.pinned⟩

end Sys2Proof

namespace Sys2Proof.Machine

/-! ### Requests that leave every claim's fields (R1) -/

section Requests

variable {P : State → Prop} {s : State}

theorem inRun_holds (h0 : P s) {k : Answer} (h : P k.state) : P (s.inRun k).state := by
  unfold State.inRun
  split
  · exact h0
  · exact h

theorem byAuthority_holds (h0 : P s) (l : Link) {k : Answer} (h : P k.state) : P (s.byAuthority l k).state := by
  unfold State.byAuthority
  split
  · exact h0
  · exact inRun_holds h0 h

theorem bySetup_holds (h0 : P s) (l : Link) {k : Answer} (h : P k.state) : P (s.bySetup l k).state := by
  unfold State.bySetup
  split
  · exact h0
  · split
    · exact h0
    · exact h

theorem withHandle_holds (h0 : P s) (body : List Byte) (n : Nat) {k : SlotIx → Answer} (h : ∀ i, P (k i).state) :
    P (s.withHandle body n k).state := by
  unfold State.withHandle
  split
  · exact h0
  · split
    · exact h0
    · exact h _

theorem ownedOngoing_holds (h0 : P s) (l : Link) (i : SlotIx) {k : Claim → Answer}
    (h : ∀ c, s.claim i = some c → P (k c).state) : P (s.ownedOngoing l i k).state := by
  unfold State.ownedOngoing
  split
  · exact h0
  · rename_i c hc
    split
    · exact h0
    · split
      · exact h0
      · split
        · exact h0
        · exact h c hc

theorem takeRequest_holds (hport : ∀ (u : State) l r, P u → P (u.holdResponse l r)) (h0 : P s) (l : Link) (code : Byte)
    (body : List Byte) {answer : State → Answer} (h : P (answer s).state) : P (s.takeRequest l code body answer) := by
  unfold State.takeRequest
  split
  · exact h0
  · split
    · exact hport s l _ h0
    · exact hport _ l _ h

end Requests

theorem readRequest_descends (s : State) (l : Link) (body : List Byte) : s.Descends (s.readRequest l body).state := by
  refine inRun_holds (.refl s) ?_
  split
  · exact .refl s
  split
  · exact .refl s
  split
  · exact .refl s
  split
  · exact .refl s
  · exact .refl s
  · dsimp only [State.ok]
    split
    · exact s.updClaim_descends _ _ Claim.readByOwner_same
    · exact .refl s
  · exact .refl s

theorem takeNoticesRequest_descends (s : State) (l : Link) (body : List Byte) :
    s.Descends (s.takeNoticesRequest l body).state := by
  unfold State.takeNoticesRequest
  split
  · exact .refl s
  · exact .fold (.of_slots rfl) _ State.takeEntry_descends _

theorem foldl_renewClaim_descends (s : State) (is : List SlotIx) : s.Descends (is.foldl State.renewClaim s) :=
  s.foldl_descends State.renewClaim State.renewClaim_descends is

theorem renewRequest_descends (s : State) (l : Link) (body : List Byte) : s.Descends (s.renewRequest l body).state :=
  inRun_holds (.refl s) (withHandle_holds (.refl s) _ _ fun i =>
    ownedOngoing_holds (.refl s) l i fun _ _ => s.renewClaim_descends i)

theorem renewAllRequest_descends (s : State) (l : Link) : s.Descends (s.renewAllRequest l).state :=
  inRun_holds (.refl s) (foldl_renewClaim_descends s _)

theorem retireRequest_descends (s : State) (l : Link) (body : List Byte) : s.Descends (s.retireRequest l body).state :=
  inRun_holds (.refl s) (withHandle_holds (.refl s) _ _ fun i =>
    ownedOngoing_holds (.refl s) l i fun _ _ => s.endClaims_descends _ _)

theorem dropAllRequest_descends (s : State) (l : Link) (body : List Byte) :
    s.Descends (s.dropAllRequest l body).state := by
  refine inRun_holds (.refl s) ?_
  split
  · exact .refl s
  · exact (s.endClaims_descends .retire (s.endable l)).slots_eq rfl

theorem clearTripRequest_descends (s : State) (l : Link) (body : List Byte) :
    s.Descends (s.clearTripRequest l body).state := by
  refine inRun_holds (.refl s) ?_
  repeat' split
  any_goals exact .refl s
  exact s.removeHold_descends _ _

theorem testTripRequest_descends (s : State) (l : Link) (body : List Byte) :
    s.Descends (s.testTripRequest l body).state := by
  refine byAuthority_holds (.refl s) l ?_
  split
  · exact .refl s
  · exact s.takeHold_descends _ _

theorem admitRequest_descends (s : State) (l : Link) (body : List Byte) : s.Descends (s.admitRequest l body).state := by
  refine byAuthority_holds (.refl s) l ?_
  split
  · exact .refl s
  · exact .of_slots rfl

theorem setReachRequest_descends (s : State) (l : Link) (body : List Byte) :
    s.Descends (s.setReachRequest l body).state := by
  refine bySetup_holds (.refl s) l ?_
  split
  · exact .refl s
  · exact .of_slots rfl

theorem setAnalogRequest_descends (s : State) (l : Link) (body : List Byte) :
    s.Descends (s.setAnalogRequest l body).state := by
  refine bySetup_holds (.refl s) l ?_
  split
  · exact .refl s
  · exact .of_slots rfl

theorem setEdgeRequest_descends (s : State) (l : Link) (body : List Byte) :
    s.Descends (s.setEdgeRequest l body).state := by
  refine bySetup_holds (.refl s) l ?_
  split
  · exact .refl s
  · exact .of_slots rfl

theorem setDriveRequest_descends (s : State) (l : Link) (body : List Byte) :
    s.Descends (s.setDriveRequest l body).state := by
  refine bySetup_holds (.refl s) l ?_
  split
  · exact .refl s
  · exact .of_slots rfl

theorem lockSetupRequest_descends (s : State) (l : Link) (body : List Byte) :
    s.Descends (s.lockSetupRequest l body).state := by
  refine bySetup_holds (.refl s) l ?_
  split
  · exact .refl s
  · exact .of_slots rfl

/-- A request whose answer leaves every claim's fields leaves them when it is taken. -/
theorem takeRequest_descends (s : State) (l : Link) (code : Byte) (body : List Byte) {answer : State → Answer}
    (h : s.Descends (answer s).state) : s.Descends (s.takeRequest l code body answer) :=
  takeRequest_holds (P := s.Descends) (fun _ _ _ hu => hu.slots_eq rfl) (.refl s) l code body h

theorem Timed.descends {s t : State} (h : Timed s t) : s.Descends t := by
  have hpass : ∀ n, s.Descends (s.passClocks n) := fun _ => .of_slots rfl
  cases h with
  | advance => exact s.advance_descends
  | expire i => exact s.expire_descends i
  | periodEnd g ho n => exact (hpass n).trans (State.gatePeriodEnd_descends _ g)
  | complete f hf v n => exact (hpass n).trans (State.complete_descends _ f _)
  | pinChange e v n => exact s.pinChange_descends e v n
  | accept e p hp n => exact (hpass n).trans (State.acceptEdge_descends _ e _)
  | trip g => exact s.takeTrip_descends g
  | clocks => exact hpass 1

theorem descends_of_free {s t : State} (h : ∀ i, t.claim i = none) : s.Descends t := fun i d hd => by
  rw [h i] at hd
  cases hd

/-- A part that is held in reset takes no event but a power-on reset and the release (R171). -/
theorem exec_event_of_held {c : Instr} {s t : State} (he : c.isEvent = true) (hr : s.resetHeld = true)
    (h : exec c s = .next t) : t = s ∨ ∀ i, t.claim i = none := by
  have hif : ∀ {u v : State}, (if s.resetHeld = true then u else v) = u := fun {u v} => by simp [hr]
  cases c with
  | powerOnReset => cases h; exact .inr (released_claim .low (Vector.replicate 8 .low) ⟨false, false, false⟩)
  | resetRelease auth pins csLow => cases h; exact .inr (hif ▸ released_claim auth pins csLow)
  | windowBegin l => cases h; exact .inl (if_pos (.inl hr))
  | csRiseAfterReset l => cases h; exact .inl (if_pos (.inl hr))
  | cadenceAdvance | holdExpiry | periodEnd | conversionComplete | edgePinChange | acceptedEdge | tripTaken =>
    cases h
    exact .inl hif
  | _ => cases he

/-- Every event leaves the fields of every claim that stands after it. -/
theorem exec_event_descends {c : Instr} {s t : State} (he : c.isEvent = true) (h : exec c s = .next t) :
    s.Descends t := by
  cases hr : s.resetHeld with
  | false =>
    by_cases hc : c = .powerOnReset
    · subst hc
      cases h
      exact descends_of_free (released_claim .low (Vector.replicate 8 .low) ⟨false, false, false⟩)
    · rcases exec_event he hc hr h with rfl | ⟨l, p, rfl⟩ | ht
      · exact .refl _
      · exact .of_slots rfl
      · exact ht.descends
  | true =>
    rcases exec_event_of_held he hr h with rfl | hfree
    · exact .refl _
    · exact descends_of_free hfree


/-- A refused frame whose bits fail a check: it is no request. -/
def State.noRequest (s : State) (c : Instr) : Prop :=
  ∀ l more, c = .frameRefused l more → frameError (s.received l ++ more) ≠ none

theorem frameRefused_slots {s t : State} {l : Link} {bits : List Bool}
    (hno : frameError (s.received l ++ bits) ≠ none) (h : exec (.frameRefused l bits) s = .next t) :
    t.slots = s.slots := by
  change execFrameRefused l bits s = _ at h
  unfold execFrameRefused at h
  split at h
  · cases h
    rfl
  · cases hf : frameError (s.received l ++ bits) with
    | none => exact absurd hf hno
    | some r =>
      rw [riseOfCs_error hf] at h
      cases h
      rfl

/-- A command that is no OPEN, AMEND, PIN or EVICT, and no frame that is such a request, leaves every claim's fields. -/
theorem exec_descends {c : Instr} {s t : State} (h : exec c s = .next t) (ho : ∀ l body, c ≠ .openClaim l body)
    (ha : ∀ l body, c ≠ .amend l body) (hp : ∀ l body, c ≠ .pin l body) (hv : ∀ l body, c ≠ .evict l body)
    (hno : s.noRequest c) : s.Descends t := by
  have hframe : ∀ {l code body} {answer : State → Answer}, (answer s).state = s →
      s.Descends (s.takeRequest l code body answer) := fun hst =>
    takeRequest_descends s _ _ _ (by rw [hst]; exact .refl s)
  cases hev : c.isEvent with
  | true => exact exec_event_descends hev h
  | false =>
    cases c with
    | openClaim l body => exact absurd rfl (ho l body)
    | amend l body => exact absurd rfl (ha l body)
    | pin l body => exact absurd rfl (hp l body)
    | evict l body => exact absurd rfl (hv l body)
    | frameRefused l bits => exact .of_slots (frameRefused_slots (hno l bits rfl) h)
    | poll l body => cases h; exact hframe rfl
    | status l body => cases h; exact hframe (s.statusRequest_state body)
    | trips l body => cases h; exact hframe (s.tripsRequest_state body)
    | list l body => cases h; exact hframe (s.listRequest_state body)
    | read l body => cases h; exact takeRequest_descends s _ _ _ (readRequest_descends s l body)
    | lookup l body => cases h; exact hframe (s.lookupRequest_state l body)
    | takeNotices l body => cases h; exact takeRequest_descends s _ _ _ (takeNoticesRequest_descends s l body)
    | renew l body =>
      cases h
      refine takeRequest_descends s _ _ _ ?_
      split
      · exact renewAllRequest_descends s l
      · exact renewRequest_descends s l body
    | renewAll l => cases h; exact takeRequest_descends s _ _ _ (renewAllRequest_descends s l)
    | retire l body => cases h; exact takeRequest_descends s _ _ _ (retireRequest_descends s l body)
    | dropAll l body => cases h; exact takeRequest_descends s _ _ _ (dropAllRequest_descends s l body)
    | clearTrip l body => cases h; exact takeRequest_descends s _ _ _ (clearTripRequest_descends s l body)
    | testTrip l body => cases h; exact takeRequest_descends s _ _ _ (testTripRequest_descends s l body)
    | admitLink l body => cases h; exact takeRequest_descends s _ _ _ (admitRequest_descends s l body)
    | setReach l body => cases h; exact takeRequest_descends s _ _ _ (setReachRequest_descends s l body)
    | setAnalog l body => cases h; exact takeRequest_descends s _ _ _ (setAnalogRequest_descends s l body)
    | setEdge l body => cases h; exact takeRequest_descends s _ _ _ (setEdgeRequest_descends s l body)
    | setDrive l body => cases h; exact takeRequest_descends s _ _ _ (setDriveRequest_descends s l body)
    | lockSetup l body => cases h; exact takeRequest_descends s _ _ _ (lockSetupRequest_descends s l body)
    | powerOnReset | resetRelease | windowBegin | cadenceAdvance | holdExpiry | periodEnd | conversionComplete
    | edgePinChange | acceptedEdge | tripTaken | csRiseAfterReset => cases hev

/-! ### The four requests that R1 names -/

/-- Every claim after is a claim of its slot before, in a relation to it. -/
def State.DescendsBy (R : Claim → Claim → Prop) (s t : State) : Prop :=
  ∀ i d, t.claim i = some d → ∃ c, s.claim i = some c ∧ R c d

theorem State.DescendsBy.trans {R : Claim → Claim → Prop} (hR : ∀ c d e, R c d → R d e → R c e) {s t u : State}
    (h : State.DescendsBy R s t) (k : State.DescendsBy R t u) : State.DescendsBy R s u := fun i e he => by
  obtain ⟨d, hd, hde⟩ := k i e he
  obtain ⟨c, hc, hcd⟩ := h i d hd
  exact ⟨c, hc, hR c d e hcd hde⟩

theorem State.DescendsBy.mono {R S : Claim → Claim → Prop} (hRS : ∀ c d, R c d → S c d) {s t : State}
    (h : State.DescendsBy R s t) : State.DescendsBy S s t := fun i d hd => by
  obtain ⟨c, hc, hcd⟩ := h i d hd
  exact ⟨c, hc, hRS c d hcd⟩

theorem updClaim_descendsBy {R : Claim → Claim → Prop} (hrefl : ∀ c, R c c) (s : State) (i : SlotIx)
    {f : Claim → Claim} (hf : ∀ c, R c (f c)) : State.DescendsBy R s (s.updClaim i f) := fun j d hd => by
  rw [State.updClaim_claim] at hd
  split at hd
  · rename_i hj
    obtain ⟨c, hc, rfl⟩ := Option.map_eq_some_iff.mp hd
    exact ⟨c, hj ▸ hc, hf c⟩
  · exact ⟨d, hd, hrefl d⟩

/-- Every claim that stands before and after is in a relation to what it was. -/
def State.Inherits (R : Claim → Claim → Prop) (s t : State) : Prop :=
  ∀ i x y, s.claim i = some x → t.claim i = some y → R x y

theorem State.DescendsBy.inherits {R : Claim → Claim → Prop} {s t : State} (h : State.DescendsBy R s t) :
    State.Inherits R s t := fun i x y hx hy => by
  obtain ⟨c, hc, hR⟩ := h i y hy
  rw [hx] at hc
  cases hc
  exact hR

theorem State.Descends.by {s t : State} (h : s.Descends t) (evict amend pin : Prop) :
    State.DescendsBy (Claim.SameBut evict amend pin) s t :=
  State.DescendsBy.mono (R := Claim.Same) (fun _ _ hcd => hcd.sameBut evict amend pin) h

theorem handOverPinned_descendsBy (s : State) (i : SlotIx) :
    State.DescendsBy (Claim.SameBut True False False) s (s.handOverPinned i) :=
  updClaim_descendsBy (fun c => (Claim.Same.refl c).sameBut _ _ _) s i fun _ =>
    ⟨⟨rfl, rfl⟩, fun h => absurd trivial h, fun _ => ⟨rfl, rfl, rfl⟩, fun _ => rfl⟩

/-- An eviction changes names alone (R173). -/
theorem evictLink_descendsBy (s : State) (l : Link) :
    State.DescendsBy (Claim.SameBut True False False) s (s.evictLink l) := by
  have hend : s.Descends ((s.barLink l).endClaims .retire (s.endable l)) :=
    (s.barLink_descends l).trans (State.endClaims_descends _ _ _)
  have htrans : ∀ c d e : Claim, c.SameBut True False False d → d.SameBut True False False e →
      c.SameBut True False False e := fun _ _ _ => Claim.SameBut.trans
  refine State.DescendsBy.trans htrans (hend.by _ _ _) ?_
  exact List.foldlRecOn
    (motive := State.DescendsBy (Claim.SameBut True False False) ((s.barLink l).endClaims .retire (s.endable l)))
    _ State.handOverPinned ((State.Descends.refl _).by _ _ _)
    fun t ht i _ => ht.trans htrans (handOverPinned_descendsBy t i)


/-- A claim put into a FREE slot changes none of the claims that stood. -/
theorem inherits_of_putClaim_free {s t : State} {i : SlotIx} {c : Claim} (hfree : s.claim i = none)
    (h : (s.putClaim i c).Descends t) : State.Inherits (Claim.SameBut False False False) s t := by
  intro j x y hx hy
  obtain ⟨d, hd, hsame⟩ := h j y hy
  rw [State.putClaim_claim, if_neg (fun e : j = i => by rw [e, hfree] at hx; cases hx), hx] at hd
  cases hd
  exact hsame.sameBut _ _ _

/-- An amended claim keeps its place, its name and its pin. -/
theorem inherits_of_amended {s t : State} {i : SlotIx} {c : Claim} {f : ClaimFields} (hc : s.claim i = some c)
    (h : (s.putClaim i (s.amendedClaim c f)).Descends t) : State.Inherits (Claim.SameBut False True False) s t := by
  intro j x y hx hy
  obtain ⟨d, hd, hsame⟩ := h j y hy
  refine Claim.SameBut.trans ?_ (hsame.sameBut _ _ _)
  rw [State.putClaim_claim] at hd
  split at hd
  · rename_i hj
    rw [hj, hc] at hx
    cases hx
    cases hd
    exact ⟨⟨rfl, rfl⟩, fun _ => ⟨rfl, rfl⟩, fun h => absurd trivial h, fun _ => rfl⟩
  · rw [hx] at hd
    cases hd
    exact (Claim.Same.refl x).sameBut _ _ _

theorem pin_descendsBy (s : State) (i : SlotIx) :
    State.DescendsBy (Claim.SameBut False False True) s (s.updClaim i Claim.pin) :=
  updClaim_descendsBy (fun c => (Claim.Same.refl c).sameBut _ _ _) s i fun _ =>
    ⟨⟨rfl, rfl⟩, fun _ => ⟨rfl, rfl⟩, fun _ => ⟨rfl, rfl, rfl⟩, fun h => absurd trivial h⟩

theorem openRequest_inherits (s : State) (l : Link) (body : List Byte) :
    State.Inherits (Claim.SameBut False False False) s (s.openRequest l body).state := by
  have hrefl : State.Inherits (Claim.SameBut False False False) s s :=
    ((State.Descends.refl s).by _ _ _).inherits
  refine inRun_holds hrefl ?_
  split
  · exact hrefl
  split
  · exact hrefl
  rename_i r _
  split
  · exact hrefl
  split
  · exact hrefl
  rename_i i hi
  split
  · exact hrefl
  dsimp only
  split
  · exact hrefl
  split
  · exact hrefl
  · exact inherits_of_putClaim_free (s.lowestFree_of_head i hi).1 (State.handOver_descends _ r i)

theorem amendRequest_inherits (s : State) (l : Link) (body : List Byte) :
    State.Inherits (Claim.SameBut False True False) s (s.amendRequest l body).state := by
  have hrefl : State.Inherits (Claim.SameBut False True False) s s :=
    ((State.Descends.refl s).by _ _ _).inherits
  refine inRun_holds hrefl ?_
  split
  · exact hrefl
  rename_i i _
  refine ownedOngoing_holds hrefl l i fun c hc => ?_
  repeat' split
  any_goals exact hrefl
  exact inherits_of_amended hc (State.handAmended_descends _ c i)

theorem pinRequest_inherits (s : State) (l : Link) (body : List Byte) :
    State.Inherits (Claim.SameBut False False True) s (s.pinRequest l body).state := by
  have hrefl : State.DescendsBy (Claim.SameBut False False True) s s := (State.Descends.refl s).by _ _ _
  refine State.DescendsBy.inherits (byAuthority_holds hrefl l (withHandle_holds hrefl _ _ fun i => ?_))
  repeat' split
  any_goals exact hrefl
  exact pin_descendsBy s i

theorem evictRequest_inherits (s : State) (l : Link) (body : List Byte) :
    State.Inherits (Claim.SameBut True False False) s (s.evictRequest l body).state := by
  have hrefl : State.DescendsBy (Claim.SameBut True False False) s s := (State.Descends.refl s).by _ _ _
  refine State.DescendsBy.inherits (byAuthority_holds hrefl l ?_)
  repeat' split
  any_goals exact hrefl
  exact evictLink_descendsBy s _

theorem takeRequest_inherits {R : Claim → Claim → Prop} (hrefl : ∀ c, R c c) (s : State) (l : Link) (code : Byte)
    (body : List Byte) {answer : State → Answer} (h : State.Inherits R s (answer s).state) :
    State.Inherits R s (s.takeRequest l code body answer) :=
  takeRequest_holds (P := State.Inherits R s) (fun _ _ _ hu => hu) (fun i x y hx hy => by
    rw [hx] at hy
    cases hy
    exact hrefl x) l code body h

/-- No request changes the place of a claim (R1). -/
theorem Change.inherits {s t : State} (h : Change s t) : State.Inherits (Claim.SameBut True True True) s t := by
  have hdescends : ∀ {u : State}, s.Descends u → State.Inherits (Claim.SameBut True True True) s u :=
    fun hu => (hu.by _ _ _).inherits
  have hweaken : ∀ {evict amend pin : Prop} {u : State}, State.Inherits (Claim.SameBut evict amend pin) s u →
      State.Inherits (Claim.SameBut True True True) s u := fun hu i x y hx hy =>
    ⟨(hu i x y hx hy).place, fun h => absurd trivial h, fun h => absurd trivial h, fun h => absurd trivial h⟩
  cases h with
  | nothing => exact hdescends (.refl s)
  | read i => exact hdescends (s.updClaim_descends i _ Claim.readByOwner_same)
  | tookNotices l => exact hdescends (.fold (.of_slots rfl) _ State.takeEntry_descends _)
  | opened l body r i f h => exact hweaken (inherits_of_putClaim_free h.room.1 (State.handOver_descends _ r i))
  | amended body l i c f h hf => exact hweaken (inherits_of_amended h.claim (State.handAmended_descends _ c i))
  | renewed i c hc hu ho => exact hdescends (s.renewClaim_descends i)
  | renewedAll l => exact hdescends (foldl_renewClaim_descends s _)
  | retired l body i c h => exact hdescends (s.endClaims_descends _ _)
  | droppedAll l hrun => exact hdescends ((s.endClaims_descends .retire (s.endable l)).slots_eq rfl)
  | cleared g src hrun => exact hdescends (s.removeHold_descends g src)
  | tested g src hrun => exact hdescends (s.takeHold_descends g _)
  | pinned i c hc ho => exact hweaken (pin_descendsBy s i).inherits
  | evicted l hl hrun => exact hweaken (evictLink_descendsBy s l).inherits
  | admitted | reach | window | filter | polarity | locked => exact hdescends (.of_slots rfl)

theorem Moves.inherits {s t : State} (h : Moves s t) : State.Inherits (Claim.SameBut True True True) s t := by
  have hdescends : ∀ {u : State}, s.Descends u → State.Inherits (Claim.SameBut True True True) s u :=
    fun hu => (hu.by _ _ _).inherits
  cases h with
  | same => exact hdescends (.refl s)
  | held => exact hdescends (descends_of_free (released_claim .low (Vector.replicate 8 .low) ⟨false, false, false⟩))
  | released auth pins csLow => exact hdescends (descends_of_free (released_claim auth pins csLow))
  | window l w o h => exact hdescends (.of_slots rfl)
  | response t h l r => exact h.inherits
  | advance => exact hdescends Timed.advance.descends
  | expire i => exact hdescends (Timed.expire i).descends
  | periodEnd g ho n => exact hdescends (Timed.periodEnd g ho n).descends
  | complete f hf v n => exact hdescends (Timed.complete f hf v n).descends
  | pinChange e v n => exact hdescends (Timed.pinChange e v n).descends
  | accept e p hp n => exact hdescends (Timed.accept e p hp n).descends
  | trip g => exact hdescends (Timed.trip g).descends
  | clocks => exact hdescends Timed.clocks.descends

/-- A command changes the name of a claim only as an EVICT, its terms only as an AMEND, and its pin only as a PIN. -/
theorem exec_inherits {c : Instr} {s t : State} (h : exec c s = .next t) (hno : s.noRequest c) :
    State.Inherits (Claim.SameBut (∃ l body, c = .evict l body) (∃ l body, c = .amend l body)
      (∃ l body, c = .pin l body)) s t := by
  have hrefl : ∀ (evict amend pin : Prop) (c : Claim), c.SameBut evict amend pin c := fun _ _ _ c =>
    (Claim.Same.refl c).sameBut _ _ _
  by_cases ho : ∃ l body, c = .openClaim l body
  · obtain ⟨l, body, rfl⟩ := ho
    cases h
    intro i x y hx hy
    have hk := takeRequest_inherits (hrefl False False False) s l 0x10#8 body (openRequest_inherits s l body) i x y hx hy
    exact ⟨hk.place, fun _ => hk.name id, fun _ => hk.terms id, fun _ => hk.pinned id⟩
  by_cases ha : ∃ l body, c = .amend l body
  · obtain ⟨l, body, rfl⟩ := ha
    cases h
    intro i x y hx hy
    have hk := takeRequest_inherits (hrefl False True False) s l 0x11#8 body (amendRequest_inherits s l body) i x y hx hy
    exact ⟨hk.place, fun _ => hk.name id, fun hn => absurd ⟨l, body, rfl⟩ hn, fun _ => hk.pinned id⟩
  by_cases hp : ∃ l body, c = .pin l body
  · obtain ⟨l, body, rfl⟩ := hp
    cases h
    intro i x y hx hy
    have hk := takeRequest_inherits (hrefl False False True) s l 0x30#8 body (pinRequest_inherits s l body) i x y hx hy
    exact ⟨hk.place, fun _ => hk.name id, fun _ => hk.terms id, fun hn => absurd ⟨l, body, rfl⟩ hn⟩
  by_cases hv : ∃ l body, c = .evict l body
  · obtain ⟨l, body, rfl⟩ := hv
    cases h
    intro i x y hx hy
    have hk := takeRequest_inherits (hrefl True False False) s l 0x31#8 body (evictRequest_inherits s l body) i x y hx hy
    exact ⟨hk.place, fun hn => absurd ⟨l, body, rfl⟩ hn, fun _ => hk.terms id, fun _ => hk.pinned id⟩
  have hnever : ∀ {p : Link → List Byte → Prop}, (¬∃ l body, p l body) → ∀ l body, ¬p l body :=
    fun hn l body h => hn ⟨l, body, h⟩
  exact ((exec_descends h (hnever ho) (hnever ha) (hnever hp) (hnever hv) hno).by _ _ _).inherits

/-- Settles O52, by the request that a command is. -/
theorem claimFieldsChangeAtTheirEvents : Obligations.ClaimFieldsChangeAtTheirEvents := by
  refine ⟨fun c s t h ho ha hp hv hno => exec_descends h ho ha hp hv hno, fun c s t h i x y hx hy => ?_⟩
  have hany := (exec_next_moves h).inherits i x y hx hy
  refine ⟨hany.place.resource, hany.place.cls, fun hv hno => ?_, fun ha hno => ?_, fun hp hno => ?_⟩
  · have hname := (exec_inherits h hno i x y hx hy).name fun ⟨l, body, e⟩ => hv l body e
    exact ⟨hname.owner, hname.tag⟩
  · have hterms := (exec_inherits h hno i x y hx hy).terms fun ⟨l, body, e⟩ => ha l body e
    exact ⟨hterms.hold, hterms.wants, hterms.body⟩
  · exact (exec_inherits h hno i x y hx hy).pinned fun ⟨l, body, e⟩ => hp l body e


end Sys2Proof.Machine
end

section
/-! SUPPORT and PROOFS. Quotas (R6) and tags (R7) after every step. -/

namespace Sys2Proof

/-- A claim stays its link's with its tag, and stays pinned if it was. -/
structure Claim.Keeps (c d : Claim) : Prop where
  owner : d.owner = c.owner
  tag : d.tag = c.tag
  pinned : c.pinned = true → d.pinned = true

theorem Claim.Same.keeps {c d : Claim} (h : c.Same d) : c.Keeps d := ⟨h.owner, h.tag, fun hp => h.pinned.trans hp⟩

theorem Claim.Keeps.trans {c d e : Claim} (h : c.Keeps d) (k : d.Keeps e) : c.Keeps e :=
  ⟨k.owner.trans h.owner, k.tag.trans h.tag, fun hp => k.pinned (h.pinned hp)⟩

theorem Claim.Keeps.unpinned {c d : Claim} (h : c.Keeps d) (hd : d.pinned = false) : c.pinned = false := by
  cases hc : c.pinned with
  | false => rfl
  | true => rw [h.pinned hc] at hd; cases hd

end Sys2Proof

namespace Sys2Proof.Machine

theorem State.Descends.keeps {s t : State} (h : s.Descends t) : State.DescendsBy Claim.Keeps s t :=
  State.DescendsBy.mono (R := Claim.Same) (fun _ _ => Claim.Same.keeps) h

theorem putClaim_descendsBy {R : Claim → Claim → Prop} (hrefl : ∀ c, R c c) {s : State} {i : SlotIx} {c d : Claim}
    (hc : s.claim i = some c) (hR : R c d) : State.DescendsBy R s (s.putClaim i d) := fun j e he => by
  rw [State.putClaim_claim] at he
  split at he
  · rename_i hj
    cases he
    exact ⟨c, hj ▸ hc, hR⟩
  · exact ⟨e, he, hrefl e⟩

/-- A request keeps every claim its link's and its tag, but for a claim that OPEN adds and an eviction. -/
theorem Change.keeps_or {s t : State} (h : Change s t) : State.DescendsBy Claim.Keeps s t ∨
    (∃ l body r i f, s.OpenPasses l body r i f ∧ (s.putClaim i (s.newClaim l r (openTag body) f)).Descends t ∧
      t.setup = s.setup) ∨ s.setup.part = .run ∧ ∃ l, t = s.evictLink l := by
  have hrefl : ∀ c : Claim, c.Keeps c := fun c => (Claim.Same.refl c).keeps
  have htrans : ∀ c d e : Claim, c.Keeps d → d.Keeps e → c.Keeps e := fun _ _ _ => Claim.Keeps.trans
  cases h with
  | nothing => exact .inl (State.Descends.refl s).keeps
  | read i => exact .inl (s.updClaim_descends i _ Claim.readByOwner_same).keeps
  | tookNotices l => exact .inl (State.Descends.fold (.of_slots rfl) _ State.takeEntry_descends _).keeps
  | opened l body r i f h => exact .inr (.inl ⟨l, body, r, i, f, h, State.handOver_descends _ r i, by simp⟩)
  | amended body l i c f h hf =>
    have hput : State.DescendsBy Claim.Keeps s (s.putClaim i (s.amendedClaim c f)) :=
      putClaim_descendsBy hrefl h.claim ⟨rfl, rfl, id⟩
    exact .inl (hput.trans htrans (State.handAmended_descends _ c i).keeps)
  | renewed i c hc hu ho => exact .inl (s.renewClaim_descends i).keeps
  | renewedAll l => exact .inl (foldl_renewClaim_descends s _).keeps
  | retired l body i c h => exact .inl (s.endClaims_descends _ _).keeps
  | droppedAll l hrun => exact .inl ((s.endClaims_descends .retire (s.endable l)).slots_eq rfl).keeps
  | cleared g src hrun => exact .inl (s.removeHold_descends g src).keeps
  | tested g src hrun => exact .inl (s.takeHold_descends g _).keeps
  | pinned i c hc ho => exact .inl (updClaim_descendsBy hrefl s i fun _ => ⟨rfl, rfl, fun _ => rfl⟩)
  | evicted l hl hrun => exact .inr (.inr ⟨hrun, l, rfl⟩)
  | admitted | reach | window | filter | polarity | locked => exact .inl (State.Descends.of_slots rfl).keeps

/-! ### Quotas (R6) -/

theorem slotsWhere_length_le {s t : State} {p q : Claim → Bool}
    (h : ∀ i d, t.claim i = some d → p d = true → ∃ c, s.claim i = some c ∧ q c = true) :
    (t.slotsWhere p).length ≤ (s.slotsWhere q).length := by
  refine ((slotsWhere_nodup t p).subperm fun i hi => ?_).length_le
  obtain ⟨d, hd, hp⟩ := (State.mem_slotsWhere t p i).mp hi
  exact (State.mem_slotsWhere s q i).mpr (h i d hd hp)

theorem isUnpinned_iff (l : Link) (c : Claim) :
    (decide (c.owner = l) && !c.pinned) = true ↔ c.owner = l ∧ c.pinned = false := by
  simp

theorem unpinnedCount_le {s t : State} {l : Link} (h : ∀ i d, t.claim i = some d → d.owner = l → d.pinned = false →
    ∃ c, s.claim i = some c ∧ c.owner = l ∧ c.pinned = false) : t.unpinnedCount l ≤ s.unpinnedCount l :=
  slotsWhere_length_le fun i d hd hp => by
    obtain ⟨ho, hu⟩ := (isUnpinned_iff l d).mp hp
    obtain ⟨c, hc, ho, hu⟩ := h i d hd ho hu
    exact ⟨c, hc, (isUnpinned_iff l c).mpr ⟨ho, hu⟩⟩

theorem unpinnedCount_le_of_keeps {s t : State} (h : State.DescendsBy Claim.Keeps s t) (l : Link) :
    t.unpinnedCount l ≤ s.unpinnedCount l :=
  unpinnedCount_le fun i d hd ho hu => by
    obtain ⟨c, hc, hk⟩ := h i d hd
    exact ⟨c, hc, hk.owner.symm.trans ho, hk.unpinned hu⟩

/-- A claim in a slot adds at most itself to its link's count. -/
theorem unpinnedCount_putClaim_le (s : State) (i : SlotIx) (c : Claim) (l : Link) :
    (s.putClaim i c).unpinnedCount l ≤ s.unpinnedCount l + if c.owner = l then 1 else 0 := by
  split
  · have hsub : (s.putClaim i c).slotsWhere (fun c => decide (c.owner = l) && !c.pinned) ⊆
        i :: s.slotsWhere fun c => decide (c.owner = l) && !c.pinned := fun j hj => by
      obtain ⟨d, hd, hp⟩ := (State.mem_slotsWhere _ _ j).mp hj
      by_cases hji : j = i
      · exact hji ▸ List.mem_cons_self
      · rw [State.putClaim_claim, if_neg hji] at hd
        exact List.mem_cons_of_mem i ((State.mem_slotsWhere _ _ j).mpr ⟨d, hd, hp⟩)
    exact ((slotsWhere_nodup _ _).subperm hsub).length_le
  · rename_i hne
    refine unpinnedCount_le fun j d hd ho hu => ?_
    rw [State.putClaim_claim] at hd
    split at hd
    · cases hd
      exact absurd ho hne
    · exact ⟨d, hd, ho, hu⟩

theorem handOverPinned_claim (s : State) (i j : SlotIx) : (s.handOverPinned i).claim j = if j = i then
    (s.claim i).map fun c => { c with
      owner := s.setup.authority, tag := if (s.tagSlot s.setup.authority c.tag).isSome then 0#16 else c.tag }
    else s.claim j := by
  unfold State.handOverPinned
  rw [State.post_claim, State.updClaim_claim]

/-- A hand-over of pinned claims leaves every link's unpinned claims. -/
theorem unpinnedCount_handOver (is : List SlotIx) {s : State} (hp : ∀ i ∈ is, ∀ c, s.claim i = some c → c.pinned = true)
    (l : Link) : (is.foldl State.handOverPinned s).unpinnedCount l ≤ s.unpinnedCount l := by
  induction is generalizing s with
  | nil => exact le_refl _
  | cons i is ih =>
    have hpinned : ∀ j ∈ is, ∀ c, (s.handOverPinned i).claim j = some c → c.pinned = true := fun j hj c hc => by
      rw [handOverPinned_claim] at hc
      split at hc
      · obtain ⟨d, hd, rfl⟩ := Option.map_eq_some_iff.mp hc
        exact hp i List.mem_cons_self d hd
      · exact hp j (List.mem_cons_of_mem i hj) c hc
    refine (ih hpinned).trans (unpinnedCount_le fun j d hd ho hu => ?_)
    rw [handOverPinned_claim] at hd
    split at hd
    · obtain ⟨c, hc, rfl⟩ := Option.map_eq_some_iff.mp hd
      change c.pinned = false at hu
      rw [hp i List.mem_cons_self c hc] at hu
      cases hu
    · exact ⟨d, hd, ho, hu⟩

theorem unpinnedCount_evict (s : State) (m l : Link) : (s.evictLink m).unpinnedCount l ≤ s.unpinnedCount l := by
  have hend : s.Descends ((s.barLink m).endClaims .retire (s.endable m)) :=
    (s.barLink_descends m).trans (State.endClaims_descends _ _ _)
  refine le_trans ?_ (unpinnedCount_le_of_keeps hend.keeps l)
  refine unpinnedCount_handOver _ (fun i hi c hc => ?_) l
  obtain ⟨d, hd, hp⟩ := (State.mem_slotsWhere _ _ i).mp hi
  rw [hc] at hd
  cases hd
  exact (Bool.and_eq_true_iff.mp hp).2

theorem quotaInv_of_free {s : State} (h : ∀ i, s.claim i = none) : QuotaInv s := by
  refine ⟨fun _ => h, fun l => ?_⟩
  rw [State.unpinnedCount, State.slotsWhere_of_free h]
  exact Nat.zero_le _

theorem free_of_descendsBy {R : Claim → Claim → Prop} {s t : State} (h : State.DescendsBy R s t)
    (hfree : ∀ i, s.claim i = none) (i : SlotIx) : t.claim i = none := by
  cases hd : t.claim i with
  | none => rfl
  | some d =>
    obtain ⟨c, hc, -⟩ := h i d hd
    rw [hfree] at hc
    cases hc

theorem change_quotaInv {s t : State} (hs : QuotaInv s) (h : Change s t) : QuotaInv t := by
  cases hp : s.setup.part with
  | config =>
    have hrun : ∀ {p : Prop}, s.setup.part = .run → p := fun hr => by rw [hp] at hr; cases hr
    rcases h.keeps_or with hk | ⟨l, body, r, i, f, ho, -⟩ | ⟨hr, -⟩
    · exact quotaInv_of_free (free_of_descendsBy hk (hs.1 hp))
    · exact hrun ho.run
    · exact hrun hr
  | run =>
    have hsetup := (h.setup_of_run hp).1
    refine ⟨fun hc => (by rw [hsetup, hp] at hc; cases hc), fun l => ?_⟩
    have hquota := hs.2 l
    rw [hsetup]
    rcases h.keeps_or with hk | ⟨m, body, r, i, f, ho, hd, -⟩ | ⟨-, m, rfl⟩
    · exact (unpinnedCount_le_of_keeps hk l).trans hquota
    · refine (unpinnedCount_le_of_keeps hd.keeps l).trans ((unpinnedCount_putClaim_le s i _ l).trans ?_)
      have hroom := ho.quota
      split
      · rename_i hm
        rw [show m = l from hm] at hroom
        omega
      · exact hquota
    · exact (unpinnedCount_evict s m l).trans hquota

theorem step_quotaInv {s t : State} (hs : QuotaInv s) (h : step s = .next t) : QuotaInv t := by
  refine step_keeps_parts (fun _ _ _ _ _ hs _ => hs) (fun auth pins csLow => ?_) (fun _ _ => change_quotaInv)
    (fun s t hs h => ?_) hs h
  · obtain ⟨-, -, -, hquota, -⟩ := released_invariants auth pins csLow
    exact hquota
  · refine ⟨fun hc => free_of_descendsBy h.descends.keeps (hs.1 (h.setup ▸ hc)), fun l => ?_⟩
    rw [h.setup]
    exact (unpinnedCount_le_of_keeps h.descends.keeps l).trans (hs.2 l)

/-! ### Tags (R7) -/

theorem tagInv_of_keeps {s t : State} (h : State.DescendsBy Claim.Keeps s t) (hs : TagInv s) : TagInv t := by
  intro i j c d hc hd howner htag hne
  obtain ⟨c', hc', hkc⟩ := h i c hc
  obtain ⟨d', hd', hkd⟩ := h j d hd
  rw [hkc.owner, hkd.owner] at howner
  rw [hkc.tag, hkd.tag] at htag
  rw [hkc.tag] at hne
  exact hs i j c' d' hc' hd' howner htag hne

/-- A claim put into a slot with a tag that its link has nowhere else keeps the tags apart. -/
theorem tagInv_of_putClaim {s t : State} {i : SlotIx} {c : Claim} (hs : TagInv s)
    (ht : ∀ j, t.claim j = if j = i then some c else s.claim j)
    (hc : c.tag = 0#16 ∨ ∀ j d, j ≠ i → s.claim j = some d → d.owner = c.owner → d.tag ≠ c.tag) : TagInv t := by
  have hclash : ∀ {j : SlotIx} {d : Claim}, j ≠ i → t.claim j = some d → d.owner = c.owner → d.tag = c.tag →
      c.tag ≠ 0#16 → False := fun {j d} hj hd howner htag hne => by
    rw [ht, if_neg hj] at hd
    rcases hc with hzero | hc
    · exact hne hzero
    · exact hc j d hj hd howner htag
  have hself : ∀ {d : Claim}, t.claim i = some d → d = c := fun hd => by
    rw [ht, if_pos rfl] at hd
    cases hd
    rfl
  intro j k x y hx hy howner htag hne
  by_cases hj : j = i
  · by_cases hk : k = i
    · rw [hj, hk]
    · subst hj
      cases hself hx
      exact absurd hne fun hne => hclash hk hy howner.symm htag.symm hne
  · by_cases hk : k = i
    · subst hk
      cases hself hy
      exact absurd hne fun hne => hclash hj hx howner htag (htag ▸ hne)
    · rw [ht, if_neg hj] at hx
      rw [ht, if_neg hk] at hy
      exact hs j k x y hx hy howner htag hne

theorem handOverPinned_tagInv {s : State} (hs : TagInv s) (i : SlotIx) : TagInv (s.handOverPinned i) := by
  cases hc : s.claim i with
  | none =>
    have hsame : ∀ j, (s.handOverPinned i).claim j = s.claim j := fun j => by
      rw [handOverPinned_claim]
      split
      · rename_i hj
        rw [hj, hc]
        rfl
      · rfl
    intro j k x y hx hy
    rw [hsame] at hx hy
    exact hs j k x y hx hy
  | some c =>
    refine tagInv_of_putClaim (i := i) hs (fun j => by rw [handOverPinned_claim, hc]; rfl) ?_
    by_cases hslot : (s.tagSlot s.setup.authority c.tag).isSome = true
    · exact .inl (if_pos hslot)
    · by_cases hzero : c.tag = 0#16
      · exact .inl ((if_neg hslot).trans hzero)
      · refine .inr fun j d _ hd howner htag => hslot ?_
        obtain ⟨k, e, hk, -⟩ := s.tagSlot_some s.setup.authority c.tag j d hzero hd howner
          (htag.trans (if_neg hslot))
        rw [hk]
        rfl


theorem change_tagInv {s t : State} (hs : TagInv s) (h : Change s t) : TagInv t := by
  rcases h.keeps_or with hk | ⟨l, body, r, i, f, ho, hd, -⟩ | ⟨-, l, rfl⟩
  · exact tagInv_of_keeps hk hs
  · refine tagInv_of_keeps hd.keeps (tagInv_of_putClaim hs (State.putClaim_claim s i · _) ?_)
    exact ho.tag.imp id fun hfree j d _ hd howner => hfree j d hd howner
  · have hend : s.Descends ((s.barLink l).endClaims .retire (s.endable l)) :=
      (s.barLink_descends l).trans (State.endClaims_descends _ _ _)
    exact List.foldlRecOn (motive := TagInv) _ State.handOverPinned (tagInv_of_keeps hend.keeps hs)
      fun t ht i _ => handOverPinned_tagInv ht i

theorem step_tagInv {s t : State} (hs : TagInv s) (h : step s = .next t) : TagInv t := by
  refine step_keeps_parts (fun _ _ _ _ _ hs _ => hs) (fun auth pins csLow => ?_) (fun _ _ => change_tagInv)
    (fun s t hs h => tagInv_of_keeps h.descends.keeps hs) hs h
  obtain ⟨-, -, -, -, htag, -⟩ := released_invariants auth pins csLow
  exact htag

/-- Settles O55. -/
theorem stepKeepsQuotasAndTags : Obligations.StepKeepsQuotasAndTags :=
  ⟨fun _ _ => step_quotaInv, fun _ _ => step_tagInv⟩

end Sys2Proof.Machine
end

section
/-! SUPPORT and PROOFS. The applied pattern of a channel and its pins (R59, R61). -/

namespace Sys2Proof.Machine

/-! ### A pattern changes at duty 0 (R59) -/

/-- The rules of the gates and channels stay, no duty rises, and a channel whose pattern changes ends at duty 0. -/
structure KeepsPatterns (s t : State) : Prop where
  subsides : Subsides s t
  pattern : StopInv s → ∀ d : Drive, (t.drives.get d).pattern = (s.drives.get d).pattern ∨ (t.drives.get d).duty = 0

theorem KeepsPatterns.of_subsides {s t : State} (h : Subsides s t) (hd : t.drives = s.drives) : KeepsPatterns s t :=
  ⟨h, fun _ d => .inl (by rw [hd])⟩

theorem KeepsPatterns.of_frame {s t : State} (hg : t.gates = s.gates) (hd : t.drives = s.drives) : KeepsPatterns s t :=
  .of_subsides (.of_frame hg hd) hd

theorem KeepsPatterns.refl (s : State) : KeepsPatterns s s := .of_frame rfl rfl

theorem KeepsPatterns.trans {s t u : State} (h : KeepsPatterns s t) (k : KeepsPatterns t u) : KeepsPatterns s u := by
  refine ⟨h.subsides.trans k.subsides, fun hs d => ?_⟩
  rcases k.pattern (h.subsides.stop hs) d with hk | hk
  · rcases h.pattern hs d with hh | hh
    · exact .inl (hk.trans hh)
    · exact .inr (Nat.le_zero.mp (hh ▸ k.subsides.duty d))
  · exact .inr hk

theorem KeepsPatterns.after_frame {s t u : State} (h : KeepsPatterns t u) (hg : t.gates = s.gates)
    (hd : t.drives = s.drives) : KeepsPatterns s u := (KeepsPatterns.of_frame hg hd).trans h

theorem KeepsPatterns.fold {α : Type} {s t : State} (h : KeepsPatterns s t) {work : State → α → State}
    (hw : ∀ now x, KeepsPatterns now (work now x)) (xs : List α) : KeepsPatterns s (xs.foldl work t) :=
  foldl_holds (fun now x hn => hn.trans (hw now x)) xs h

theorem KeepsPatterns.ite {p : Prop} [Decidable p] {s t u : State} (ht : KeepsPatterns s t) (hu : KeepsPatterns s u) :
    KeepsPatterns s (if p then t else u) := by
  split
  · exact ht
  · exact hu

/-- A channel under a CLOSED gate is at duty 0 (R45, R65). -/
theorem duty_of_closed {s : State} (h : StopInv s) {d : Drive} (hc : s.gateIsOpen d.parent = false) :
    (s.drives.get d).duty = 0 := by
  obtain ⟨hhalted, -, hzero⟩ := h.2 d
  have hp := hhalted.mpr hc
  exact hzero (by rw [hp]; decide) (by rw [hp]; decide)

/-- A gate that evaluates its condition, on a hold list that may have changed, changes patterns at duty 0 alone. -/
theorem evalGate_holds_keepsPatterns (s : State) (g : Gate) (holds : List TripHold) :
    KeepsPatterns s ((s.setGate g { s.gates.get g with holds := holds }).evalGate g) := by
  refine ⟨s.evalGate_holds_subsides g holds, fun hs d => ?_⟩
  have hopen : ∀ k, (s.setGate g { s.gates.get g with holds := holds }).gateIsOpen k = s.gateIsOpen k := fun k => by
    unfold State.gateIsOpen
    rw [State.setGate_gates, PerGate.get_set]
    split
    · rename_i e
      rw [e]
    · rfl
  have hd : (s.setGate g { s.gates.get g with holds := holds }).drives = s.drives := rfl
  generalize s.setGate g { s.gates.get g with holds := holds } = u at *
  by_cases hp : d.parent = g
  · unfold State.evalGate
    split
    · split
      · exact .inl (by simp [hd])
      · rw [State.closeGate_drive, if_pos hp]
        exact .inr rfl
    · rename_i hclosed
      split
      · rw [State.openGate_drive, if_pos hp, hd]
        exact .inl rfl
      · rw [State.rePattern_drive, if_pos hp, hd]
        refine .inr (duty_of_closed hs ?_)
        rw [hp, ← hopen g]
        exact Bool.eq_false_iff.mpr hclosed
  · rw [State.evalGate_otherDrive _ _ _ hp, hd]
    exact .inl rfl

theorem evalGate_keepsPatterns (s : State) (g : Gate) : KeepsPatterns s (s.evalGate g) := by
  have h := evalGate_holds_keepsPatterns s g (s.gates.get g).holds
  rwa [State.setGate, PerGate.set_get_self] at h

theorem endInGate_keepsPatterns (s : State) (g : Gate) (cause : EndCause) (ending : List SlotIx) :
    KeepsPatterns s (s.endInGate g cause ending) := by
  refine .ite (KeepsPatterns.trans ?_ (evalGate_keepsPatterns _ g)) (.refl s)
  exact (KeepsPatterns.refl s).fold (fun now i => .of_frame (by simp) (by simp)) _ |>.trans (.of_frame rfl rfl)

theorem endClaims_keepsPatterns (s : State) (cause : EndCause) (ending : List SlotIx) :
    KeepsPatterns s (s.endClaims cause ending) := by
  have hdrive := fun (now : State) d => KeepsPatterns.of_frame (s := now) (t := now.endInDrive d cause ending)
    (by simp) (by simp)
  have hgate := fun (now : State) g => endInGate_keepsPatterns now g cause ending
  have houtside := fun (now : State) i => KeepsPatterns.of_frame (s := now) (t := now.endOutsideLists cause i)
    (by simp) (by simp)
  exact ((((KeepsPatterns.refl s).fold hdrive _).fold hgate _).fold hdrive _).fold houtside _

theorem expire_keepsPatterns (s : State) (i : SlotIx) : KeepsPatterns s (s.expire i) := by
  unfold State.expire
  split
  · exact .refl s
  · exact .ite (endClaims_keepsPatterns s _ _) (.ite
      ((KeepsPatterns.of_subsides (s.nextTick_subsides true) rfl).trans (endClaims_keepsPatterns _ _ _)) (.refl s))

theorem evictLink_keepsPatterns (s : State) (l : Link) : KeepsPatterns s (s.evictLink l) := by
  have hbar : KeepsPatterns s (s.barLink l) := .of_frame (by simp) (by simp)
  have hover := fun (now : State) i => KeepsPatterns.of_frame (s := now) (t := now.handOverPinned i) (by simp) (by simp)
  have hended := (hbar.trans (endClaims_keepsPatterns _ .retire (s.endable l))).fold hover
    (State.pinnedOf ((s.barLink l).endClaims .retire (s.endable l)) l)
  exact (hended.trans (.of_subsides (State.passHolds_subsides _ l) rfl)).trans (.of_frame rfl rfl)

theorem handOver_keepsPatterns (s : State) (r : Resource) (i : SlotIx) : KeepsPatterns s (s.handOver r i) := by
  cases r with
  | drive d => exact .of_frame (by simp [State.handOver]) (by simp [State.handOver])
  | gate g => exact (evalGate_keepsPatterns _ g).after_frame rfl rfl
  | analog _ => exact .refl s
  | edge _ => exact .refl s

theorem handAmended_keepsPatterns (s : State) (c : Claim) (i : SlotIx) : KeepsPatterns s (s.handAmended c i) := by
  unfold State.handAmended
  split
  · exact .ite (.of_frame (by simp) (by simp)) (.refl s)
  · exact evalGate_keepsPatterns s _
  · exact .refl s
  · exact .refl s

theorem Change.keepsPatterns {s t : State} (h : Change s t) : KeepsPatterns s t := by
  cases h with
  | nothing => exact .refl s
  | tookNotices l =>
    have hentry := fun (now : State) e => KeepsPatterns.of_frame (now.takeEntry_gates e) (now.takeEntry_drives e)
    exact ((KeepsPatterns.refl _).fold hentry _).after_frame rfl rfl
  | opened l body r i f _ => exact (handOver_keepsPatterns _ r i).after_frame rfl rfl
  | amended body l i c f _ _ => exact (handAmended_keepsPatterns _ c i).after_frame rfl rfl
  | renewedAll l =>
    have hrenew := fun (now : State) i => KeepsPatterns.of_frame (now.renewClaim_gates i) (now.renewClaim_drives i)
    exact (KeepsPatterns.refl s).fold hrenew _
  | retired l body i c _ => exact endClaims_keepsPatterns s _ _
  | droppedAll l _ => exact (endClaims_keepsPatterns s _ _).trans (.of_frame rfl rfl)
  | cleared g src _ => exact evalGate_holds_keepsPatterns s g _
  | tested g src _ => exact evalGate_holds_keepsPatterns s g _
  | evicted l _ _ => exact evictLink_keepsPatterns s l
  | read | renewed | pinned | admitted | reach | window | filter | polarity | locked => exact .of_frame rfl rfl

theorem takeTrip_keepsPatterns (s : State) (g : Gate) : KeepsPatterns s (s.takeTrip g) := by
  unfold State.takeTrip
  split
  · exact .refl s
  · rename_i t ts _
    have hqueue : KeepsPatterns s { s with trips := s.trips.set g ts } := .of_frame rfl rfl
    have hhold := hqueue.trans (evalGate_holds_keepsPatterns _ g (addHold (s.holdOf t) (s.gates.get g).holds))
    exact hhold.trans (.of_frame (State.postTrip_gates _ _) (State.postTrip_drives _ _))

/-- A worked channel takes its wanted pattern in SWITCHING alone, where its duty is 0 (R65, R71). -/
theorem workedChannel_pattern (s : State) (d : Drive) : (s.workedChannel d).pattern = (s.drives.get d).pattern ∨
    (s.drives.get d).phase = .switching ∧ (s.workedChannel d).duty = (s.drives.get d).duty := by
  unfold State.workedChannel
  dsimp only
  cases (s.drives.get d).phase with
  | switching => exact .inr ⟨rfl, rfl⟩
  | halted | dwell => exact .inl rfl
  | idle | running | windingDown =>
    dsimp only
    repeat' split
    all_goals exact .inl rfl

theorem gatePeriodEnd_pattern {s : State} {g : Gate} (hs : StopInv s) (d : Drive) :
    ((s.gatePeriodEnd g).drives.get d).pattern = (s.drives.get d).pattern ∨
      ((s.gatePeriodEnd g).drives.get d).duty = 0 := by
  by_cases hd : d.parent = g
  · subst hd
    obtain ⟨u, n, hu, hworked⟩ := s.gatePeriodEnd_drive d
    rw [hworked]
    rcases workedChannel_pattern u d with h | ⟨hphase, hduty⟩
    · exact .inl (h.trans (by rw [hu]))
    · rw [hu] at hphase hduty
      obtain ⟨-, -, hzero⟩ := hs.2 d
      exact .inr (hduty.trans (hzero (by rw [hphase]; decide) (by rw [hphase]; decide)))
  · exact .inl (by rw [State.gatePeriodEnd_otherDrive _ _ _ hd])

theorem Moves.pattern {s t : State} (hs : StopInv s) (h : Moves s t) (d : Drive) :
    (t.drives.get d).pattern = (s.drives.get d).pattern ∨ (t.drives.get d).duty = 0 := by
  have hsame : ∀ {u : State}, u.drives = s.drives →
      (u.drives.get d).pattern = (s.drives.get d).pattern ∨ (u.drives.get d).duty = 0 := fun hu => .inl (by rw [hu])
  cases h with
  | same => exact .inl rfl
  | held => exact .inr (congrArg DriveChannel.duty (released_drive .low (Vector.replicate 8 .low) ⟨false, false, false⟩ d))
  | released auth pins csLow => exact .inr (congrArg DriveChannel.duty (released_drive auth pins csLow d))
  | window l w o h => exact .inl rfl
  | response t h l r => exact h.keepsPatterns.pattern hs d
  | expire i => exact (expire_keepsPatterns s i).pattern hs d
  | periodEnd g ho n =>
    refine (gatePeriodEnd_pattern ((s.passClocks_subsides n).stop hs) d).imp (fun h => h.trans ?_) id
    rw [State.passClocks_drives]
  | trip g => exact (takeTrip_keepsPatterns s g).pattern hs d
  | advance => exact hsame (by simp)
  | complete | pinChange | accept | clocks => exact hsame (by simp)

/-! ### The pins (R59, R61) -/

/-- The level of a pin, by its polarity (R61). -/
def shownLevel (p : Polarity) (active : Bool) : Level :=
  match p, active with
  | .activeHigh, true => .high
  | .activeHigh, false => .low
  | .activeLow, true => .low
  | .activeLow, false => .high

theorem polarity_drive_eq (p : Polarity) (active : Bool) : Polarity.drive p active = shownLevel p active := by
  cases p <;> cases active <;> rfl

theorem drivePins_eq (s : State) (d : Drive) {ha hb : Polarity} (hpol : s.setup.polarity.get d = ⟨ha, hb⟩) :
    s.drivePins d =
      let pulse := decide ((s.gates.get d.parent).counter < (s.drives.get d).compare)
      match (s.drives.get d).pattern with
      | .forward => (Polarity.drive ha pulse, Polarity.drive hb false)
      | .reverse => (Polarity.drive ha false, Polarity.drive hb pulse)
      | .brake => (Polarity.drive ha true, Polarity.drive hb true)
      | .coast => (Polarity.drive ha false, Polarity.drive hb false) := by
  simp only [State.drivePins, hpol]
  cases (s.drives.get d).pattern <;> rfl

/-- In CONFIG every channel shows its resting pattern and no pulse: nothing votes and nothing holds (R45, R49, R166). -/
theorem channel_of_config {s : State} (hconfig : ConfigInv s) (hgate : GateInv s) (hstop : StopInv s)
    (hp : s.setup.part = .config) (d : Drive) :
    (s.drives.get d).pattern = .coast ∧ (s.drives.get d).compare = 0 := by
  have hb := blank_of_configInv hconfig hp
  obtain ⟨hclosed, hholds⟩ := hb.gates d.parent
  obtain ⟨hhalted, hrest, -⟩ := hstop.2 d
  obtain ⟨hcompare, hpattern⟩ := hrest (hhalted.mpr hclosed)
  have hcoast : s.closeFor d.parent = .coast := by
    simp [State.closeFor, State.gateBodies, hb.gateLists, hholds]
  rw [hpattern, hgate.close, hcoast]
  exact ⟨rfl, hcompare⟩

/-- Settles O51. -/
theorem patternChangesOnlyAtZeroDuty : Obligations.PatternChangesOnlyAtZeroDuty := by
  refine ⟨fun c s t d hs h hne => ((exec_next_moves h).pattern hs d).resolve_left hne, ?_⟩
  intro shown
  have hshown : ∀ p active, Polarity.drive p active = shown p active := polarity_drive_eq
  refine ⟨fun s d ha hb hpol => ?_, fun l s d ha hb htake hl hp hconfig hgate hstop => ?_⟩
  · intro pulse
    have hpins := drivePins_eq s d hpol
    simp only [hshown] at hpins
    refine ⟨fun h => ?_, fun h => ?_, fun h => ?_, fun h => ?_⟩ <;> rw [hpins, h]
  · have hread := (polarityBody_iff _ d ⟨ha, hb⟩).mpr rfl
    have hexec := exec_setDrive htake (body := [(Resource.drive d).byte, polarityByte ha, polarityByte hb]) (by simp)
    rw [State.setDriveRequest, State.bySetup_of_config hl hp, hread] at hexec
    refine ⟨_, hexec, rfl, rfl, ?_⟩
    obtain ⟨hpattern, -⟩ := channel_of_config hconfig hgate hstop hp d
    have hpins := drivePins_eq (s.setSetup { s.setup with polarity := s.setup.polarity.set d ⟨ha, hb⟩ }) d
      (PerDrive.get_set_self _ d _)
    simp only [hshown, State.setSetup_drives, hpattern] at hpins
    exact hpins

end Sys2Proof.Machine
end

section
/-! SUPPORT. A walk over the model's operations, once for all properties that the primitive changes of claims, notices,
gate units and drive channels keep. -/

namespace Sys2Proof

/-- A claim as the part's own work may leave it: its owner, resource and hold, its ranges kept, and not newly SPENT. -/
structure Claim.Worked (c d : Claim) : Prop where
  owner : d.owner = c.owner
  resource : d.resource = c.resource
  range : c.inRange → d.inRange
  spent : d.state = .spent → c.state = .spent

theorem Claim.worked_of_state (c : Claim) {st : ClaimState} (h : st ≠ .spent) : c.Worked { c with state := st } :=
  ⟨rfl, rfl, id, fun hs => absurd hs h⟩

/-- A period that a gate may work with (R40). -/
def periodRanged (p : Nat) : Prop := 160 ≤ p ∧ p ≤ 65535

def GateUnit.ranged (u : GateUnit) : Prop := ∀ p, u.applied = some p ∨ u.staged = some p → periodRanged p

def DriveChannel.ranged (ch : DriveChannel) : Prop := ch.duty ≤ 1024 ∧ ch.compare ≤ 65535

end Sys2Proof

namespace Sys2Proof.Machine

/-- The ranges that the part's own work reads: those of the claims, the periods and the duties. -/
structure WorkRanged (s : State) : Prop where
  claims : ∀ i c, s.claim i = some c → c.inRange
  periods : ∀ g, (s.gates.get g).ranged
  duties : ∀ d, (s.drives.get d).ranged

theorem gateBody_ranged {c : Claim} (h : c.inRange) {b : GateBody} (hb : c.gateBody? = some b) :
    periodRanged b.period := by
  obtain ⟨-, hbody, -⟩ := h
  unfold Claim.gateBody? at hb
  split at hb
  · rename_i b' hp
    cases hb
    rw [hp] at hbody
    cases hr : c.resource <;> rw [hr] at hbody
    case gate g => exact hbody
    all_goals exact hbody.elim
  all_goals cases hb

theorem driveBody_target {c : Claim} (h : c.inRange) {b : DriveBody} {left : Nat} (hp : c.payload = .drive b left) :
    b.target ≤ 1024 := by
  obtain ⟨-, hbody, -⟩ := h
  rw [hp] at hbody
  cases hr : c.resource <;> rw [hr] at hbody
  case drive d => exact hbody.1
  all_goals exact hbody.elim

theorem run_ranged {u : GateUnit} (h : u.ranged) (n : Nat) : (GateUnit.run n u).ranged := by
  unfold GateUnit.run
  split
  · exact h
  · exact h

theorem wrap_ranged {u : GateUnit} (h : u.ranged) : (GateUnit.wrap u).ranged := by
  refine run_ranged (fun p hp => ?_) _
  rcases hp with hp | hp
  · rcases Option.or_eq_some_iff.mp hp with hs | ⟨-, ha⟩
    · exact h p (.inr hs)
    · exact h p (.inl ha)
  · cases hp

theorem debounce_of_asense {r : Resource} {b : AnalogBody} (h : (Body.asense b).inRange r) : b.debounce ≤ 8 := by
  cases r
  case analog c => exact h.2.2.2.2.2.2.2.2
  all_goals exact h.elim

theorem debounce_of_esense {r : Resource} {b : EdgeBody} (h : (Body.esense b).inRange r) : b.debounce ≤ 8 := by
  cases r
  case edge e => exact h.2.2.2
  all_goals exact h.elim

theorem miss_inRange {r : AnalogRun} (h : r.inRange) : r.miss.inRange := by
  obtain ⟨hraw, hsm, ha, hb, -⟩ := h
  exact ⟨hraw, hsm, ha, hb, Nat.min_le_left _ _⟩

/-- A smoothed value lies between the old value and the raw one (R111). -/
theorem smooth_le {n : Nat} (k : Nat) {old : Option Nat} (hold : ∀ o, old = some o → o ≤ n) {raw : Nat} (hraw : raw ≤ n) :
    smooth k old raw ≤ n := by
  unfold smooth
  split
  · exact hraw
  · rename_i o
    have ho := hold o rfl
    have hpow : (1 : Int) ≤ 2 ^ k := one_le_pow₀ (by norm_num)
    have hle : ((raw : Int) - o) / 2 ^ k ≤ max 0 ((raw : Int) - o) := by
      rcases le_total 0 ((raw : Int) - o) with h | h
      · exact (Int.ediv_le_self _ h).trans (le_max_right _ _)
      · exact (Int.ediv_nonpos_of_nonpos_of_neg h (by omega)).trans (le_max_left _ _)
    omega

theorem analogDeliver_inRange {b : AnalogBody} (hb : b.debounce ≤ 8) {raw : Nat} (hraw : raw ≤ 4095) {r : AnalogRun}
    (h : r.inRange) : (analogDeliver b raw r).run.inRange := by
  obtain ⟨hold, hsm, ha, hbe, hmi⟩ := h
  have hsmooth := smooth_le b.smoothing hsm hraw
  have hrun : ∀ band above below, above ≤ 7 → below ≤ 7 →
      AnalogRun.inRange { r with
        raw := some raw, smoothed := some (smooth b.smoothing r.smoothed raw), fresh := true, band := band,
        above := above, below := below } := fun band above below ha hb =>
    ⟨fun v hv => Option.some.inj hv ▸ hraw, fun v hv => Option.some.inj hv ▸ hsmooth, ha, hb, hmi⟩
  unfold analogDeliver
  dsimp only
  repeat' split
  all_goals exact hrun _ _ _ (by omega) (by omega)

theorem emptyInterval_inRange {b : EdgeBody} {r : EdgeRun} (h : r.inRange) : (EdgeRun.emptyInterval b r).inRange := by
  obtain ⟨hper, hrun, hwin, -, hcand⟩ := h
  exact ⟨hper, hrun, hwin, Nat.min_le_left _ _, hcand⟩

theorem edgeHanded_inRange (b : EdgeBody) (stamp : Count32) {r : EdgeRun} (h : r.inRange) :
    (edgeHanded b stamp r).run.inRange := by
  obtain ⟨hper, hrun, hwin, hst, hcand⟩ := h
  unfold edgeHanded
  split
  · unfold periodEdge
    cases r.lastStamp with
    | none => exact ⟨hper, hrun, hwin, Nat.zero_le _, hcand⟩
    | some l =>
      refine ⟨fun p hp => ?_, hrun, hwin, Nat.zero_le _, hcand⟩
      cases hp
      unfold periodOf
      omega
  · exact ⟨hper, Nat.min_le_left _ _, hwin, hst, hcand⟩
  · exact ⟨hper, hrun, hwin, hst, hcand⟩

theorem edgeMoment_inRange {b : EdgeBody} (v : Level) (hb : b.debounce ≤ 8) {r : EdgeRun} (h : r.inRange) :
    (edgeMoment b v r).run.inRange := by
  have hempty : ∀ {r' : EdgeRun}, r'.inRange → (EdgeRun.emptyInterval b r').inRange := emptyInterval_inRange
  obtain ⟨hper, hrun, hwin, hst, hcand⟩ := h
  have hsame : r.inRange := ⟨hper, hrun, hwin, hst, hcand⟩
  have hwindow : EdgeRun.inRange { r.measured with window := some r.running, running := 0 } :=
    ⟨hper, Nat.zero_le _, fun w hw => Option.some.inj hw ▸ hrun, hst, hcand⟩
  unfold edgeMoment
  split
  · unfold periodMoment
    dsimp only
    split
    · exact hsame
    · split
      · exact hsame
      · split <;> exact hempty hsame
  · unfold countMoment
    dsimp only
    split
    · split
      · exact hwindow
      · split <;> exact hempty hwindow
    · exact ⟨hper, Nat.zero_le _, fun w hw => Option.some.inj hw ▸ hrun, Nat.zero_le _, hcand⟩
  · unfold levelMoment
    split
    · exact ⟨hper, hrun, hwin, hst, Nat.zero_le _⟩
    · split
      · exact ⟨hper, hrun, hwin, hst, Nat.zero_le _⟩
      · exact ⟨hper, hrun, hwin, hst, by dsimp only; omega⟩

/-- A property that the primitive changes of the part's work keep. -/


structure KeptByWork (P : State → Prop) : Prop where
  frame : ∀ s t : State, P s → t.slots = s.slots → t.notices = s.notices → t.ports = s.ports → t.gates = s.gates →
    t.drives = s.drives → P t
  upd : ∀ (s : State) i f, (∀ c, s.claim i = some c → c.Worked (f c)) → P s → P (s.updClaim i f)
  post : ∀ (s : State) k i, P s → P (s.post k i)
  finish : ∀ (s : State) i, P s → P (s.finish i)
  gate : ∀ (s : State) g (u : GateUnit), (WorkRanged s → u.ranged) → P s → P (s.setGate g u)
  drive : ∀ (s : State) d (ch : DriveChannel), (WorkRanged s → ch.ranged) → P s → P (s.setDrive d ch)

namespace KeptByWork

variable {P : State → Prop} (hP : KeptByWork P) {s : State} (hs : P s)
include hP hs

theorem setState (i : SlotIx) {st : ClaimState} (h : st ≠ .spent) :
    P (s.updClaim i fun c => { c with state := st }) :=
  hP.upd s i _ (fun c _ => c.worked_of_state h) hs

theorem fold {α : Type} {work : State → α → State} (hwork : ∀ (u : State) a, P u → P (work u a)) (as : List α) :
    P (as.foldl work s) :=
  List.foldlRecOn (motive := P) as work hs fun u hu a _ => hwork u a hu

theorem postEach (k : NoticeKind) (is : List SlotIx) : P (s.postEach k is) :=
  hP.fold hs (fun u i hu => hP.post u k i hu) is

theorem postAll (ks : List NoticeKind) (i : SlotIx) : P (s.postAll ks i) :=
  hP.fold hs (fun u k hu => hP.post u k i hu) ks

theorem beginEnd (i : SlotIx) (cause : EndCause) : P (s.beginEnd i cause) :=
  hP.upd s i _ (fun _ _ => ⟨rfl, rfl, id, id⟩) hs

theorem endNow (cause : EndCause) (i : SlotIx) : P (s.endNow cause i) :=
  hP.finish _ i (hP.beginEnd hs i cause)

theorem completeClaim (i : SlotIx) : P (s.completeClaim i) :=
  hP.setState (hP.post s .complete i hs) i (by decide)

/-! ### Lists -/

theorem settle (d : Drive) : P (s.settle d) := by
  unfold State.settle
  split
  · exact hs
  · refine hP.upd _ _ _ (fun c _ => ?_) (hP.fold hs (fun u i hu => hP.setState hu i (by decide)) _)
    split
    · exact ⟨rfl, rfl, id, id⟩
    · exact c.worked_of_state (by split <;> decide)

theorem announce (d : Drive) (old : Option SlotIx) : P (s.announce d old) := by
  unfold State.announce
  split
  · exact hs
  · have htaken : P (match s.head d with | none => s | some h => s.post .taken h) := by
      split
      · exact hs
      · exact hP.post s _ _ hs
    dsimp only
    split
    · exact htaken
    · split
      · exact hP.post _ _ _ htaken
      · exact htaken

theorem changeList (d : Drive) (old : Option SlotIx) (l : List SlotIx) : P (s.changeList d old l) := by
  have hlist : P { s with driveLists := s.driveLists.set d l } := hP.frame s _ hs rfl rfl rfl rfl rfl
  exact hP.announce (hP.settle hlist d) d old

theorem join (d : Drive) (i : SlotIx) : P (s.join d i) := by
  unfold State.join
  repeat' split
  · exact hP.changeList hs _ _ _
  · exact hP.changeList (hP.finish _ _ hs) _ _ _
  · exact hP.changeList (hP.completeClaim hs _) _ _ _
  · exact hP.changeList hs _ _ _

/-! ### Gates -/

theorem haltChannel (d : Drive) (p : StopPattern) : P (s.haltChannel d p) := by
  have hset := hP.drive s d ⟨.halted, 0, p.pins, 0⟩ (fun _ => ⟨Nat.zero_le _, Nat.zero_le _⟩) hs
  rcases haltChannel_cases s d p with h | ⟨_, _, -, h | h | h⟩ <;> rw [h]
  · exact hset
  · exact hP.changeList (hP.finish _ _ hset) _ _ _
  · exact hP.changeList (hP.completeClaim hset _) _ _ _
  · exact hP.setState (hP.post _ _ _ hset) _ (by decide)

theorem releaseChannel (d : Drive) : P (s.releaseChannel d) := by
  have hset : P (s.leftHalted d) := hP.drive s d _ (fun hr => hr.duties d) hs
  rcases releaseChannel_cases s d with h | ⟨_, _, -, h⟩ <;> rw [h]
  · exact hset
  · exact hP.setState (hP.post _ _ _ hset) _ (by decide)

omit hP hs in
theorem supplier_ranged {s : State} (hr : WorkRanged s) {g : Gate} {p : Nat}
    (h : (s.supplier g).map Prod.snd = some p) : periodRanged p := by
  obtain ⟨⟨i, q⟩, hsup, rfl⟩ := Option.map_eq_some_iff.mp h
  obtain ⟨j, -, hj⟩ := List.exists_of_findSome?_eq_some hsup
  obtain ⟨q', hq', heq⟩ := Option.map_eq_some_iff.mp hj
  cases heq
  unfold State.offeredPeriod at hq'
  split at hq'
  · cases hq'
  · rename_i b hb
    split at hq'
    · cases hq'
      obtain ⟨c, hc, hcb⟩ := Option.bind_eq_some_iff.mp hb
      exact gateBody_ranged (hr.claims i c hc) hcb
    · cases hq'

/-- A gate unit whose periods stay, whatever else of it changes. -/
theorem gateOf (g : Gate) (u : GateUnit) (ha : u.applied = (s.gates.get g).applied)
    (hst : u.staged = (s.gates.get g).staged) : P (s.setGate g u) :=
  hP.gate s g u (fun hr p hp => hr.periods g p (by rwa [← ha, ← hst])) hs

theorem closeGate (g : Gate) : P (s.closeGate g) := by
  rw [closeGate_eq]
  refine hP.fold (hP.postEach ?_ _ _) (fun u d hu => hP.haltChannel hu d _) _
  exact hP.gate s g _ (fun hr p hp => hp.elim (fun h => hr.periods g p (.inl h)) nofun) hs

theorem openGate (g : Gate) : P (s.openGate g) := by
  rw [openGate_eq]
  refine hP.fold (hP.postEach ?_ _ _) (fun u d hu => hP.releaseChannel hu d) _
  exact hP.gate s g _ (fun hr p hp => hp.elim (fun h => supplier_ranged hr h) nofun) hs

theorem evalGate (g : Gate) : P (s.evalGate g) := by
  unfold State.evalGate
  split
  · split
    · refine hP.gate s g _ (fun hr p hp => hp.elim (fun h => hr.periods g p (.inl h)) fun h => ?_) hs
      dsimp only at h
      split at h
      · cases h
      · exact supplier_ranged hr h
    · exact hP.closeGate hs g
  · split
    · exact hP.openGate hs g
    · have hclose := hP.gateOf (u := { s.gates.get g with close := s.closeFor g }) hs g rfl rfl
      refine hP.fold hclose (fun u d hu => ?_) _
      exact hP.drive u d _ (fun hr => hr.duties d) hu

theorem takeHold (g : Gate) (h : TripHold) : P (s.takeHold g h) :=
  hP.evalGate (hP.gateOf (u := { s.gates.get g with holds := addHold h (s.gates.get g).holds }) hs g rfl rfl) g

theorem removeHold (g : Gate) (src : Source) : P (s.removeHold g src) :=
  hP.evalGate (hP.gateOf (u := { s.gates.get g with
    holds := (s.gates.get g).holds.filter fun h => decide (h.source ≠ src) }) hs g rfl rfl) g

theorem postTrip (h : Handle) : P (s.postTrip h) := by
  unfold State.postTrip
  split
  · exact hP.post s _ _ hs
  · exact hs

theorem takeTrip (g : Gate) : P (s.takeTrip g) := by
  unfold State.takeTrip
  split
  · exact hs
  · rename_i t ts _
    have htrips : P { s with trips := s.trips.set g ts } := hP.frame s _ hs rfl rfl rfl rfl rfl
    exact hP.postTrip (hP.takeHold htrips g _) _

/-! ### Ends -/

theorem endInDrive (d : Drive) (cause : EndCause) (ending : List SlotIx) : P (s.endInDrive d cause ending) := by
  have hfold : ∀ is : List SlotIx, P (is.foldl (fun s i => s.endNow cause i) s) := fun is =>
    hP.fold hs (fun u i hu => hP.endNow hu cause i) is
  unfold State.endInDrive
  split
  · exact hs
  · split
    · exact hs
    · dsimp only
      split
      · split
        · exact hP.changeList (hP.endNow (hfold _) _ _) _ _ _
        · exact hP.changeList (hP.setState (hP.beginEnd (hfold _) _ _) _ (by decide)) _ _ _
      · exact hP.changeList (hfold _) _ _ _

theorem endInGate (g : Gate) (cause : EndCause) (ending : List SlotIx) : P (s.endInGate g cause ending) := by
  unfold State.endInGate
  dsimp only
  split
  · have hends := hP.fold hs (fun (u : State) i hu => hP.endNow hu cause i)
      ((s.gateList g).filter fun i => decide (i ∈ ending))
    generalize List.foldl _ s _ = u at hends ⊢
    have hlist : P { u with gateLists := u.gateLists.set g ((s.gateList g).filter fun i => decide (i ∉ ending)) } :=
      hP.frame u _ hends rfl rfl rfl rfl rfl
    exact hP.evalGate hlist g
  · exact hs

theorem dropDemand (c : AnalogCh) (i : SlotIx) : P (s.dropDemand c i) :=
  hP.frame s _ hs (by simp) (by simp) (by simp) (by simp) (by simp)

theorem endOutsideLists (cause : EndCause) (i : SlotIx) : P (s.endOutsideLists cause i) := by
  unfold State.endOutsideLists
  split
  · exact hs
  · split
    · split
      · exact hP.endNow hs _ _
      · exact hs
    · exact hs
    · split
      · exact hP.dropDemand (hP.endNow hs _ _) _ _
      · exact hs
    · split
      · exact hP.endNow hs _ _
      · exact hs

theorem endClaims (cause : EndCause) (ending : List SlotIx) : P (s.endClaims cause ending) := by
  unfold State.endClaims
  refine hP.fold ?_ (fun u i hu => hP.endOutsideLists hu cause i) _
  refine hP.fold ?_ (fun u d hu => hP.endInDrive hu d cause ending) _
  refine hP.fold ?_ (fun u g hu => hP.endInGate hu g cause ending) _
  exact hP.fold hs (fun u d hu => hP.endInDrive hu d cause ending) _

/-! ### Period ends -/

omit hP hs in
theorem countBurst_worked (c : Claim) : c.Worked (Claim.countBurst c) := by
  unfold Claim.countBurst
  split
  · rename_i b left hp
    refine ⟨rfl, rfl, fun ⟨hhold, hbody, hrun⟩ => ⟨hhold, ?_, ?_⟩, id⟩
    · rwa [hp] at hbody
    · rw [hp] at hrun
      exact (Nat.sub_le _ _).trans hrun
  all_goals exact ⟨rfl, rfl, id, id⟩

theorem reportAtZero (d : Drive) (v : HeadView) : P (s.reportAtZero d v) := by
  unfold State.reportAtZero
  split
  · exact hP.changeList (hP.finish _ _ hs) _ _ _
  · split
    · exact hP.changeList (hP.completeClaim hs _) _ _ _
    · exact hs

omit hP hs in
theorem moveToward_le {value ramp duty n : Nat} (hv : value ≤ n) (hd : duty ≤ n) : moveToward value ramp duty ≤ n := by
  unfold moveToward
  split
  · exact hv
  · split <;> omega

omit hP hs in
theorem effectiveTarget_le {s : State} (hr : WorkRanged s) (d : Drive) : effectiveTarget (s.headView d) ≤ 1024 := by
  unfold State.headView
  split
  · exact Nat.zero_le _
  split
  · exact Nat.zero_le _
  rename_i c hc
  split
  · rename_i b left hp
    unfold effectiveTarget
    dsimp only
    split
    · exact Nat.zero_le _
    · exact driveBody_target (hr.claims _ c hc) hp
  · exact Nat.zero_le _

theorem workRunning (d : Drive) : P (s.workRunning d (s.headView d)) := by
  have hduty : WorkRanged s → moveToward (effectiveTarget (s.headView d)) (rampOf (s.headView d)) (s.drives.get d).duty ≤ 1024 :=
    fun hr => moveToward_le (effectiveTarget_le hr d) (hr.duties d).1
  revert hduty
  generalize s.headView d = v?
  intro hduty
  have hset : ∀ ph, P (s.setDrive d { s.drives.get d with
      phase := ph, duty := moveToward (effectiveTarget v?) (rampOf v?) (s.drives.get d).duty }) := fun ph =>
    hP.drive s d _ (fun hr => ⟨hduty hr, (hr.duties d).2⟩) hs
  unfold State.workRunning
  split
  · exact hset _
  · dsimp only
    have hcount : ∀ i, P (State.updClaim _ i Claim.countBurst) := fun i =>
      hP.upd _ i _ (fun c _ => countBurst_worked c) (hset .running)
    split
    · split
      · exact hP.changeList (hP.completeClaim (hcount _) _) _ _ _
      · exact hcount _
    · split
      · exact hP.reportAtZero (hset _) _ _
      · exact hset _

theorem workWindingDown (d : Drive) (v? : Option HeadView) : P (s.workWindingDown d v?) := by
  have hset : ∀ ph, P (s.setDrive d { s.drives.get d with
      phase := ph, duty := moveToward 0 (rampOf v?) (s.drives.get d).duty }) := fun ph =>
    hP.drive s d _ (fun hr => ⟨moveToward_le (Nat.zero_le _) (hr.duties d).1, (hr.duties d).2⟩) hs
  unfold State.workWindingDown
  dsimp only
  split
  · exact hset _
  · split
    · exact hP.reportAtZero (hset _) _ _
    · exact hset _

theorem workPhase (d : Drive) : P (s.workPhase d) := by
  have hset : ∀ ph pat, P (s.setDrive d { s.drives.get d with phase := ph, pattern := pat }) := fun ph pat =>
    hP.drive s d _ (fun hr => hr.duties d) hs
  unfold State.workPhase
  dsimp only
  split
  · exact hs
  · split
    · exact hset _ _
    · split
      · exact hP.workRunning hs d
      · exact hs
  · split
    · exact hP.workWindingDown hs d _
    · exact hP.workRunning hs d
  · split
    · exact hP.workRunning hs d
    · exact hP.workWindingDown hs d _
  · exact hset _ _
  · exact hset _ _

theorem channelPeriodEnd (d : Drive) : P (s.channelPeriodEnd d) := by
  refine hP.drive _ d _ (fun hr => ⟨(hr.duties d).1, ?_⟩) (hP.workPhase hs d)
  have hduty := (hr.duties d).1
  have hperiod : (((s.workPhase d).gates.get d.parent).applied.getD 0) ≤ 65535 := by
    cases ha : ((s.workPhase d).gates.get d.parent).applied with
    | none => exact Nat.zero_le _
    | some p => exact (hr.periods d.parent p (.inl ha)).2
  calc ((s.workPhase d).drives.get d).duty * ((s.workPhase d).gates.get d.parent).applied.getD 0 / 1024
      ≤ 1024 * 65535 / 1024 := Nat.div_le_div_right (Nat.mul_le_mul hduty hperiod)
    _ = 65535 := by norm_num

theorem gatePeriodEnd (g : Gate) : P (s.gatePeriodEnd g) := by
  refine hP.fold (hP.gate s g _ (fun hr => wrap_ranged (hr.periods g)) hs) (fun u d hu => hP.channelPeriodEnd hu d) _

/-! ### Sense claims and the edge inputs -/

omit hP hs in
theorem mapAnalog_worked {c : Claim} {f : AnalogBody → AnalogRun → AnalogRun}
    (h : ∀ b r, c.payload = .asense b r → b.debounce ≤ 8 → r.inRange → (f b r).inRange) :
    c.Worked (Claim.mapAnalog f c) := by
  unfold Claim.mapAnalog
  split
  · rename_i b r hp
    refine ⟨rfl, rfl, fun ⟨hhold, hbody, hrun⟩ => ?_, id⟩
    rw [hp] at hbody hrun
    exact ⟨hhold, hbody, h b r hp (debounce_of_asense hbody) hrun⟩
  all_goals exact ⟨rfl, rfl, id, id⟩

omit hP hs in
theorem mapEdge_worked {c : Claim} {f : EdgeBody → EdgeRun → EdgeRun}
    (h : ∀ b r, c.payload = .esense b r → b.debounce ≤ 8 → r.inRange → (f b r).inRange) :
    c.Worked (Claim.mapEdge f c) := by
  unfold Claim.mapEdge
  split
  · rename_i b r hp
    refine ⟨rfl, rfl, fun ⟨hhold, hbody, hrun⟩ => ?_, id⟩
    rw [hp] at hbody hrun
    exact ⟨hhold, hbody, h b r hp (debounce_of_esense hbody) hrun⟩
  all_goals exact ⟨rfl, rfl, id, id⟩

theorem missMoment (i : SlotIx) : P (s.missMoment i) :=
  hP.post _ _ _ (hP.upd s i _ (fun _ _ => mapAnalog_worked fun _ _ _ _ hr => miss_inRange hr) hs)

theorem readByOwner (i : SlotIx) : P (s.updClaim i Claim.readByOwner) := by
  refine hP.upd s i _ (fun c _ => ?_) hs
  unfold Claim.readByOwner
  split
  · rename_i b r hp
    refine ⟨rfl, rfl, fun ⟨hhold, hbody, hrun⟩ => ?_, id⟩
    rw [hp] at hbody hrun
    obtain ⟨hraw, hsm, ha, hb, -⟩ := hrun
    exact ⟨hhold, hbody, hraw, hsm, ha, hb, Nat.zero_le _⟩
  · rename_i b r hp
    refine ⟨rfl, rfl, fun ⟨hhold, hbody, hrun⟩ => ?_, id⟩
    rw [hp] at hbody hrun
    exact ⟨hhold, hbody, hrun⟩
  all_goals exact ⟨rfl, rfl, id, id⟩

theorem deliver (ch : AnalogCh) {value : Nat} (hv : value ≤ 4095) (i : SlotIx) : P (s.deliver ch value i) := by
  cases hd : s.delivered value i with
  | none => rwa [deliver_of_none hd]
  | some x =>
    obtain ⟨c, b, o⟩ := x
    obtain ⟨hc, r, hp, rfl⟩ := delivered_eq_some hd
    rw [deliver_of_some hd]
    have hupd : P (s.updClaim i (Claim.mapAnalog fun _ _ => (analogDeliver b value r).run)) := by
      refine hP.upd s i _ (fun c' hc' => mapAnalog_worked fun b' r' hp' hb hr => ?_) hs
      rw [hc] at hc'
      cases hc'
      rw [hp] at hp'
      cases hp'
      exact analogDeliver_inRange hb hv hr
    cases (analogDeliver b value r).trip with
    | none => exact hP.postAll hupd _ _
    | some cause => exact hP.frame _ _ (hP.postAll hupd _ _) rfl rfl rfl rfl rfl

theorem dueMoment (c : AnalogCh) : P (s.dueMoment c) := by
  unfold State.dueMoment
  dsimp only
  split
  · exact hs
  · split
    · exact hP.frame _ _ (hP.fold hs (fun u i hu => hP.missMoment hu i) _) rfl rfl rfl rfl rfl
    · exact hs

theorem decideIfFree : P s.decideIfFree :=
  hP.frame s _ hs (by simp) (by simp) (by simp) (by simp) (by simp)

theorem scheduleAdvance : P s.scheduleAdvance :=
  hP.decideIfFree (hP.fold hs (fun _ c hu => hP.dueMoment hu c) _)

theorem complete (f : Conversion) {value : Nat} (hv : value ≤ 4095) : P (s.complete f value) := by
  have hdel := hP.fold hs (fun (u : State) i hu => hP.deliver hu f.channel hv i) f.due
  unfold State.complete
  generalize List.foldl _ s _ = u at hdel ⊢
  have hfree : P { u with arbiter := { u.arbiter with inFlight := none } } := hP.frame u _ hdel rfl rfl rfl rfl rfl
  exact hP.decideIfFree hfree

/-- A change of an edge claim's runtime with its postings. -/
theorem workEdge {i : SlotIx} {c : Claim} {b : EdgeBody} {r : EdgeRun} (hc : s.claim i = some c)
    (hp : c.payload = .esense b r) {o : SenseOutcome EdgeRun} (ho : b.debounce ≤ 8 → r.inRange → o.run.inRange) :
    P ((s.updClaim i (Claim.mapEdge fun _ _ => o.run)).postAll o.posts i) := by
  refine hP.postAll (hP.upd s i _ (fun c' hc' => mapEdge_worked fun b' r' hp' => ?_) hs) _ _
  rw [hc] at hc'
  cases hc'
  rw [hp] at hp'
  cases hp'
  exact ho

theorem handEdge (v : Level) (stamp : Count32) (i : SlotIx) : P (s.handEdge v stamp i) := by
  cases ho : s.handed v stamp i with
  | none => rwa [handEdge_of_none ho]
  | some x =>
    obtain ⟨c, o⟩ := x
    obtain ⟨hc, b, r, hp, -, -, rfl⟩ := handed_eq_some ho
    rw [handEdge_of_some ho]
    exact hP.workEdge hs hc hp fun _ hr => edgeHanded_inRange b stamp hr

theorem acceptEdge (e : EdgeIn) (stamp : Count32) : P (s.acceptEdge e stamp) := by
  rw [acceptEdge_eq]
  have hinput : P (s.setInput e ⟨s.inputs[e].level.flip, none, s.inputs[e].filter⟩) :=
    hP.frame s _ hs rfl rfl rfl rfl rfl
  exact hP.fold hinput (fun u i hu => hP.handEdge hu _ stamp i) _

theorem edgeMomentAt (i : SlotIx) : P (s.edgeMomentAt i).1 := by
  cases hm : s.momentOf i with
  | none => rwa [edgeMomentAt_of_none hm]
  | some x =>
    obtain ⟨e, c, b, o⟩ := x
    obtain ⟨hc, -, r, hp, rfl⟩ := momentOf_eq_some hm
    rw [(edgeMomentAt_of_some hm).2]
    exact hP.workEdge hs hc hp fun hb hr => edgeMoment_inRange _ hb hr

theorem edgeAdvance : P s.edgeAdvance := by
  have hmoments : P (s.edgeMoments s.momentSlots).1 :=
    List.foldlRecOn (motive := fun p : State × List RaisedTrip => P p.1) s.momentSlots _ hs
      fun p hp i _ => hP.edgeMomentAt hp i
  unfold State.edgeAdvance
  generalize s.edgeMoments s.momentSlots = p at hmoments ⊢
  have htrips : P ((momentOrder s.draws p.2).foldl (fun s t => s.raiseTrip t.target t.trip) p.1) :=
    hP.fold hmoments (fun u t hu => hP.frame u (u.raiseTrip t.target t.trip) hu rfl rfl rfl rfl rfl) _
  exact hP.frame _ _ htrips rfl rfl rfl rfl rfl

/-! ### Time -/

/-- The gate counters run: the gate units change, their periods do not. -/
theorem runCounters (n : Nat) : P (s.runCounters n) := by
  have hgt := hP.gate s .gt (GateUnit.run n s.gates.gt) (fun hr => run_ranged (hr.periods .gt) n) hs
  exact hP.gate (s.setGate .gt (GateUnit.run n s.gates.gt)) .gb (GateUnit.run n s.gates.gb)
    (fun hr => run_ranged (hr.periods .gb) n) hgt

theorem passClocks (n : Nat) : P (s.passClocks n) :=
  hP.frame (s.runCounters _) _ (hP.runCounters hs (min n (2000 - s.clock.divider))) rfl rfl rfl rfl rfl

theorem nextTick (waits : Bool) : P (s.nextTick waits) :=
  hP.frame (s.runCounters _) _ (hP.runCounters hs (2000 - s.clock.divider)) rfl rfl rfl rfl rfl

theorem takeCount : P s.takeCount := by
  unfold State.takeCount
  split
  · exact hP.frame s _ hs rfl rfl rfl rfl rfl
  · exact hP.nextTick hs false

theorem acceptDue (e : EdgeIn) : P (s.acceptDue e) := by
  unfold State.acceptDue
  split
  · exact hs
  · split
    · exact hP.acceptEdge hs e _
    · exact hs

theorem pinChange (e : EdgeIn) (v : Level) (n : Nat) : P (s.pinChange e v n) := by
  unfold State.pinChange
  split
  · exact hs
  · have hdue : P ((s.passToMicro n).acceptDue e) := hP.acceptDue (hP.passClocks hs _) e
    dsimp only
    split
    · exact hP.frame _ _ hdue rfl rfl rfl rfl rfl
    · split
      · exact hP.acceptEdge hdue e _
      · exact hP.frame _ _ hdue rfl rfl rfl rfl rfl

theorem expire (i : SlotIx) : P (s.expire i) := by
  unfold State.expire
  split
  · exact hs
  · split
    · exact hP.endClaims hs _ _
    · split
      · exact hP.endClaims (hP.nextTick hs true) _ _
      · exact hs

/-- An event of time, of the pins or of the gates does the part's own work alone. -/
theorem timed {t : State} (h : Timed s t) : P t := by
  cases h with
  | advance => exact hP.edgeAdvance (hP.scheduleAdvance (hP.takeCount hs))
  | expire i => exact hP.expire hs i
  | periodEnd g ho n => exact hP.gatePeriodEnd (hP.passClocks hs n) g
  | complete f hf v n => exact hP.complete (hP.passClocks hs n) f (by omega)
  | pinChange e v n => exact hP.pinChange hs e v n
  | accept e p hp n => exact hP.acceptEdge (hP.passClocks hs n) e p.stamp
  | trip g => exact hP.takeTrip hs g
  | clocks => exact hP.passClocks hs 1

end KeptByWork

end Sys2Proof.Machine

end

section
/-! SUPPORT. The notice sets and the claims they are for, over every change and event. -/

namespace Sys2Proof.Machine

/-! ### What requests do beside the part's own work -/

namespace KeptByWork

variable {P : State → Prop} (hP : KeptByWork P) {s : State} (hs : P s)
include hP hs

theorem handOver (r : Resource) (i : SlotIx) : P (s.handOver r i) := by
  cases r with
  | drive d => exact hP.join hs d i
  | gate g =>
    have hlist : P { s with gateLists := s.gateLists.set g (s.insertByClass i (s.gateList g)) } :=
      hP.frame s _ hs rfl rfl rfl rfl rfl
    exact hP.evalGate hlist g
  | analog c => exact hs
  | edge e => exact hs

theorem handAmended (c : Claim) (i : SlotIx) : P (s.handAmended c i) := by
  unfold State.handAmended
  split
  · split
    · exact hP.join hs _ i
    · exact hs
  · exact hP.evalGate hs _
  · exact hs
  · exact hs

theorem renewClaim (i : SlotIx) : P (s.renewClaim i) :=
  hP.upd s i _ (fun _ _ => ⟨rfl, rfl, id, id⟩) hs

/-- A request's change, given what the property makes of its own four: a claim put, notices taken, an eviction, and a
barred mark cleared. -/
theorem change {t : State} (h : Change s t)
    (htaken : ∀ l, P (((s.notices.get l).take 6).foldl State.takeEntry
      { s with notices := s.notices.set l ((s.notices.get l).drop 6) }))
    (hopened : ∀ l body r i f, s.OpenPasses l body r i f → P (s.putClaim i (s.newClaim l r (openTag body) f)))
    (hamended : ∀ body l i c f, s.OwnerPasses l body i c → amendFields? c.resource body = some f →
      P (s.putClaim i (s.amendedClaim c f)))
    (hevicted : ∀ l, l ≠ s.setup.authority → P (s.evictLink l))
    (hadmitted : ∀ l, P (s.setPort l { s.ports.get l with barred := false })) : P t := by
  cases h with
  | nothing => exact hs
  | read i => exact hP.readByOwner hs i
  | tookNotices l => exact htaken l
  | opened l body r i f h => exact hP.handOver (hopened l body r i f h) r i
  | amended body l i c f h hf => exact hP.handAmended (hamended body l i c f h hf) c i
  | renewed i c hc hu ho => exact hP.renewClaim hs i
  | renewedAll l => exact hP.fold hs (fun u i hu => hP.renewClaim hu i) _
  | retired l body i c h => exact hP.endClaims hs _ _
  | droppedAll l hrun => exact hP.frame _ _ (hP.endClaims hs .retire (s.endable l)) rfl rfl rfl rfl rfl
  | cleared g src hrun => exact hP.removeHold hs g src
  | tested g src hrun => exact hP.takeHold hs g _
  | pinned i c hc ho => exact hP.upd s i _ (fun _ _ => ⟨rfl, rfl, id, id⟩) hs
  | evicted l hl hrun => exact hevicted l hl
  | admitted l => exact hadmitted l
  | reach | window | filter | polarity | locked => exact hP.frame s _ hs rfl rfl rfl rfl rfl

end KeptByWork

/-! ### The notice book -/

/-- `NoticeInv`, and a barred link's empty set (R161). -/
structure NoticeBook (s : State) : Prop where
  inv : NoticeInv s
  silent : ∀ l, s.barred l = true → s.notices.get l = []

theorem noticeInv_congr {s t : State} (hslots : t.slots = s.slots) (hn : t.notices = s.notices) (h : NoticeInv s) :
    NoticeInv t where
  owned l e he := by
    rw [hn] at he
    rw [State.claim_congr hslots]
    exact h.owned l e he
  spent i c hc := by
    rw [State.claim_congr hslots] at hc
    rw [hn]
    exact h.spent i c hc

theorem noticeBook_congr {s t : State} (hslots : t.slots = s.slots) (hn : t.notices = s.notices)
    (hports : t.ports = s.ports) (h : NoticeBook s) : NoticeBook t where
  inv := noticeInv_congr hslots hn h.inv
  silent l hl := by
    rw [barred_eq, hports] at hl
    rw [hn]
    exact h.silent l hl

theorem updClaim_noticeInv {s : State} (h : NoticeInv s) {i : SlotIx} {f : Claim → Claim}
    (hf : ∀ c, s.claim i = some c → (f c).owner = c.owner ∧ ((f c).state = .spent → c.state = .spent)) :
    NoticeInv (s.updClaim i f) where
  owned l e he := by
    obtain ⟨c, hc, ho⟩ := h.owned l e he
    rw [State.updClaim_claim]
    split
    · rename_i hi
      rw [hi] at hc
      exact ⟨f c, by rw [hc]; rfl, (hf c hc).1.trans ho⟩
    · exact ⟨c, hc, ho⟩
  spent j d hd hspent := by
    rw [State.updClaim_claim] at hd
    split at hd
    · rename_i hj
      obtain ⟨c, hc, rfl⟩ := Option.map_eq_some_iff.mp hd
      obtain ⟨ho, hst⟩ := hf c hc
      rw [ho, hj]
      exact h.spent i c hc (hst hspent)
    · exact h.spent j d hd hspent

theorem post_notices_get (s : State) (k : NoticeKind) (i : SlotIx) (l : Link) :
    (s.post k i).notices.get l =
      if s.noticeLink k i = some l then mergeNotice k i (s.notices.get l) else s.notices.get l := by
  cases hl : s.noticeLink k i with
  | none => rw [post_of_noLink hl]; simp
  | some m =>
    rw [post_notices_of_link hl, PerLink.get_set]
    by_cases hm : l = m
    · rw [if_pos hm, if_pos (by rw [hm]), hm]
    · rw [if_neg hm, if_neg fun e => hm (Option.some.inj e).symm]

theorem noticeLink_eq_some {s : State} {k : NoticeKind} {i : SlotIx} {l : Link} (h : s.noticeLink k i = some l) :
    ∃ c, s.claim i = some c ∧ c.owner = l ∧ s.barred l = false := by
  unfold State.noticeLink at h
  split at h
  · cases h
  · rename_i c hc
    split at h
    · cases h
    · rename_i hcond
      cases h
      exact ⟨c, hc, rfl, by simpa using fun hb => hcond (.inl hb)⟩

theorem post_noticeBook {s : State} (h : NoticeBook s) (k : NoticeKind) (i : SlotIx) : NoticeBook (s.post k i) := by
  refine ⟨⟨fun l e he => ?_, fun j c hc hspent => ?_⟩, fun l hl => ?_⟩
  · rw [State.post_claim]
    rw [post_notices_get] at he
    split at he
    · rename_i hlink
      rcases mem_mergeNotice_slot k i _ e he with hi | he
      · obtain ⟨c, hc, ho, -⟩ := noticeLink_eq_some hlink
        exact ⟨c, hi ▸ hc, ho⟩
      · exact h.inv.owned l e he
    · exact h.inv.owned l e he
  · rw [State.post_claim] at hc
    obtain ⟨e, he, hslot, hfinal⟩ := h.inv.spent j c hc hspent
    rw [post_notices_get]
    split
    · rcases Bool.or_eq_true_iff.mp hfinal with hk | hk
      · obtain ⟨x, hx, hxs, hxk⟩ := mem_mergeNotice_of_has (k := k) (i := i) hk he
        exact ⟨x, hx, hxs.trans hslot, Bool.or_eq_true_iff.mpr (.inl hxk)⟩
      · obtain ⟨x, hx, hxs, hxk⟩ := mem_mergeNotice_of_has (k := k) (i := i) hk he
        exact ⟨x, hx, hxs.trans hslot, Bool.or_eq_true_iff.mpr (.inr hxk)⟩
    · exact ⟨e, he, hslot, hfinal⟩
  · have hl' : s.barred l = true := hl
    rw [post_notices_get, if_neg fun hlink => ?_]
    · exact h.silent l hl'
    · obtain ⟨-, -, -, hb⟩ := noticeLink_eq_some hlink
      rw [hl'] at hb
      cases hb

theorem final_of_finalKind {cause : Option EndCause} {e : NoticeEntry} (h : e.has (finalKind cause) = true) :
    e.final = true := by
  unfold finalKind at h
  split at h
  · exact Bool.or_eq_true_iff.mpr (.inr h)
  · exact Bool.or_eq_true_iff.mpr (.inl h)

theorem finalKind_ne_sample (cause : Option EndCause) : finalKind cause ≠ .sample := by
  unfold finalKind
  split <;> decide

/-- A claim goes SPENT with its final notice, or its slot, of which no entry is left, goes FREE (R18, R3). -/
theorem finish_noticeBook {s : State} (h : NoticeBook s) (i : SlotIx) : NoticeBook (s.finish i) := by
  cases hc : s.claim i with
  | none => rwa [finish_of_none hc]
  | some c =>
    cases hb : s.barred c.owner with
    | true =>
      rw [finish_of_barred hc hb]
      refine ⟨⟨fun l e he => ?_, fun j d hd hspent => ?_⟩, h.silent⟩
      · obtain ⟨d, hd, ho⟩ := h.inv.owned l e he
        rw [State.freeSlot_claim, if_neg]
        · exact ⟨d, hd, ho⟩
        · intro hi
          rw [hi, hc] at hd
          cases hd
          rw [State.freeSlot_notices, ← ho, h.silent _ hb] at he
          cases he
      · rw [State.freeSlot_claim] at hd
        split at hd
        · cases hd
        · exact h.inv.spent j d hd hspent
    | false =>
      rw [finish_of_notBarred hc hb]
      have hpost := post_noticeBook h (finalKind c.endCause) i
      refine ⟨⟨fun l e he => ?_, fun j d hd hspent => ?_⟩, hpost.silent⟩
      · obtain ⟨d, hd, ho⟩ := hpost.inv.owned l e he
        rw [State.updClaim_claim]
        split
        · rename_i hi
          rw [hi] at hd
          exact ⟨{ d with state := .spent, deadline := none }, by rw [hd]; rfl, ho⟩
        · exact ⟨d, hd, ho⟩
      · rw [State.updClaim_claim, State.post_claim, hc] at hd
        split at hd
        · rename_i hj
          cases hd
          by_cases hst : c.state = .spent
          · exact hj ▸ hpost.inv.spent i c hc hst
          · obtain ⟨e, he, hslot, hk⟩ := post_noticed hc hst hb (finalKind_ne_sample c.endCause)
            exact ⟨e, he, hslot.trans hj.symm, final_of_finalKind hk⟩

        · exact hpost.inv.spent j d hd hspent

theorem noticeBook_keptByWork : KeptByWork NoticeBook where
  frame s t h hslots hn hports _ _ := noticeBook_congr hslots hn hports h
  upd s i f hf h := ⟨updClaim_noticeInv h.inv fun c hc => ⟨(hf c hc).owner, (hf c hc).spent⟩, h.silent⟩
  post s k i h := post_noticeBook h k i
  finish s i h := finish_noticeBook h i
  gate s g u _ h := noticeBook_congr (s := s) rfl rfl rfl h
  drive s d ch _ h := noticeBook_congr (s := s) rfl rfl rfl h

/-! ### Notices taken (R162) -/

theorem takeNotices_notices (s : State) (l : Link) :
    (((s.notices.get l).take 6).foldl State.takeEntry
      { s with notices := s.notices.set l ((s.notices.get l).drop 6) }).notices =
      s.notices.set l ((s.notices.get l).drop 6) :=
  foldl_keeps State.notices State.takeEntry (fun u e => u.takeEntry_notices e) _ _

/-- The slots of the final notices that a link takes go FREE (R3). -/
theorem takeNotices_claim {s : State} {l : Link} (hsorted : (s.notices.get l).Pairwise fun x y => x.slot < y.slot)
    (j : SlotIx) : (((s.notices.get l).take 6).foldl State.takeEntry
      { s with notices := s.notices.set l ((s.notices.get l).drop 6) }).claim j =
      if ∃ e ∈ (s.notices.get l).take 6, e.final = true ∧ e.slot = j then none else s.claim j := by
  unfold State.claim
  rw [foldl_takeEntry_slot j _ _ (hsorted.sublist (List.take_sublist 6 _))]
  split <;> rfl

/-- An entry that a link keeps is for another slot than an entry that it takes (R19). -/
theorem takeNotices_kept {s : State} {l m : Link} (hsorted : (s.notices.get l).Pairwise fun x y => x.slot < y.slot)
    (howned : ∀ m e, e ∈ s.notices.get m → e.final = true → ∃ c, s.claim e.slot = some c ∧ c.owner = m) {e x : NoticeEntry}
    (he : e ∈ (s.notices.set l ((s.notices.get l).drop 6)).get m) (hx : x ∈ (s.notices.get l).take 6)
    (hf : x.final = true) (hem : ∃ c, s.claim e.slot = some c ∧ c.owner = m) : x.slot ≠ e.slot := by
  intro hslot
  rw [PerLink.get_set] at he
  split at he
  · have happ := List.take_append_drop 6 (s.notices.get l)
    rw [← happ] at hsorted
    exact absurd ((List.pairwise_append.mp hsorted).2.2 x hx e he) (by rw [hslot]; exact lt_irrefl _)
  · rename_i hne
    obtain ⟨c, hc, ho⟩ := howned l x (List.mem_of_mem_take hx) hf
    obtain ⟨d, hd, hd'⟩ := hem
    rw [hslot, hd] at hc
    cases hc
    exact hne (hd'.symm.trans ho)

theorem takeNotices_noticeInv {s : State} (h : NoticeInv s) {l : Link}
    (hsorted : (s.notices.get l).Pairwise fun x y => x.slot < y.slot) :
    NoticeInv (((s.notices.get l).take 6).foldl State.takeEntry
      { s with notices := s.notices.set l ((s.notices.get l).drop 6) }) where
  owned m e he := by
    rw [takeNotices_notices] at he
    have hold : e ∈ s.notices.get m := by
      rw [PerLink.get_set] at he
      split at he
      · rename_i hm
        exact hm ▸ List.mem_of_mem_drop he
      · exact he
    obtain ⟨c, hc, ho⟩ := h.owned m e hold
    refine ⟨c, ?_, ho⟩
    rw [takeNotices_claim hsorted, if_neg, hc]
    rintro ⟨x, hx, hf, hslot⟩
    exact takeNotices_kept hsorted (fun m e he _ => h.owned m e he) he hx hf ⟨c, hc, ho⟩ hslot
  spent j c hc hst := by
    rw [takeNotices_claim hsorted] at hc
    split at hc
    · cases hc
    · rename_i hnot
      obtain ⟨e, he, hslot, hf⟩ := h.spent j c hc hst
      refine ⟨e, ?_, hslot, hf⟩
      rw [takeNotices_notices, PerLink.get_set]
      split
      · rename_i ho
        rw [ho, ← List.take_append_drop 6 (s.notices.get l)] at he
        exact (List.mem_append.mp he).resolve_left fun hx => hnot ⟨e, hx, hf, hslot⟩
      · exact he

/-! ### A link barred (R173) -/

theorem foldl_freeSlot_claim (j : SlotIx) : ∀ (is : List SlotIx) (s : State),
    (is.foldl State.freeSlot s).claim j = if j ∈ is then none else s.claim j
  | [], s => by simp
  | i :: is, s => by
    rw [List.foldl_cons, foldl_freeSlot_claim j is, State.freeSlot_claim]
    by_cases hj : j ∈ is
    · simp [hj]
    · by_cases hji : j = i <;> simp [hji, hj]

theorem barLink_notices (s : State) (l : Link) : (s.barLink l).notices = s.notices.set l [] :=
  foldl_keeps State.notices State.freeSlot (fun _ _ => rfl) _ _

theorem barLink_barred (s : State) (l m : Link) : (s.barLink l).barred m = (decide (m = l) || s.barred m) := by
  have hports : (s.barLink l).ports = s.ports.set l { s.ports.get l with barred := true } :=
    foldl_keeps State.ports State.freeSlot (fun _ _ => rfl) _ _
  rw [barred_eq, hports, PerLink.get_set]
  split
  · rename_i hm
    simp [hm]
  · rename_i hm
    simp [hm, barred_eq]

/-- The SPENT slots of the link go FREE (R173 step 3). -/
theorem barLink_claim (s : State) (l : Link) (j : SlotIx) : (s.barLink l).claim j =
    if ∃ c, s.claim j = some c ∧ c.owner = l ∧ c.state = .spent then none else s.claim j := by
  unfold State.barLink
  refine (foldl_freeSlot_claim j _ _).trans (ite_congr (propext ?_) (fun _ => rfl) fun _ => rfl)
  rw [State.mem_slotsWhere]
  simp only [Bool.and_eq_true, decide_eq_true_eq]

theorem barLink_noticeBook {s : State} (h : NoticeBook s) (l : Link) : NoticeBook (s.barLink l) := by
  refine ⟨⟨fun m e he => ?_, fun j c hc hst => ?_⟩, fun m hm => ?_⟩
  · rw [barLink_notices, PerLink.get_set] at he
    split at he
    · cases he
    · rename_i hm
      obtain ⟨c, hc, ho⟩ := h.inv.owned m e he
      refine ⟨c, ?_, ho⟩
      rw [barLink_claim, if_neg, hc]
      rintro ⟨d, hd, hdo, -⟩
      rw [hc] at hd
      cases hd
      exact hm (ho.symm.trans hdo)
  · rw [barLink_claim] at hc
    split at hc
    · cases hc
    · rename_i hnot
      have ho : c.owner ≠ l := fun ho => hnot ⟨c, hc, ho, hst⟩
      rw [barLink_notices, PerLink.get_set, if_neg ho]
      exact h.inv.spent j c hc hst
  · rw [barLink_notices, PerLink.get_set]
    split
    · rfl
    · rename_i hne
      rw [barLink_barred] at hm
      exact h.silent m (by simpa [hne] using hm)

/-- A claim of a barred link, for which no notice is pending, passes to another link (R173 step 5). -/
theorem handOverPinned_noticeBook {s : State} (h : NoticeBook s) {i : SlotIx} {c : Claim} (hc : s.claim i = some c)
    (hb : s.barred c.owner = true) : NoticeBook (s.handOverPinned i) := by
  refine post_noticeBook (s := s.updClaim i _) ?_ .handover i
  refine ⟨⟨fun l e he => ?_, fun j d hd hst => ?_⟩, h.silent⟩
  · obtain ⟨d, hd, ho⟩ := h.inv.owned l e he
    rw [State.updClaim_claim, if_neg]
    · exact ⟨d, hd, ho⟩
    · intro hi
      rw [hi, hc] at hd
      cases hd
      rw [State.updClaim_notices, ← ho, h.silent _ hb] at he
      cases he
  · rw [State.updClaim_claim, hc] at hd
    split at hd
    · cases hd
      obtain ⟨e, he, -⟩ := h.inv.spent i c hc hst
      rw [h.silent _ hb] at he
      cases he
    · exact h.inv.spent j d hd hst

/-- The hand-over of a barred link's pinned claims, one after another. -/
theorem foldl_handOverPinned_keeps {P : State → Prop} {l : Link}
    (hstep : ∀ (u : State) i c, P u → u.claim i = some c → c.owner = l → c.pinned = true → u.barred l = true →
      P (u.handOverPinned i)) :
    ∀ (is : List SlotIx) {s : State}, is.Nodup → (∀ i ∈ is, ∃ c, s.claim i = some c ∧ c.owner = l ∧ c.pinned = true) →
      s.barred l = true → P s → P (is.foldl State.handOverPinned s)
  | [], _, _, _, _, hs => hs
  | i :: is, s, hn, hmem, hb, hs => by
    obtain ⟨hi, hn⟩ := List.nodup_cons.mp hn
    obtain ⟨c, hc, ho, hp⟩ := hmem i List.mem_cons_self
    refine foldl_handOverPinned_keeps hstep is hn (fun j hj => ?_) hb (hstep s i c hs hc ho hp hb)
    rw [handOverPinned_claim, if_neg fun e : j = i => hi (e ▸ hj)]
    exact hmem j (List.mem_cons_of_mem i hj)

theorem pinnedOf_nodup (s : State) (l : Link) : (s.pinnedOf l).Nodup := slotsWhere_nodup s _

theorem mem_pinnedOf {s : State} {l : Link} {i : SlotIx} (h : i ∈ s.pinnedOf l) :
    ∃ c, s.claim i = some c ∧ c.owner = l ∧ c.pinned = true := by
  obtain ⟨c, hc, hp⟩ := (State.mem_slotsWhere _ _ i).mp h
  obtain ⟨ho, hpin⟩ := Bool.and_eq_true_iff.mp hp
  exact ⟨c, hc, of_decide_eq_true ho, hpin⟩

/-- The state of an eviction in which the pinned claims are handed over (R173 step 4 done). -/
def State.evicting (s : State) (l : Link) : State := (s.barLink l).endClaims .retire (s.endable l)

theorem evicting_barred (s : State) (l : Link) : (s.evicting l).barred l = true := by
  have hports : (s.evicting l).ports = (s.barLink l).ports := State.endClaims_ports _ _ _
  rw [barred_eq, hports, ← barred_eq, barLink_barred]
  simp

theorem evictLink_eq (s : State) (l : Link) : s.evictLink l =
    { (((s.evicting l).pinnedOf l).foldl State.handOverPinned (s.evicting l)).passHolds l with
      draws := (((s.evicting l).pinnedOf l).foldl State.handOverPinned (s.evicting l)).draws + 1 } := rfl

theorem evictLink_noticeBook {s : State} (h : NoticeBook s) (l : Link) : NoticeBook (s.evictLink l) := by
  have hend : NoticeBook (s.evicting l) := noticeBook_keptByWork.endClaims (barLink_noticeBook h l) _ _
  have hover := foldl_handOverPinned_keeps (P := NoticeBook) (l := l)
    (fun u i c hu hc ho _ hb => handOverPinned_noticeBook hu hc (ho ▸ hb)) _ (pinnedOf_nodup (s.evicting l) l)
    (fun i hi => mem_pinnedOf hi) (evicting_barred s l) hend
  rw [evictLink_eq]
  generalize List.foldl _ _ _ = u at hover ⊢
  exact noticeBook_congr (s := u) rfl rfl rfl hover

/-! ### Claims put into slots -/

theorem newClaim_ne_spent (s : State) (l : Link) (r : Resource) (tag : BitVec 16) (f : ClaimFields) :
    (s.newClaim l r tag f).state ≠ .spent := by
  cases r <;> exact ClaimState.noConfusion

theorem putClaim_noticeInv_of_free {s : State} (h : NoticeInv s) {i : SlotIx} (hi : s.claim i = none) {c : Claim}
    (hc : c.state ≠ .spent) : NoticeInv (s.putClaim i c) where
  owned l e he := by
    obtain ⟨d, hd, ho⟩ := h.owned l e he
    rw [State.putClaim_claim, if_neg fun e' => by rw [e', hi] at hd; cases hd]
    exact ⟨d, hd, ho⟩
  spent j d hd hst := by
    rw [State.putClaim_claim] at hd
    split at hd
    · cases hd
      exact absurd hst hc
    · exact h.spent j d hd hst


theorem change_noticeBook {s t : State} (hs : NoticeBook s) (ht : TableInv s) (h : Change s t) : NoticeBook t := by
  refine noticeBook_keptByWork.change hs h (fun l => ?_) (fun l body r i f h => ?_) (fun body l i c f h hf => ?_)
    (fun l _ => evictLink_noticeBook hs l) fun l => ?_
  · refine ⟨takeNotices_noticeInv hs.inv (ht.sorted l), fun m hm => ?_⟩
    have hb : s.barred m = true := by
      rwa [barred_eq, foldl_keeps State.ports State.takeEntry (fun u e => u.takeEntry_ports e)] at hm

    rw [takeNotices_notices, PerLink.get_set]
    split
    · rename_i e
      rw [← e, hs.silent m hb]
      rfl
    · exact hs.silent m hb
  · exact ⟨putClaim_noticeInv_of_free hs.inv h.room.1 (newClaim_ne_spent s l r _ f), hs.silent⟩
  · rw [← State.updClaim_eq_putClaim h.claim fun _ => s.amendedClaim c f]
    refine ⟨updClaim_noticeInv hs.inv fun d hd => ?_, hs.silent⟩
    rw [h.claim] at hd
    cases hd
    exact ⟨rfl, id⟩
  · refine ⟨noticeInv_congr (s := s) rfl rfl hs.inv, fun m hm => ?_⟩
    have hports : (s.setPort l { s.ports.get l with barred := false }).barred m = true → s.barred m = true := fun hb => by
      change ((s.ports.set l { s.ports.get l with barred := false }).get m).barred = true at hb
      rw [PerLink.get_set] at hb
      split at hb
      · cases hb
      · exact hb
    exact hs.silent m (hports hm)

end Sys2Proof.Machine
end

section
/-! SUPPORT and PROOFS. The Claim Table's lists and notice sets agree with its slots, over every change and event. -/

namespace Sys2Proof.Machine

/-! ### A list left by its head, or joined -/

/-- A drive channel's list changed, after work that agrees with the slots without that list. -/
theorem changeList_tableInv {s u : State} {d : Drive} (hok : u.TableOk (s.without d) s.gateList)
    (hd : u.driveLists = s.driveLists) (hg : u.gateLists = s.gateLists) (old : Option SlotIx) {l : List SlotIx}
    (hn : l.Nodup) (hl : ∀ j ∈ l, ∃ c, u.claim j = some c ∧ c.resource = .drive d ∧ c.state ≠ .spent) :
    TableInv (u.changeList d old l) := by
  refine State.TableOk.changeList d old l ?_ hl hn
  rwa [State.without_congr hd, State.gateList_eq hg]

theorem TableInv.live {s : State} (h : TableInv s) {d : Drive} {j : SlotIx} (hj : j ∈ s.driveList d) :
    ∃ c, s.claim j = some c ∧ c.resource = .drive d ∧ c.state ≠ .spent := by
  obtain ⟨c, hc, hr, hlisted⟩ := h.driveEntry d j hj
  exact ⟨c, hc, hr, ne_spent_of_listed hlisted⟩

theorem TableInv.tail_nodup {s : State} (h : TableInv s) {d : Drive} {i : SlotIx} {t : List SlotIx}
    (hl : s.driveList d = i :: t) : i ∉ t ∧ t.Nodup :=
  List.nodup_cons.mp (hl ▸ h.driveNodup d)

theorem tableInv_congr {s t : State} (hs : t.slots = s.slots) (hn : t.notices = s.notices) (hp : t.ports = s.ports)
    (hd : t.driveLists = s.driveLists) (hg : t.gateLists = s.gateLists) (h : TableInv s) : TableInv t := by
  unfold TableInv
  rw [State.driveList_eq hd, State.gateList_eq hg]
  exact h.congr hs hn fun l hl => (State.barred_congr hp l).symm.trans hl

theorem setGate_tableInv {s : State} (h : TableInv s) (g : Gate) (u : GateUnit) : TableInv (s.setGate g u) :=
  tableInv_congr (s := s) rfl rfl rfl rfl rfl h

theorem setDrive_tableInv {s : State} (h : TableInv s) (d : Drive) (ch : DriveChannel) : TableInv (s.setDrive d ch) :=
  tableInv_congr (s := s) rfl rfl rfl rfl rfl h

theorem post_tableInv {s : State} (h : TableInv s) {k : NoticeKind} (hk : k.plain = true) (i : SlotIx) :
    TableInv (s.post k i) := State.TableOk.post h k hk i

theorem postEach_tableInv {s : State} (h : TableInv s) {k : NoticeKind} (hk : k.plain = true) (is : List SlotIx) :
    TableInv (s.postEach k is) := by
  unfold State.postEach
  exact List.foldlRecOn (motive := TableInv) is _ h fun u hu i _ => post_tableInv hu hk i

theorem postAll_tableInv {s : State} (h : TableInv s) {ks : List NoticeKind} (hk : ∀ k ∈ ks, k.plain = true)
    (i : SlotIx) : TableInv (s.postAll ks i) := by
  unfold State.postAll
  exact List.foldlRecOn (motive := TableInv) ks _ h fun u hu k hmem => post_tableInv hu (hk k hmem) i

theorem finish_changeList_tableInv {s : State} (h : TableInv s) {d : Drive} {i : SlotIx} {t l : List SlotIx}
    (hl : s.driveList d = i :: t) (old : Option SlotIx) (hn : l.Nodup)
    (hlive : ∀ j ∈ l, j ≠ i ∧ ∃ c, s.claim j = some c ∧ c.resource = .drive d ∧ c.state ≠ .spent) :
    TableInv ((s.finish i).changeList d old l) := by
  have hi : i ∈ s.driveList d := hl ▸ List.mem_cons_self
  refine changeList_tableInv ((h.without d).finish i (h.entry_unlisted hi)) (s.finish_driveLists i) (s.finish_gateLists i)
    old hn fun j hj => ?_
  obtain ⟨hne, hc⟩ := hlive j hj
  rwa [finish_claim_of_ne s hne]

theorem completeClaim_claim_of_ne (s : State) {i j : SlotIx} (h : j ≠ i) : (s.completeClaim i).claim j = s.claim j :=
  congrArg Slot.claim (completeClaim_slot_of_ne s h)

theorem complete_changeList_tableInv {s : State} (h : TableInv s) {d : Drive} {i : SlotIx} {t l : List SlotIx}
    (hl : s.driveList d = i :: t) (old : Option SlotIx) (hn : l.Nodup)
    (hlive : ∀ j ∈ l, j ≠ i ∧ ∃ c, s.claim j = some c ∧ c.resource = .drive d ∧ c.state ≠ .spent) :
    TableInv ((s.completeClaim i).changeList d old l) := by
  have hi : i ∈ s.driveList d := hl ▸ List.mem_cons_self
  refine changeList_tableInv ((h.without d).completeClaim i (h.entry_unlisted hi) fun c hc => ?_)
    (s.completeClaim_driveLists i) (s.completeClaim_gateLists i) old hn fun j hj => ?_
  · obtain ⟨c', hc', -, hs⟩ := h.live hi
    rw [hc] at hc'
    cases hc'
    exact hs
  · obtain ⟨hne, hc⟩ := hlive j hj
    rwa [completeClaim_claim_of_ne s hne]

theorem TableInv.tail_live {s : State} (h : TableInv s) {d : Drive} {i : SlotIx} {t : List SlotIx}
    (hl : s.driveList d = i :: t) :
    ∀ j ∈ t, j ≠ i ∧ ∃ c, s.claim j = some c ∧ c.resource = .drive d ∧ c.state ≠ .spent := fun j hj =>
  ⟨fun e => (h.tail_nodup hl).1 (e ▸ hj), h.live (hl ▸ List.mem_cons_of_mem i hj)⟩

theorem headFinishes_tableInv {s : State} (h : TableInv s) {d : Drive} {i : SlotIx} {t : List SlotIx}
    (hl : s.driveList d = i :: t) : TableInv ((s.finish i).changeList d (some i) t) :=
  finish_changeList_tableInv h hl _ (h.tail_nodup hl).2 (h.tail_live hl)

theorem headCompletes_tableInv {s : State} (h : TableInv s) {d : Drive} {i : SlotIx} {t : List SlotIx}
    (hl : s.driveList d = i :: t) : TableInv ((s.completeClaim i).changeList d (some i) t) :=
  complete_changeList_tableInv h hl _ (h.tail_nodup hl).2 (h.tail_live hl)

/-- A live claim of the channel, in no list, joins the channel's list (R27). -/
theorem join_tableInv {s : State} (h : TableInv s) {d : Drive} {i : SlotIx} {c : Claim} (hc : s.claim i = some c)
    (hr : c.resource = .drive d) (hst : c.state ≠ .spent) (hi : i ∉ s.driveList d) : TableInv (s.join d i) := by
  have hlive : ∀ l : List SlotIx, (∀ j ∈ l, j ∈ s.driveList d) →
      ∀ j ∈ s.insertByClass i l, ∃ c, s.claim j = some c ∧ c.resource = .drive d ∧ c.state ≠ .spent := by
    intro l hl j hj
    rcases (mem_insertByClass s i j l).mp hj with rfl | hj
    · exact ⟨c, hc, hr, hst⟩
    · exact h.live (hl j hj)
  cases hl : s.driveList d with
  | nil =>
    rw [join_of_empty hl]
    refine changeList_tableInv (h.without d) rfl rfl none (List.nodup_singleton i) fun j hj => ?_
    rw [List.mem_singleton.mp hj]
    exact ⟨c, hc, hr, hst⟩
  | cons x t =>
    obtain ⟨cx, hcx, -⟩ := h.live (hl ▸ List.mem_cons_self : x ∈ s.driveList d)
    obtain ⟨hxt, hnt⟩ := h.tail_nodup hl
    obtain ⟨hix, hit⟩ := List.ne_and_not_mem_of_not_mem_cons (hl ▸ hi)
    have hbehind : ∀ j ∈ s.insertByClass i t,
        j ≠ x ∧ ∃ c, s.claim j = some c ∧ c.resource = .drive d ∧ c.state ≠ .spent := fun j hj => by
      refine ⟨?_, hlive t (fun j hj => hl ▸ List.mem_cons_of_mem x hj) j hj⟩
      rcases (mem_insertByClass s i j t).mp hj with rfl | hj
      · exact hix
      · exact fun e => hxt (e ▸ hj)
    by_cases hret : cx.state = .retiring
    · rw [join_of_retiring hl hcx hret]
      exact finish_changeList_tableInv h hl _ (insertByClass_nodup hnt hit) hbehind
    · cases hb : cx.burstFinished with
      | true =>
        rw [join_of_finished hl hcx hret hb]
        exact complete_changeList_tableInv h hl _ (insertByClass_nodup hnt hit) hbehind
      | false =>
        rw [join_of_standing hl hcx hret hb]
        exact changeList_tableInv (h.without d) rfl rfl _
          (insertByClass_nodup (hl ▸ h.driveNodup d) (hl ▸ hi)) (hlive _ fun j hj => hl ▸ hj)

/-! ### Gates -/

/-- A head whose state changes between the states of an entry. -/
theorem setState_tableInv {s : State} (h : TableInv s) {d : Drive} {i : SlotIx} (hi : i ∈ s.driveList d)
    {st : ClaimState} (hst : st.listed = true) : TableInv (s.updClaim i fun c => { c with state := st }) := by
  obtain ⟨c, hc, hr, hlisted⟩ := h.driveEntry d i hi
  refine h.upd i _ fun c' hc' => ?_
  rw [hc] at hc'
  cases hc'
  refine ⟨rfl, rfl, fun _ => .inl hst, fun ha => ?_, fun hs => ?_⟩
  · rw [ha] at hlisted
    cases hlisted
  · rw [hs] at hlisted
    cases hlisted

theorem haltChannel_tableInv {s : State} (h : TableInv s) (d : Drive) (p : StopPattern) :
    TableInv (s.haltChannel d p) := by
  have hset := setDrive_tableInv h d ⟨.halted, 0, p.pins, 0⟩
  rcases haltChannel_cases s d p with heq | ⟨i, t, hl, heq | heq | heq⟩ <;> rw [heq]
  · exact hset
  · exact headFinishes_tableInv hset hl
  · exact headCompletes_tableInv hset hl
  · exact setState_tableInv (d := d) (post_tableInv hset (k := .suspended) rfl i) (hl ▸ List.mem_cons_self : i ∈ s.driveList d) rfl

theorem releaseChannel_tableInv {s : State} (h : TableInv s) (d : Drive) : TableInv (s.releaseChannel d) := by
  have hset : TableInv (s.leftHalted d) := setDrive_tableInv h d _
  rcases releaseChannel_cases s d with heq | ⟨i, t, hl, heq⟩ <;> rw [heq]
  · exact hset
  · exact setState_tableInv (d := d) (post_tableInv hset (k := .resumed) rfl i) (hl ▸ List.mem_cons_self : i ∈ s.driveList d) rfl

theorem closeGate_tableInv {s : State} (h : TableInv s) (g : Gate) : TableInv (s.closeGate g) := by
  rw [closeGate_eq]
  have hclosing : TableInv (s.closing g) := postEach_tableInv (setGate_tableInv h g _) rfl _
  exact List.foldlRecOn (motive := TableInv) _ _ hclosing fun u hu d _ => haltChannel_tableInv hu d _

theorem openGate_tableInv {s : State} (h : TableInv s) (g : Gate) : TableInv (s.openGate g) := by
  rw [openGate_eq]
  have hopening : TableInv (s.opening g) := postEach_tableInv (setGate_tableInv h g _) rfl _
  exact List.foldlRecOn (motive := TableInv) _ _ hopening fun u hu d _ => releaseChannel_tableInv hu d

theorem evalGate_tableInv {s : State} (h : TableInv s) (g : Gate) : TableInv (s.evalGate g) := by
  unfold State.evalGate
  split
  · split
    · exact setGate_tableInv h g _
    · exact closeGate_tableInv h g
  · split
    · exact openGate_tableInv h g
    · exact tableInv_congr (s := s) (by simp) (by simp) (by simp) (by simp) (by simp) h

theorem takeHold_tableInv {s : State} (h : TableInv s) (g : Gate) (x : TripHold) : TableInv (s.takeHold g x) :=
  evalGate_tableInv (setGate_tableInv h g _) g

theorem removeHold_tableInv {s : State} (h : TableInv s) (g : Gate) (src : Source) : TableInv (s.removeHold g src) :=
  evalGate_tableInv (setGate_tableInv h g _) g

theorem takeTrip_tableInv {s : State} (h : TableInv s) (g : Gate) : TableInv (s.takeTrip g) := by
  unfold State.takeTrip
  split
  · exact h
  · rename_i t ts _
    have htrips : TableInv { s with trips := s.trips.set g ts } := tableInv_congr (s := s) rfl rfl rfl rfl rfl h
    have hhold := takeHold_tableInv htrips g (s.holdOf t)
    unfold State.postTrip
    split
    · exact post_tableInv hhold rfl _
    · exact hhold

/-! ### Period ends -/

theorem countBurst_tableInv {s : State} (h : TableInv s) (i : SlotIx) : TableInv (s.updClaim i Claim.countBurst) :=
  h.upd_same i _ fun c => ⟨(Claim.countBurst_same c).owner, (Claim.countBurst_same c).resource, countBurst_state c⟩

theorem take_tableInv {s : State} (h : TableInv s) {d : Drive} {i : SlotIx} {t : List SlotIx}
    (hl : s.driveList d = i :: t) (r : HeadReport) : TableInv (s.take d i r) := by
  have htail : (s.driveList d).tail = t := by rw [hl]; rfl
  cases r with
  | stays => exact h
  | counts => exact countBurst_tableInv h i
  | countsOut =>
    have hcount := headCompletes_tableInv (countBurst_tableInv h i) (d := d) hl
    rwa [← htail] at hcount
  | finishes =>
    have hfin := headFinishes_tableInv h hl
    rwa [← htail] at hfin
  | completes =>
    have hcomp := headCompletes_tableInv h hl
    rwa [← htail] at hcomp

theorem channelPeriodEnd_tableInv {s : State} (h : TableInv s) (d : Drive) : TableInv (s.channelPeriodEnd d) := by
  have hset := setDrive_tableInv h d (s.workedChannel d)
  cases hv : s.headView d with
  | none =>
    rw [channelPeriodEnd_of_noView hv]
    exact setDrive_tableInv hset d _
  | some v =>
    obtain ⟨t, hl⟩ := driveList_of_view hv
    rw [channelPeriodEnd_of_view hv]
    exact setDrive_tableInv (take_tableInv hset (d := d) hl _) d _

theorem gatePeriodEnd_tableInv {s : State} (h : TableInv s) (g : Gate) : TableInv (s.gatePeriodEnd g) :=
  List.foldlRecOn (motive := TableInv) _ _ (setGate_tableInv h g _) fun u hu d _ => channelPeriodEnd_tableInv hu d

/-! ### Sense claims -/

/-- Postings that are no final notices. -/
def SenseOutcome.plain {ρ : Type} (o : SenseOutcome ρ) : Prop := o.posts.all NoticeKind.plain = true

theorem analogDeliver_plain (b : AnalogBody) (raw : Nat) (r : AnalogRun) :
    SenseOutcome.plain (analogDeliver b raw r) := by
  unfold SenseOutcome.plain analogDeliver
  dsimp only
  repeat' split
  all_goals rfl

theorem edgeHanded_plain (b : EdgeBody) (stamp : Count32) (r : EdgeRun) :
    SenseOutcome.plain (edgeHanded b stamp r) := by
  unfold SenseOutcome.plain edgeHanded periodEdge countEdge EdgeRun.measurePosts
  dsimp only
  repeat' split
  all_goals rfl

theorem edgeMoment_plain (b : EdgeBody) (v : Level) (r : EdgeRun) : SenseOutcome.plain (edgeMoment b v r) := by
  unfold SenseOutcome.plain edgeMoment periodMoment countMoment levelMoment EdgeRun.measurePosts
  dsimp only
  repeat' split
  all_goals rfl

/-- A change of a claim's runtime. -/
theorem updRun_tableInv {s : State} (h : TableInv s) (i : SlotIx) {f : Claim → Claim} (hf : ∀ c : Claim, c.Same (f c))
    (hst : ∀ c, (f c).state = c.state) : TableInv (s.updClaim i f) :=
  h.upd_same i f fun c => ⟨(hf c).owner, (hf c).resource, hst c⟩

theorem mapAnalog_state (f : AnalogBody → AnalogRun → AnalogRun) (c : Claim) : (Claim.mapAnalog f c).state = c.state := by
  unfold Claim.mapAnalog
  split <;> rfl

theorem mapEdge_state (f : EdgeBody → EdgeRun → EdgeRun) (c : Claim) : (Claim.mapEdge f c).state = c.state := by
  unfold Claim.mapEdge
  split <;> rfl

theorem readByOwner_state (c : Claim) : (Claim.readByOwner c).state = c.state := by
  unfold Claim.readByOwner
  split <;> rfl

theorem missMoment_tableInv {s : State} (h : TableInv s) (i : SlotIx) : TableInv (s.missMoment i) :=
  post_tableInv (updRun_tableInv h i (Claim.mapAnalog_same _) (mapAnalog_state _)) rfl i

theorem deliver_tableInv {s : State} (h : TableInv s) (ch : AnalogCh) (value : Nat) (i : SlotIx) :
    TableInv (s.deliver ch value i) := by
  cases hd : s.delivered value i with
  | none => rwa [deliver_of_none hd]
  | some x =>
    obtain ⟨c, b, o⟩ := x
    obtain ⟨hc, r, hp, rfl⟩ := delivered_eq_some hd
    rw [deliver_of_some hd]
    have hposts := postAll_tableInv (updRun_tableInv h i (Claim.mapAnalog_same fun _ _ => (analogDeliver b value r).run)
      (mapAnalog_state _)) (List.all_eq_true.mp (analogDeliver_plain b value r)) i
    cases (analogDeliver b value r).trip with
    | none => exact hposts
    | some cause => exact tableInv_congr (s := State.postAll _ _ i) rfl rfl rfl rfl rfl hposts

theorem dueMoment_tableInv {s : State} (h : TableInv s) (c : AnalogCh) : TableInv (s.dueMoment c) := by
  have hmiss : ∀ is : List SlotIx, TableInv (is.foldl State.missMoment s) := fun is =>
    List.foldlRecOn (motive := TableInv) is _ h fun u hu i _ => missMoment_tableInv hu i
  unfold State.dueMoment
  dsimp only
  split
  · exact h
  · split
    · exact tableInv_congr (s := List.foldl State.missMoment s _) rfl rfl rfl rfl rfl (hmiss _)
    · exact h

theorem decideIfFree_tableInv {s : State} (h : TableInv s) : TableInv s.decideIfFree :=
  tableInv_congr (by simp) (by simp) (by simp) (by simp) (by simp) h

theorem scheduleAdvance_tableInv {s : State} (h : TableInv s) : TableInv s.scheduleAdvance :=
  decideIfFree_tableInv (List.foldlRecOn (motive := TableInv) allChannels State.dueMoment h
    fun u hu c _ => dueMoment_tableInv hu c)

theorem complete_tableInv {s : State} (h : TableInv s) (f : Conversion) (value : Nat) :
    TableInv (s.complete f value) := by
  have hdel : TableInv (f.due.foldl (fun s i => s.deliver f.channel value i) s) :=
    List.foldlRecOn (motive := TableInv) f.due _ h fun u hu i _ => deliver_tableInv hu f.channel value i
  unfold State.complete
  generalize List.foldl _ s _ = u at hdel ⊢
  exact decideIfFree_tableInv (tableInv_congr (s := u) rfl rfl rfl rfl rfl hdel)

theorem workEdge_tableInv {s : State} (h : TableInv s) (i : SlotIx) {o : SenseOutcome EdgeRun}
    (ho : SenseOutcome.plain o) : TableInv ((s.updClaim i (Claim.mapEdge fun _ _ => o.run)).postAll o.posts i) :=
  postAll_tableInv (updRun_tableInv h i (Claim.mapEdge_same _) (mapEdge_state _)) (List.all_eq_true.mp ho) i

theorem handEdge_tableInv {s : State} (h : TableInv s) (v : Level) (stamp : Count32) (i : SlotIx) :
    TableInv (s.handEdge v stamp i) := by
  cases ho : s.handed v stamp i with
  | none => rwa [handEdge_of_none ho]
  | some x =>
    obtain ⟨c, o⟩ := x
    obtain ⟨-, b, r, -, -, -, rfl⟩ := handed_eq_some ho
    rw [handEdge_of_some ho]
    exact workEdge_tableInv h i (edgeHanded_plain b stamp r)

theorem setInput_tableInv {s : State} (h : TableInv s) (e : EdgeIn) (x : EdgeInput) : TableInv (s.setInput e x) :=
  tableInv_congr (s := s) rfl rfl rfl rfl rfl h

theorem acceptEdge_tableInv {s : State} (h : TableInv s) (e : EdgeIn) (stamp : Count32) :
    TableInv (s.acceptEdge e stamp) := by
  rw [acceptEdge_eq]
  exact List.foldlRecOn (motive := TableInv) _ _ (setInput_tableInv h e _) fun u hu i _ => handEdge_tableInv hu _ stamp i

theorem edgeMomentAt_tableInv {s : State} (h : TableInv s) (i : SlotIx) : TableInv (s.edgeMomentAt i).1 := by
  cases hm : s.momentOf i with
  | none => rwa [edgeMomentAt_of_none hm]
  | some x =>
    obtain ⟨e, c, b, o⟩ := x
    obtain ⟨-, -, r, -, rfl⟩ := momentOf_eq_some hm
    rw [(edgeMomentAt_of_some hm).2]
    exact workEdge_tableInv h i (edgeMoment_plain b _ r)

theorem edgeAdvance_tableInv {s : State} (h : TableInv s) : TableInv s.edgeAdvance := by
  have hmoments : TableInv (s.edgeMoments s.momentSlots).1 :=
    List.foldlRecOn (motive := fun p : State × List RaisedTrip => TableInv p.1) s.momentSlots _ h
      fun p hp i _ => edgeMomentAt_tableInv hp i
  unfold State.edgeAdvance
  generalize s.edgeMoments s.momentSlots = p at hmoments ⊢
  have htrips : TableInv ((momentOrder s.draws p.2).foldl (fun s t => s.raiseTrip t.target t.trip) p.1) :=
    List.foldlRecOn (motive := TableInv) _ _ hmoments fun u hu t _ =>
      tableInv_congr (s := u) rfl rfl rfl rfl rfl hu
  exact tableInv_congr (s := List.foldl _ p.1 _) rfl rfl rfl rfl rfl htrips

/-! ### Time -/

theorem passClocks_tableInv {s : State} (h : TableInv s) (n : Nat) : TableInv (s.passClocks n) :=
  tableInv_congr (s := s) rfl rfl rfl rfl rfl h

theorem nextTick_tableInv {s : State} (h : TableInv s) (waits : Bool) : TableInv (s.nextTick waits) :=
  tableInv_congr (s := s) rfl rfl rfl rfl rfl h

theorem takeCount_tableInv {s : State} (h : TableInv s) : TableInv s.takeCount :=
  tableInv_congr (by simp) (by simp) (by simp) (by simp) (by simp) h

theorem acceptDue_tableInv {s : State} (h : TableInv s) (e : EdgeIn) : TableInv (s.acceptDue e) := by
  unfold State.acceptDue
  split
  · exact h
  · split
    · exact acceptEdge_tableInv h e _
    · exact h

theorem pinChange_tableInv {s : State} (h : TableInv s) (e : EdgeIn) (v : Level) (n : Nat) :
    TableInv (s.pinChange e v n) := by
  unfold State.pinChange
  split
  · exact h
  · have hdue := acceptDue_tableInv (passClocks_tableInv h (16 * n - s.clock.divider)) e
    dsimp only
    split
    · exact setInput_tableInv hdue e _
    · split
      · exact acceptEdge_tableInv hdue e _
      · exact setInput_tableInv hdue e _

/-! ### Ends (R15, R16, R30, R31) -/

theorem endNow_tableOk {s : State} {L : Drive → List SlotIx} {G : Gate → List SlotIx} (h : s.TableOk L G)
    (cause : EndCause) : ∀ is : List SlotIx, (∀ i ∈ is, unlisted L G i) →
      (is.foldl (fun s i => s.endNow cause i) s).TableOk L G
  | is, hu => List.foldlRecOn (motive := fun u : State => u.TableOk L G) is _ h
      fun _ hok i hi => hok.endNow cause i (hu i hi)

theorem foldl_endNow_claim_of_not_mem (cause : EndCause) {is : List SlotIx} {j : SlotIx} (hj : j ∉ is) (s : State) :
    (is.foldl (fun s i => s.endNow cause i) s).claim j = s.claim j := by
  refine List.foldlRecOn (motive := fun u : State => u.claim j = s.claim j) is _ rfl fun u hu i hi => ?_
  exact (congrArg Slot.claim (endNow_slot_of_ne u cause fun e : j = i => hj (e ▸ hi))).trans hu

theorem endedBehind_claim {cause : EndCause} {ending t : List SlotIx} {j : SlotIx} (hj : j ∉ ending ∨ j ∉ t) (s : State) :
    (s.endedBehind cause ending t).claim j = s.claim j :=
  foldl_endNow_claim_of_not_mem cause (fun hm => by
    obtain ⟨ht, he⟩ := List.mem_filter.mp hm
    exact hj.elim (fun h => h (of_decide_eq_true he)) fun h => h ht) s

theorem endedBehind_driveLists (s : State) (cause : EndCause) (ending t : List SlotIx) :
    (s.endedBehind cause ending t).driveLists = s.driveLists := foldl_endNow_driveLists cause _ s

theorem endedBehind_gateLists (s : State) (cause : EndCause) (ending t : List SlotIx) :
    (s.endedBehind cause ending t).gateLists = s.gateLists :=
  foldl_keeps State.gateLists _ (fun u i => by simp) _ _

/-- What the ending claims of a channel's list come to, by its head (R16, R30, R31). -/
inductive EndsInDrive (s : State) (d : Drive) (cause : EndCause) (ending : List SlotIx) : State → Prop
  | none (h : ∀ i ∈ s.driveList d, i ∉ ending) : EndsInDrive s d cause ending s
  | leaves (h : SlotIx) (t : List SlotIx) (hl : s.driveList d = h :: t) (he : h ∈ ending)
    (hr : ∀ c, s.claim h = some c → c.state ≠ .retiring)
    (hrest : (t.filter fun i => decide (i ∉ ending)) ≠ [] ∨ (s.drives.get d).duty = 0) :
    EndsInDrive s d cause ending (((s.endedBehind cause ending t).endNow cause h).changeList d (some h)
      (t.filter fun i => decide (i ∉ ending)))
  | winds (h : SlotIx) (t : List SlotIx) (hl : s.driveList d = h :: t) (he : h ∈ ending)
    (hr : ∀ c, s.claim h = some c → c.state ≠ .retiring)
    (hrest : (t.filter fun i => decide (i ∉ ending)) = []) (hduty : (s.drives.get d).duty ≠ 0) :
    EndsInDrive s d cause ending ((((s.endedBehind cause ending t).beginEnd h cause).updClaim h
      fun c => { c with state := .retiring }).changeList d (some h) [h])
  | stays (h : SlotIx) (t : List SlotIx) (hl : s.driveList d = h :: t)
    (hor : h ∉ ending ∨ ∃ c, s.claim h = some c ∧ c.state = .retiring) :
    EndsInDrive s d cause ending ((s.endedBehind cause ending t).changeList d (some h)
      (h :: t.filter fun i => decide (i ∉ ending)))

theorem endInDrive_ends {s : State} {d : Drive} (hn : (s.driveList d).Nodup) (cause : EndCause) (ending : List SlotIx) :
    EndsInDrive s d cause ending (s.endInDrive d cause ending) := by
  by_cases hany : ∃ i ∈ s.driveList d, i ∈ ending
  · cases hl : s.driveList d with
    | nil =>
      rw [hl] at hany
      obtain ⟨i, hi, -⟩ := hany
      cases hi
    | cons h t =>
      have hht : h ∉ t := (List.nodup_cons.mp (hl ▸ hn)).1
      have hclaim : (s.endedBehind cause ending t).claim h = s.claim h := endedBehind_claim (.inr hht) s
      have hduty : ((s.endedBehind cause ending t).drives.get d).duty = (s.drives.get d).duty := by
        rw [State.endedBehind, foldl_keeps State.drives _ (fun u i => by simp)]
      rw [endInDrive_of_cons hl (hl ▸ hany), hduty]
      simp only [State.claimIs, hclaim]
      split
      · rename_i hend
        obtain ⟨he, hret⟩ := hend
        have hr : ∀ c, s.claim h = some c → c.state ≠ .retiring := fun c hc => by
          rw [hc] at hret
          simpa using hret
        split
        · rename_i hrest
          exact .leaves h t hl he hr hrest
        · rename_i hrest
          obtain ⟨hnil, hd⟩ := not_or.mp hrest
          exact .winds h t hl he hr (not_not.mp hnil) hd
      · rename_i hend
        refine .stays h t hl ?_
        by_cases he : h ∈ ending
        · right
          have hret := not_not.mp (not_and.mp hend he)
          cases hc : s.claim h with
          | none => rw [hc] at hret; cases hret
          | some c => rw [hc] at hret; exact ⟨c, rfl, by simpa using hret⟩
        · exact .inl he
  · rw [endInDrive_of_absent fun i hi he => hany ⟨i, hi, he⟩]
    exact .none fun i hi he => hany ⟨i, hi, he⟩

theorem endInDrive_tableInv {s : State} (h : TableInv s) (d : Drive) (cause : EndCause) (ending : List SlotIx) :
    TableInv (s.endInDrive d cause ending) := by
  have hbehind : ∀ {x : SlotIx} {t : List SlotIx}, s.driveList d = x :: t →
      (s.endedBehind cause ending t).TableOk (s.without d) s.gateList := fun hl =>
    endNow_tableOk (h.without d) cause _ fun i hi =>
      h.entry_unlisted (hl ▸ List.mem_cons_of_mem _ (List.mem_of_mem_filter hi))
  have hrest : ∀ {x : SlotIx} {t : List SlotIx}, s.driveList d = x :: t →
      ∀ j ∈ t.filter (fun i => decide (i ∉ ending)), j ≠ x ∧
        ∃ c, (s.endedBehind cause ending t).claim j = some c ∧ c.resource = .drive d ∧ c.state ≠ .spent := fun hl j hj => by
    obtain ⟨ht, he⟩ := List.mem_filter.mp hj
    rw [endedBehind_claim (.inl (of_decide_eq_true he))]
    exact h.tail_live hl j ht
  have hhead : ∀ {x : SlotIx} {t : List SlotIx}, s.driveList d = x :: t →
      ∃ c, (s.endedBehind cause ending t).claim x = some c ∧ c.resource = .drive d ∧ c.state ≠ .spent := fun hl => by
    rw [endedBehind_claim (.inr (h.tail_nodup hl).1)]
    exact h.live (hl ▸ List.mem_cons_self)
  have hnodup : ∀ {x : SlotIx} {t : List SlotIx}, s.driveList d = x :: t →
      (t.filter fun i => decide (i ∉ ending)).Nodup := fun hl => (h.tail_nodup hl).2.filter _
  have hends := endInDrive_ends (h.driveNodup d) cause ending
  generalize s.endInDrive d cause ending = v at hends ⊢
  cases hends with
  | none => exact h
  | leaves x t hl he hr hor =>
    have hx := h.entry_unlisted (hl ▸ List.mem_cons_self : x ∈ s.driveList d)
    refine changeList_tableInv ((hbehind hl).endNow cause x hx) ((State.endNow_driveLists _ _ _).trans
      (endedBehind_driveLists ..)) ((State.endNow_gateLists _ _ _).trans (endedBehind_gateLists ..)) _ (hnodup hl)
      fun j hj => ?_
    obtain ⟨hne, hc⟩ := hrest hl j hj
    rwa [show (State.endNow _ cause x).claim j = _ from congrArg Slot.claim (endNow_slot_of_ne _ cause hne)]
  | winds x t hl he hr hnil hduty =>
    obtain ⟨c, hc, hres, hst⟩ := hhead hl
    have hx := h.entry_unlisted (hl ▸ List.mem_cons_self : x ∈ s.driveList d)
    have hbegin := (hbehind hl).beginEnd x cause
    have hclaim : ((s.endedBehind cause ending t).beginEnd x cause).claim x =
        some { c with endCause := some cause, deadline := none } := by
      rw [State.beginEnd, State.updClaim_claim, if_pos rfl, hc]
      rfl
    refine changeList_tableInv (hbegin.upd x _ fun c' hc' => ?_) (endedBehind_driveLists ..) (endedBehind_gateLists ..) _
      (List.nodup_singleton x) fun j hj => ?_
    · rw [hclaim] at hc'
      cases hc'
      exact ⟨rfl, rfl, fun _ => .inl rfl, fun _ => .inr hx.2, fun hs => absurd hs hst⟩
    · rw [List.mem_singleton.mp hj, State.updClaim_claim, if_pos rfl, hclaim]
      exact ⟨_, rfl, hres, ClaimState.noConfusion⟩
  | stays x t hl hor =>
    have hx : x ∉ t.filter fun i => decide (i ∉ ending) := fun hm => (h.tail_nodup hl).1 (List.mem_of_mem_filter hm)
    refine changeList_tableInv (hbehind hl) (endedBehind_driveLists ..) (endedBehind_gateLists ..) _
      (List.nodup_cons.mpr ⟨hx, hnodup hl⟩) fun j hj => ?_
    rcases List.mem_cons.mp hj with rfl | hj
    · exact hhead hl
    · exact (hrest hl j hj).2

/-- A gate's list without its ending claims, the gate not evaluated yet (R15). -/
def State.gateListEnded (s : State) (g : Gate) (cause : EndCause) (ending : List SlotIx) : State :=
  { ((s.gateList g).filter fun i => decide (i ∈ ending)).foldl (fun s i => s.endNow cause i) s with
    gateLists := s.gateLists.set g ((s.gateList g).filter fun i => decide (i ∉ ending)) }

theorem endInGate_of_present {s : State} {g : Gate} {ending : List SlotIx} (h : ∃ i ∈ s.gateList g, i ∈ ending)
    (cause : EndCause) : s.endInGate g cause ending = (s.gateListEnded g cause ending).evalGate g := by
  have hlists : (((s.gateList g).filter fun i => decide (i ∈ ending)).foldl (fun s i => s.endNow cause i) s).gateLists =
      s.gateLists := foldl_keeps State.gateLists _ (fun u i => by simp) _ _
  have hany : ((s.gateList g).any fun i => decide (i ∈ ending)) = true := by
    obtain ⟨i, hi, he⟩ := h
    exact List.any_eq_true.mpr ⟨i, hi, decide_eq_true he⟩
  unfold State.endInGate State.gateListEnded
  dsimp only
  rw [if_pos hany, hlists]

/-- A gate list's entry stands in no other list. -/
theorem TableInv.gateEntry_unlisted {s : State} (h : TableInv s) {g : Gate} {i : SlotIx} (hi : i ∈ s.gateList g) :
    unlisted s.driveList (fun k => if k = g then [] else s.gateList k) i := by
  obtain ⟨c, hc, hr, hst⟩ := h.gateEntry g i hi
  refine ⟨fun d hd => ?_, fun k hk => ?_⟩
  · obtain ⟨x, hx, hxr, -⟩ := h.driveEntry d i hd
    rw [hc] at hx
    cases hx
    rw [hr] at hxr
    cases hxr
  · dsimp only at hk
    split at hk
    · cases hk
    · rename_i hne
      obtain ⟨x, hx, hxr, -⟩ := h.gateEntry k i hk
      rw [hc] at hx
      cases hx
      rw [hr] at hxr
      exact hne (Resource.gate.inj hxr).symm

theorem gateListEnded_gateList (s : State) (g k : Gate) (cause : EndCause) (ending : List SlotIx) :
    (s.gateListEnded g cause ending).gateList k =
      if k = g then (s.gateList g).filter fun i => decide (i ∉ ending) else s.gateList k :=
  PerGate.get_set ..

theorem gateListEnded_claim {s : State} {g : Gate} {cause : EndCause} {ending : List SlotIx} {j : SlotIx}
    (hj : j ∉ s.gateList g ∨ j ∉ ending) : (s.gateListEnded g cause ending).claim j = s.claim j :=
  foldl_endNow_claim_of_not_mem cause (fun hm => by
    obtain ⟨hl, he⟩ := List.mem_filter.mp hm
    exact hj.elim (fun h => h hl) fun h => h (of_decide_eq_true he)) s

theorem gateListEnded_tableInv {s : State} (h : TableInv s) (g : Gate) (cause : EndCause) (ending : List SlotIx) :
    TableInv (s.gateListEnded g cause ending) := by
  have hless : s.TableOk s.driveList fun k => if k = g then [] else s.gateList k :=
    h.sublists (fun _ => List.Sublist.refl _) fun k => by
      split
      · exact List.nil_sublist _
      · exact List.Sublist.refl _
  have hok := endNow_tableOk hless cause ((s.gateList g).filter fun i => decide (i ∈ ending)) fun i hi =>
    h.gateEntry_unlisted (List.mem_of_mem_filter hi)
  have hdrives : (s.gateListEnded g cause ending).driveList = s.driveList :=
    State.driveList_eq (foldl_endNow_driveLists cause _ s)
  refine ⟨fun d i hi => ?_, fun d => ?_, fun k i hi => ?_, fun k => ?_, hok.final, hok.sorted, hok.barredEmpty⟩
  · rw [hdrives] at hi
    exact hok.driveEntry d i hi
  · rw [hdrives]
    exact h.driveNodup d
  · rw [gateListEnded_gateList] at hi
    split at hi
    · rename_i hk
      obtain ⟨hl, he⟩ := List.mem_filter.mp hi
      rw [gateListEnded_claim (.inr (of_decide_eq_true he))]
      exact hk ▸ h.gateEntry g i hl
    · rename_i hk
      exact hok.gateEntry k i (by rwa [if_neg hk])
  · rw [gateListEnded_gateList]
    split
    · exact (h.gateNodup g).filter _
    · exact h.gateNodup k

theorem endInGate_tableInv {s : State} (h : TableInv s) (g : Gate) (cause : EndCause) (ending : List SlotIx) :
    TableInv (s.endInGate g cause ending) := by
  by_cases hany : ∃ i ∈ s.gateList g, i ∈ ending
  · rw [endInGate_of_present hany]
    exact evalGate_tableInv (gateListEnded_tableInv h g cause ending) g
  · rwa [endInGate_of_absent fun i hi he => hany ⟨i, hi, he⟩]

/-- What ends outside the lists is a COMPLETE drive claim or an ACTIVE sense claim. -/
theorem endOutsideLists_cases (s : State) (cause : EndCause) (i : SlotIx) :
    s.endOutsideLists cause i = s ∨ ∃ c, s.claim i = some c ∧
      ((∃ d, c.resource = .drive d ∧ c.state = .complete ∧ s.endOutsideLists cause i = s.endNow cause i) ∨
        (∃ ch, c.resource = .analog ch ∧ c.state = .active ∧
          s.endOutsideLists cause i = (s.endNow cause i).dropDemand ch i) ∨
        ∃ e, c.resource = .edge e ∧ c.state = .active ∧ s.endOutsideLists cause i = s.endNow cause i) := by
  cases hc : s.claim i with
  | none =>
    left
    simp only [State.endOutsideLists, hc]
  | some c =>
    cases hr : c.resource with
    | drive d =>
      by_cases hs : c.state = .complete
      · exact .inr ⟨c, rfl, .inl ⟨d, hr, hs, endOutsideLists_of_complete hc hr hs cause⟩⟩
      · left
        simp only [State.endOutsideLists, hc, hr, if_neg hs]
    | gate g =>
      left
      simp only [State.endOutsideLists, hc, hr]
    | analog ch =>
      by_cases hs : c.state = .active
      · exact .inr ⟨c, rfl, .inr (.inl ⟨ch, hr, hs, endOutsideLists_of_analog hc hr hs cause⟩)⟩
      · left
        simp only [State.endOutsideLists, hc, hr, if_neg hs]
    | edge e =>
      by_cases hs : c.state = .active
      · exact .inr ⟨c, rfl, .inr (.inr ⟨e, hr, hs, endOutsideLists_of_edge hc hr hs cause⟩)⟩
      · left
        simp only [State.endOutsideLists, hc, hr, if_neg hs]

theorem endNow_tableInv {s : State} (h : TableInv s) (cause : EndCause) {i : SlotIx}
    (hi : unlisted s.driveList s.gateList i) : TableInv (s.endNow cause i) := by
  have hok := State.TableOk.endNow h cause i hi
  unfold TableInv
  rwa [State.driveList_eq (s.endNow_driveLists cause i), State.gateList_eq (s.endNow_gateLists cause i)]

theorem dropDemand_tableInv {s : State} (h : TableInv s) (c : AnalogCh) (i : SlotIx) : TableInv (s.dropDemand c i) :=
  tableInv_congr (by simp) (by simp) (by simp) (by simp) (by simp) h

theorem endOutsideLists_tableInv {s : State} (h : TableInv s) (cause : EndCause) (i : SlotIx) :
    TableInv (s.endOutsideLists cause i) := by
  rcases endOutsideLists_cases s cause i with heq | ⟨c, hc, ⟨d, hr, hs, heq⟩ | ⟨ch, hr, hs, heq⟩ | ⟨e, hr, hs, heq⟩⟩ <;>
    rw [heq]
  · exact h
  · exact endNow_tableInv h cause (h.unlisted_of_state hc (by rw [hs]; rfl) (by rw [hs]; exact ClaimState.noConfusion))
  · exact dropDemand_tableInv (endNow_tableInv h cause (h.unlisted_of_sense hc (.inl (by rw [hr]; rfl)))) ch i
  · exact endNow_tableInv h cause (h.unlisted_of_sense hc (.inr (by rw [hr]; rfl)))

theorem endClaims_tableInv {s : State} (h : TableInv s) (cause : EndCause) (ending : List SlotIx) :
    TableInv (s.endClaims cause ending) := by
  have hdrives : ∀ (ds : List Drive) {u : State}, TableInv u →
      TableInv (ds.foldl (fun s d => s.endInDrive d cause ending) u) := fun ds u hu =>
    List.foldlRecOn (motive := TableInv) ds _ hu fun v hv d _ => endInDrive_tableInv hv d cause ending
  have hgates : ∀ (gs : List Gate) {u : State}, TableInv u →
      TableInv (gs.foldl (fun s g => s.endInGate g cause ending) u) := fun gs u hu =>
    List.foldlRecOn (motive := TableInv) gs _ hu fun v hv g _ => endInGate_tableInv hv g cause ending
  unfold State.endClaims
  exact List.foldlRecOn (motive := TableInv) ending _ (hdrives _ (hgates _ (hdrives _ h)))
    fun v hv i _ => endOutsideLists_tableInv hv cause i

theorem expire_tableInv {s : State} (h : TableInv s) (i : SlotIx) : TableInv (s.expire i) := by
  unfold State.expire
  split
  · exact h
  · split
    · exact endClaims_tableInv h _ _
    · split
      · exact endClaims_tableInv (nextTick_tableInv h true) _ _
      · exact h

theorem timed_tableInv {s t : State} (hs : TableInv s) (h : Timed s t) : TableInv t := by
  cases h with
  | advance => exact edgeAdvance_tableInv (scheduleAdvance_tableInv (takeCount_tableInv hs))
  | expire i => exact expire_tableInv hs i
  | periodEnd g ho n => exact gatePeriodEnd_tableInv (passClocks_tableInv hs n) g
  | complete f hf v n => exact complete_tableInv (passClocks_tableInv hs n) f _
  | pinChange e v n => exact pinChange_tableInv hs e v n
  | accept e p hp n => exact acceptEdge_tableInv (passClocks_tableInv hs n) e p.stamp
  | trip g => exact takeTrip_tableInv hs g
  | clocks => exact passClocks_tableInv hs 1

/-! ### Requests -/

/-- A live gate claim, in no list, placed in its gate's list by its class (R35, R25). -/
theorem insertGate_tableInv {s : State} (h : TableInv s) {g : Gate} {i : SlotIx} {c : Claim} (hc : s.claim i = some c)
    (hr : c.resource = .gate g) (hst : c.state = .active) (hi : i ∉ s.gateList g) :
    TableInv { s with gateLists := s.gateLists.set g (s.insertByClass i (s.gateList g)) } := by
  have hlist : ∀ k, State.gateList { s with gateLists := s.gateLists.set g (s.insertByClass i (s.gateList g)) } k =
      if k = g then s.insertByClass i (s.gateList g) else s.gateList k := fun k => PerGate.get_set ..
  refine ⟨h.driveEntry, h.driveNodup, fun k j hj => ?_, fun k => ?_, h.final, h.sorted, h.barredEmpty⟩
  · rw [hlist] at hj
    split at hj
    · rename_i hk
      rcases (mem_insertByClass s i j _).mp hj with rfl | hj
      · exact ⟨c, hc, hk ▸ hr, hst⟩
      · exact hk ▸ h.gateEntry g j hj
    · exact h.gateEntry k j hj
  · rw [hlist]
    split
    · exact insertByClass_nodup (h.gateNodup g) hi
    · exact h.gateNodup k

/-- A new claim handed to the block that owns its resource (R5, R27, R35). -/
theorem handOver_tableInv {s : State} (h : TableInv s) {i : SlotIx} {c : Claim} (hc : s.claim i = some c)
    (hst : c.state = match c.resource with | .drive _ => .standby | _ => .active)
    (hu : unlisted s.driveList s.gateList i) : TableInv (s.handOver c.resource i) := by
  cases hr : c.resource with
  | drive d =>
    rw [hr] at hst
    exact join_tableInv h hc hr (by rw [hst]; exact ClaimState.noConfusion) (hu.1 d)
  | gate g =>
    rw [hr] at hst
    exact evalGate_tableInv (insertGate_tableInv h hc hr hst (hu.2 g)) g
  | analog ch => exact h
  | edge e => exact h

theorem opened_tableInv {s : State} (h : TableInv s) {i : SlotIx} (hi : s.claim i = none) (l : Link) (r : Resource)
    (tag : BitVec 16) (f : ClaimFields) : TableInv ((s.putClaim i (s.newClaim l r tag f)).handOver r i) := by
  have hput := putClaim_tableInv h hi (s.newClaim l r tag f)
  refine handOver_tableInv hput (c := s.newClaim l r tag f) (by rw [State.putClaim_claim, if_pos rfl]) ?_ ?_
  · cases r <;> rfl
  · exact ⟨fun d => free_not_mem_driveList h hi d, fun g => free_not_mem_gateList h hi g⟩

theorem amended_tableInv {s : State} (h : TableInv s) {i : SlotIx} {c : Claim} (hc : s.claim i = some c)
    (f : ClaimFields) : TableInv ((s.putClaim i (s.amendedClaim c f)).handAmended c i) := by
  have hput := putClaim_tableInv_of_same h hc (c' := s.amendedClaim c f) rfl rfl rfl
  unfold State.handAmended
  split
  · rename_i d hr
    split
    · rename_i hs
      refine join_tableInv (c := s.amendedClaim c f) hput (by rw [State.putClaim_claim, if_pos rfl]) hr
        (show c.state ≠ .spent by rw [hs]; exact ClaimState.noConfusion) ?_
      exact (h.unlisted_of_state hc (by rw [hs]; rfl) (by rw [hs]; exact ClaimState.noConfusion)).1 d
    · exact hput
  · exact evalGate_tableInv hput _
  · exact hput
  · exact hput

/-- Slots freed whose claims stand in no list and have no final notice pending. -/
theorem tableInv_of_freed {s t : State} (h : TableInv s) (hd : t.driveLists = s.driveLists)
    (hg : t.gateLists = s.gateLists) (hn : ∀ l, (t.notices.get l).Sublist (s.notices.get l))
    (hclaim : ∀ i c, s.claim i = some c → t.claim i = some c ∨ c.state = .spent ∧
      ∀ l, ∀ e ∈ t.notices.get l, e.final = true → e.slot ≠ i)
    (hbarred : ∀ l, t.barred l = true → t.notices.get l = []) : TableInv t := by
  refine ⟨fun d i hi => ?_, fun d => ?_, fun g i hi => ?_, fun g => ?_, fun l e he hf => ?_, fun l => ?_, hbarred⟩
  · rw [State.driveList_congr hd] at hi
    obtain ⟨c, hc, hr, hst⟩ := h.driveEntry d i hi
    exact ⟨c, (hclaim i c hc).resolve_right fun ⟨hs, _⟩ => ne_spent_of_listed hst hs, hr, hst⟩
  · rw [State.driveList_congr hd]
    exact h.driveNodup d
  · rw [State.gateList_congr hg] at hi
    obtain ⟨c, hc, hr, hst⟩ := h.gateEntry g i hi
    have hlive : c.state ≠ .spent := by
      rw [hst]
      exact ClaimState.noConfusion
    exact ⟨c, (hclaim i c hc).resolve_right fun ⟨hs, _⟩ => hlive hs, hr, hst⟩
  · rw [State.gateList_congr hg]
    exact h.gateNodup g
  · obtain ⟨c, hc, ho, hst⟩ := h.final l e ((hn l).subset he) hf
    exact ⟨c, (hclaim e.slot c hc).resolve_right fun ⟨_, hno⟩ => hno l e he hf rfl, ho, hst⟩
  · exact (h.sorted l).sublist (hn l)

theorem tookNotices_tableInv {s : State} (h : TableInv s) (l : Link) :
    TableInv (((s.notices.get l).take 6).foldl State.takeEntry
      { s with notices := s.notices.set l ((s.notices.get l).drop 6) }) := by
  have hports : ∀ m, State.barred (((s.notices.get l).take 6).foldl State.takeEntry
      { s with notices := s.notices.set l ((s.notices.get l).drop 6) }) m = s.barred m := fun m =>
    State.barred_congr (foldl_keeps State.ports State.takeEntry (fun u e => u.takeEntry_ports e) _ _) m
  have hsub : ∀ m, ((s.notices.set l ((s.notices.get l).drop 6)).get m).Sublist (s.notices.get m) := fun m => by
    rw [PerLink.get_set]
    split
    · rename_i e
      exact e ▸ List.drop_sublist 6 _
    · exact List.Sublist.refl _
  refine tableInv_of_freed h (foldl_keeps State.driveLists State.takeEntry (fun u e => u.takeEntry_driveLists e) _ _)
    (foldl_keeps State.gateLists State.takeEntry (fun u e => u.takeEntry_gateLists e) _ _) (fun m => ?_)
    (fun i c hc => ?_) fun m hm => ?_
  · rw [takeNotices_notices]
    exact hsub m
  · rw [takeNotices_claim (h.sorted l)]
    split
    · rename_i hx
      obtain ⟨x, hx, hxf, rfl⟩ := hx
      obtain ⟨d, hd, -, hst⟩ := h.final l x (List.mem_of_mem_take hx) hxf
      rw [hc] at hd
      cases hd
      refine .inr ⟨hst, fun m e he hf heq => ?_⟩
      rw [takeNotices_notices] at he
      obtain ⟨d, hd, ho, -⟩ := h.final m e ((hsub m).subset he) hf
      exact takeNotices_kept (h.sorted l) (fun m e he hf => by
        obtain ⟨d, hd, ho, -⟩ := h.final m e he hf
        exact ⟨d, hd, ho⟩) he hx hxf ⟨d, hd, ho⟩ heq.symm
    · exact .inl hc
  · rw [hports] at hm
    rw [takeNotices_notices]
    have hnil := h.barredEmpty m hm
    exact List.sublist_nil.mp (hnil ▸ hsub m)

theorem barLink_tableInv {s : State} (h : TableInv s) (l : Link) : TableInv (s.barLink l) := by
  refine tableInv_of_freed h (s.barLink_driveLists l) (s.barLink_gateLists l) (fun m => ?_) (fun i c hc => ?_)
    fun m hm => ?_
  · rw [barLink_notices, PerLink.get_set]
    split
    · exact List.nil_sublist _
    · exact List.Sublist.refl _
  · rw [barLink_claim]
    split
    · rename_i hspent
      obtain ⟨d, hd, ho, hst⟩ := hspent
      rw [hc] at hd
      cases hd
      refine .inr ⟨hst, fun m e he hf hei => ?_⟩
      rw [barLink_notices, PerLink.get_set] at he
      split at he
      · cases he
      · rename_i hm
        obtain ⟨d, hd, hdo, -⟩ := h.final m e he hf
        rw [hei, hc] at hd
        cases hd
        exact hm (hdo.symm.trans ho)
    · exact .inl hc
  · rw [barLink_notices, PerLink.get_set]
    split
    · rfl
    · rename_i hne
      rw [barLink_barred] at hm
      exact h.barredEmpty m (by simpa [hne] using hm)

/-- A claim of a barred link passes to another link: it has no final notice pending (R173 step 5). -/
theorem handOverPinned_tableInv {s : State} (h : TableInv s) {i : SlotIx} {c : Claim} (hc : s.claim i = some c)
    (hb : s.barred c.owner = true) : TableInv (s.handOverPinned i) := by
  refine post_tableInv (s := s.updClaim i _) ?_ rfl i
  have hclaim : ∀ j, ∃ f : Claim → Claim, (∀ d, (f d).resource = d.resource ∧ (f d).state = d.state) ∧
      (j ≠ i → f = id) ∧ (State.updClaim s i fun c => { c with
        owner := s.setup.authority,
        tag := if (s.tagSlot s.setup.authority c.tag).isSome then 0#16 else c.tag }).claim j = (s.claim j).map f := by
    intro j
    by_cases hj : j = i
    · refine ⟨fun c => { c with
        owner := s.setup.authority,
        tag := if (s.tagSlot s.setup.authority c.tag).isSome then 0#16 else c.tag }, fun d => ⟨rfl, rfl⟩,
        fun hne => absurd hj hne, ?_⟩
      rw [State.updClaim_claim, if_pos hj, hj]

    · exact ⟨id, fun d => ⟨rfl, rfl⟩, fun _ => rfl, by rw [State.updClaim_claim, if_neg hj, Option.map_id_fun, id]⟩
  refine ⟨fun d j hj => ?_, h.driveNodup, fun g j hj => ?_, h.gateNodup, fun l e he hf => ?_, h.sorted, h.barredEmpty⟩
  · obtain ⟨x, hx, hr, hst⟩ := h.driveEntry d j hj
    obtain ⟨f, hf, -, heq⟩ := hclaim j
    exact ⟨f x, by rw [heq, hx]; rfl, (hf x).1.trans hr, by rwa [(hf x).2]⟩
  · obtain ⟨x, hx, hr, hst⟩ := h.gateEntry g j hj
    obtain ⟨f, hf, -, heq⟩ := hclaim j
    exact ⟨f x, by rw [heq, hx]; rfl, (hf x).1.trans hr, (hf x).2.trans hst⟩
  · obtain ⟨x, hx, ho, hst⟩ := h.final l e he hf
    have hne : e.slot ≠ i := fun hei => by
      rw [hei, hc] at hx
      cases hx
      rw [State.updClaim_notices, ← ho, h.barredEmpty _ hb] at he
      cases he
    obtain ⟨f, -, hid, heq⟩ := hclaim e.slot
    exact ⟨x, by rw [heq, hx, hid hne]; rfl, ho, hst⟩

theorem evictLink_tableInv {s : State} (h : TableInv s) (l : Link) : TableInv (s.evictLink l) := by
  have hend : TableInv (s.evicting l) := endClaims_tableInv (barLink_tableInv h l) _ _
  have hover := foldl_handOverPinned_keeps (P := TableInv) (l := l)
    (fun u i c hu hc ho _ hb => handOverPinned_tableInv hu hc (ho ▸ hb)) _ (pinnedOf_nodup (s.evicting l) l)
    (fun i hi => mem_pinnedOf hi) (evicting_barred s l) hend
  rw [evictLink_eq]
  generalize List.foldl _ _ _ = u at hover ⊢
  exact tableInv_congr (s := u) rfl rfl rfl rfl rfl hover

theorem change_tableInv {s t : State} (hs : TableInv s) (h : Change s t) : TableInv t := by
  have hsame : ∀ {u : State}, u.slots = s.slots → u.notices = s.notices → u.ports = s.ports →
      u.driveLists = s.driveLists → u.gateLists = s.gateLists → TableInv u := fun h1 h2 h3 h4 h5 =>
    tableInv_congr h1 h2 h3 h4 h5 hs
  cases h with
  | nothing => exact hs
  | read i => exact updRun_tableInv hs i Claim.readByOwner_same readByOwner_state
  | tookNotices l => exact tookNotices_tableInv hs l
  | opened l body r i f h => exact opened_tableInv hs h.room.1 l r _ f
  | amended body l i c f h hf => exact amended_tableInv hs h.claim f
  | renewed i c hc hu ho => exact State.TableOk.upd_same hs i _ fun _ => ⟨rfl, rfl, rfl⟩
  | renewedAll l =>
    exact List.foldlRecOn (motive := TableInv) _ State.renewClaim hs fun u hu i _ =>
      State.TableOk.upd_same hu i _ fun _ => ⟨rfl, rfl, rfl⟩
  | retired l body i c h => exact endClaims_tableInv hs _ _
  | droppedAll l hrun =>
    exact tableInv_congr (s := s.endClaims .retire (s.endable l)) rfl rfl rfl rfl rfl (endClaims_tableInv hs _ _)
  | cleared g src hrun => exact removeHold_tableInv hs g src
  | tested g src hrun => exact takeHold_tableInv hs g _
  | pinned i c hc ho => exact State.TableOk.upd_same hs i _ fun _ => ⟨rfl, rfl, rfl⟩
  | evicted l hl hrun => exact evictLink_tableInv hs l
  | admitted l =>
    refine ⟨hs.driveEntry, hs.driveNodup, hs.gateEntry, hs.gateNodup, hs.final, hs.sorted, fun m hm => ?_⟩
    change ((s.ports.set l { s.ports.get l with barred := false }).get m).barred = true at hm
    rw [PerLink.get_set] at hm
    split at hm
    · cases hm
    · exact hs.barredEmpty m hm
  | reach | window | filter | polarity | locked => exact hsame rfl rfl rfl rfl rfl

theorem tableInv_readsParts : ReadsParts TableInv := fun s q n r p hs hp =>
  ⟨hs.driveEntry, hs.driveNodup, hs.gateEntry, hs.gateNodup, hs.final, hs.sorted, fun l hl =>
    hs.barredEmpty l ((hp l).symm.trans hl)⟩

theorem step_tableInv {s t : State} (hs : TableInv s) (h : step s = .next t) : TableInv t :=
  step_keeps_parts tableInv_readsParts (fun auth pins csLow => by
    obtain ⟨-, htable, -⟩ := released_invariants auth pins csLow
    exact htable) (fun _ _ => change_tableInv) (fun _ _ => timed_tableInv) hs h

theorem step_noticeInv {s t : State} (hs : TableInv s ∧ NoticeInv s) (h : step s = .next t) :
    TableInv t ∧ NoticeInv t := by
  refine step_keeps_parts (P := fun u => TableInv u ∧ NoticeInv u) (fun s q n r p hs hp => ?_)
    (fun auth pins csLow => ?_) (fun u v hu hv => ?_) (fun u v hu hv => ?_) hs h
  · exact ⟨tableInv_readsParts s q n r p hs.1 hp, noticeInv_congr (s := s) rfl rfl hs.2⟩
  · obtain ⟨stop, table, list, quota, tag, config, marks, arbiter, clock, auth, gate, range, life, notice, port⟩ :=
      released_invariants auth pins csLow
    exact ⟨table, notice⟩
  · exact ⟨change_tableInv hu.1 hv, (change_noticeBook ⟨hu.2, hu.1.barredEmpty⟩ hu.1 hv).inv⟩
  · exact ⟨timed_tableInv hu.1 hv, (noticeBook_keptByWork.timed ⟨hu.2, hu.1.barredEmpty⟩ hv).inv⟩

/-- Settles O53. -/
theorem stepKeepsTableAndNotices : Obligations.StepKeepsTableAndNotices :=
  ⟨fun _ _ => step_tableInv, fun _ _ ht hn h => (step_noticeInv ⟨ht, hn⟩ h).2⟩




end Sys2Proof.Machine
end

section
/-! SUPPORT and PROOFS. Each gate follows its votes and holds, over every change and event. -/

namespace Sys2Proof.Machine

/-! ### The votes that a gate reads (R35, R41, R49) -/

/-- Two states in which a gate reads the same votes: the same list, with the same bodies. -/
structure State.SameVotes (s t : State) (g : Gate) : Prop where
  list : t.gateList g = s.gateList g
  votes : ∀ i ∈ s.gateList g, (t.claim i).bind Claim.gateBody? = (s.claim i).bind Claim.gateBody?

theorem State.SameVotes.refl (s : State) (g : Gate) : s.SameVotes s g := ⟨rfl, fun _ _ => rfl⟩

theorem State.SameVotes.trans {s t u : State} {g : Gate} (h : s.SameVotes t g) (k : t.SameVotes u g) : s.SameVotes u g where
  list := k.list.trans h.list
  votes i hi := (k.votes i (h.list ▸ hi)).trans (h.votes i hi)

theorem gateBody?_of_body {c d : Claim} (h : d.payload.body = c.payload.body) :
    Claim.gateBody? d = Claim.gateBody? c := by
  unfold Claim.gateBody?
  cases hc : c.payload <;> cases hd : d.payload <;> rw [hc, hd] at h <;> cases h <;> rfl

/-- Entries that stand before and after with their bodies are the same votes. -/
theorem sameVotes_of_bodies {s t : State} (ht : TableInv t) {g : Gate} (hl : t.gateList g = s.gateList g)
    (hbody : ∀ i ∈ s.gateList g, ∀ d, t.claim i = some d → ∃ c, s.claim i = some c ∧ d.payload.body = c.payload.body) :
    s.SameVotes t g := by
  refine ⟨hl, fun i hi => ?_⟩
  obtain ⟨d, hd, -⟩ := ht.gateEntry g i (hl ▸ hi)
  obtain ⟨c, hc, hb⟩ := hbody i hi d hd
  rw [hd, hc]
  exact gateBody?_of_body hb

theorem sameVotes_of_descends {s t : State} (ht : TableInv t) (hd : s.Descends t) {g : Gate}
    (hl : t.gateList g = s.gateList g) : s.SameVotes t g :=
  sameVotes_of_bodies ht hl fun i _ d hd' => by
    obtain ⟨c, hc, hsame⟩ := hd i d hd'
    exact ⟨c, hc, hsame.body⟩

theorem State.SameVotes.gateBodies {s t : State} {g : Gate} (h : s.SameVotes t g) : t.gateBodies g = s.gateBodies g := by
  unfold State.gateBodies
  rw [h.list]
  exact List.filterMap_congr h.votes

theorem findSome?_congr {α β : Type} {f k : α → Option β} : ∀ {l : List α}, (∀ x ∈ l, f x = k x) →
    l.findSome? f = l.findSome? k
  | [], _ => rfl
  | x :: xs, h => by
    rw [List.findSome?_cons, List.findSome?_cons, h x List.mem_cons_self,
      findSome?_congr fun y hy => h y (List.mem_cons_of_mem x hy)]

theorem State.SameVotes.supplier {s t : State} {g : Gate} (h : s.SameVotes t g) : t.supplier g = s.supplier g := by
  unfold State.supplier State.offeredPeriod
  rw [h.list]
  exact findSome?_congr fun i hi => by rw [h.votes i hi]

/-! ### A gate that follows its votes and holds -/

/-- `GateInv` of one gate. -/
structure State.Follows (s : State) (g : Gate) : Prop where
  opens : s.gateIsOpen g = s.openCondition g
  close : (s.gates.get g).close = s.closeFor g
  period : s.gateIsOpen g = true →
    (s.gates.get g).staged.or (s.gates.get g).applied = (s.supplier g).map Prod.snd
  holds : ((s.gates.get g).holds.map TripHold.source).Nodup

theorem gateInv_iff (s : State) : GateInv s ↔ ∀ g, s.Follows g :=
  ⟨fun h g => ⟨h.opens g, h.close g, h.period g, h.holds g⟩,
    fun h => ⟨fun g => (h g).opens, fun g => (h g).close, fun g => (h g).period, fun g => (h g).holds⟩⟩

/-- A gate unit as it reads for its votes: open state, close pattern, period to come, and the holds' sources and
patterns. -/
structure GateReads (u v : GateUnit) : Prop where
  isOpen : v.isOpen = u.isOpen
  close : v.close = u.close
  period : v.staged.or v.applied = u.staged.or u.applied
  sources : v.holds.map TripHold.source = u.holds.map TripHold.source
  patterns : v.holds.map TripHold.pattern = u.holds.map TripHold.pattern

theorem GateReads.of_eq {u v : GateUnit} (h : v = u) : GateReads u v := by
  subst h
  exact ⟨rfl, rfl, rfl, rfl, rfl⟩

theorem GateReads.trans {u v w : GateUnit} (h : GateReads u v) (k : GateReads v w) : GateReads u w :=
  ⟨k.isOpen.trans h.isOpen, k.close.trans h.close, k.period.trans h.period, k.sources.trans h.sources,
    k.patterns.trans h.patterns⟩

theorem run_reads (n : Nat) (u : GateUnit) : GateReads u (GateUnit.run n u) := by
  unfold GateUnit.run
  split <;> exact ⟨rfl, rfl, rfl, rfl, rfl⟩

theorem wrap_reads (u : GateUnit) : GateReads u (GateUnit.wrap u) := by
  unfold GateUnit.wrap
  refine GateReads.trans ?_ (run_reads _ _)
  exact ⟨rfl, rfl, Option.none_or, rfl, rfl⟩

theorem openCondition_congr {s t : State} {g : Gate} (hv : s.SameVotes t g)
    (hs : (t.gates.get g).holds.map TripHold.source = (s.gates.get g).holds.map TripHold.source) :
    t.openCondition g = s.openCondition g := by
  have hempty : (t.gates.get g).holds.isEmpty = (s.gates.get g).holds.isEmpty := by
    rw [← List.isEmpty_map (f := TripHold.source), hs, List.isEmpty_map]
  unfold State.openCondition
  rw [hv.gateBodies, hempty]

theorem closeFor_congr {s t : State} {g : Gate} (hv : s.SameVotes t g)
    (hp : (t.gates.get g).holds.map TripHold.pattern = (s.gates.get g).holds.map TripHold.pattern) :
    t.closeFor g = s.closeFor g := by
  have hany : ∀ holds : List TripHold, (holds.any fun h => decide (h.pattern = .brake)) =
      (holds.map TripHold.pattern).any fun p => decide (p = .brake) := fun holds => by
    rw [List.any_map]
    rfl
  unfold State.closeFor
  rw [hv.gateBodies, hany, hp, ← hany]

theorem State.Follows.congr {s t : State} {g : Gate} (h : s.Follows g) (hv : s.SameVotes t g)
    (hr : GateReads (s.gates.get g) (t.gates.get g)) : t.Follows g where
  opens := by
    rw [openCondition_congr hv hr.sources, ← h.opens]
    exact hr.isOpen
  close := by rw [closeFor_congr hv hr.patterns, ← h.close, hr.close]
  period ho := by
    rw [hv.supplier, ← h.period (hr.isOpen.symm.trans ho), hr.period]
  holds := by
    rw [hr.sources]
    exact h.holds

/-- A gate that has evaluated its condition follows its votes and holds (R41, R48, R49). -/
theorem evalGate_follows {s : State} {g : Gate} (hv : s.SameVotes (s.evalGate g) g)
    (hn : ((s.gates.get g).holds.map TripHold.source).Nodup) : (s.evalGate g).Follows g := by
  have hholds := s.evalGate_holds g
  have hcond := openCondition_congr hv (by rw [hholds])
  have hclose := closeFor_congr hv (by rw [hholds])
  refine ⟨(s.evalGate_isOpen g).trans hcond.symm, ?_, fun ho => ?_, by rwa [hholds]⟩
  · rw [hclose]
    unfold State.evalGate
    split <;> split <;> simp
  · have hopen : s.openCondition g = true := (s.evalGate_isOpen g).symm.trans ho
    rw [hv.supplier]
    obtain ⟨i, p, hsup⟩ := supplier_of_openCondition hopen
    cases hwas : s.gateIsOpen g with
    | true =>
      rw [evalGate_of_steadyOpen hwas hopen, State.stagePeriod_gates, PerGate.get_set, if_pos rfl, hsup]
      dsimp only [Option.map_some]
      split
      · rename_i heq
        rw [Option.none_or, heq]
      · rfl
    | false =>
      rw [evalGate_of_opening hwas hopen, State.openGate_gates, PerGate.get_set, if_pos rfl, hsup]
      rfl

/-! ### Changes that leave the gates' lists and units -/

/-- Both gates follow, in a table that agrees. -/
structure GatesFollow (s : State) : Prop where
  table : TableInv s
  gate : ∀ g, s.Follows g

theorem GatesFollow.congr {s t : State} (h : GatesFollow s) (ht : TableInv t) (hd : s.Descends t)
    (hl : t.gateLists = s.gateLists) (hr : ∀ g, GateReads (s.gates.get g) (t.gates.get g)) : GatesFollow t :=
  ⟨ht, fun g => (h.gate g).congr (sameVotes_of_descends ht hd (State.gateList_congr hl g)) (hr g)⟩

theorem GatesFollow.evalGate {s u : State} {g : Gate} (hu : TableInv u) (hn : ((u.gates.get g).holds.map TripHold.source).Nodup)
    (hother : ∀ k, k ≠ g → s.Follows k ∧ s.SameVotes u k ∧ u.gates.get k = s.gates.get k) :
    GatesFollow (u.evalGate g) := by
  have ht := evalGate_tableInv hu g
  have hvotes : ∀ k, u.SameVotes (u.evalGate g) k := fun k =>
    sameVotes_of_descends ht (u.evalGate_descends g) (State.gateList_congr (u.evalGate_gateLists g) k)
  refine ⟨ht, fun k => ?_⟩
  by_cases hk : k = g
  · subst hk
    exact evalGate_follows (hvotes k) hn
  · obtain ⟨hs, hv, hg⟩ := hother k hk
    exact hs.congr (hv.trans (hvotes k)) (.of_eq ((u.evalGate_other g k hk).trans hg))

theorem setHolds_follow {s : State} (h : GatesFollow s) (g : Gate) {holds : List TripHold}
    (hn : (holds.map TripHold.source).Nodup) :
    GatesFollow ((s.setGate g { s.gates.get g with holds := holds }).evalGate g) := by
  refine GatesFollow.evalGate (s := s) (setGate_tableInv h.table g _) ?_ fun k hk => ⟨h.gate k, ⟨rfl, fun _ _ => rfl⟩, ?_⟩
  · rw [State.setGate_gates, PerGate.get_set, if_pos rfl]
    exact hn
  · rw [State.setGate_gates, PerGate.get_set, if_neg hk]

theorem takeHold_follow {s : State} (h : GatesFollow s) (g : Gate) (x : TripHold) : GatesFollow (s.takeHold g x) :=
  setHolds_follow h g (addHold_nodup x (h.gate g).holds)

theorem removeHold_follow {s : State} (h : GatesFollow s) (g : Gate) (src : Source) : GatesFollow (s.removeHold g src) :=
  setHolds_follow h g ((List.filter_sublist.map _).nodup (h.gate g).holds)

theorem frame_follow {s t : State} (h : GatesFollow s) (hslots : t.slots = s.slots) (hn : t.notices = s.notices)
    (hp : t.ports = s.ports) (hd : t.driveLists = s.driveLists) (hl : t.gateLists = s.gateLists)
    (hg : t.gates = s.gates) : GatesFollow t :=
  h.congr (tableInv_congr hslots hn hp hd hl h.table) (.of_slots hslots) hl fun g => .of_eq (by rw [hg])

theorem takeTrip_follow {s : State} (h : GatesFollow s) (g : Gate) : GatesFollow (s.takeTrip g) := by
  have htable := takeTrip_tableInv h.table g
  revert htable
  unfold State.takeTrip
  split
  · exact fun _ => h
  · rename_i t ts _
    intro htable
    have htrips : GatesFollow { s with trips := s.trips.set g ts } := frame_follow h rfl rfl rfl rfl rfl rfl
    exact (takeHold_follow htrips g (s.holdOf t)).congr htable (.of_slots (by simp)) (by simp) fun k => .of_eq (by simp)

/-! ### Ends (R15, R41) -/

theorem endInDrive_follow {s : State} (h : GatesFollow s) (d : Drive) (cause : EndCause) (ending : List SlotIx) :
    GatesFollow (s.endInDrive d cause ending) :=
  h.congr (endInDrive_tableInv h.table d cause ending) (s.endInDrive_descends d cause ending) (by simp)
    fun g => .of_eq (by simp)

theorem gateListEnded_descends (s : State) (g : Gate) (cause : EndCause) (ending : List SlotIx) :
    s.Descends (s.gateListEnded g cause ending) :=
  State.Descends.slots_eq (State.foldl_descends (fun s i => s.endNow cause i) (fun u i => u.endNow_descends cause i)
    ((s.gateList g).filter fun i => decide (i ∈ ending)) s) rfl

theorem gateListEnded_gates (s : State) (g : Gate) (cause : EndCause) (ending : List SlotIx) :
    (s.gateListEnded g cause ending).gates = s.gates :=
  foldl_keeps State.gates (fun s i => s.endNow cause i) (fun u i => u.endNow_gates cause i) _ _

theorem endInGate_follow {s : State} (h : GatesFollow s) (g : Gate) (cause : EndCause) (ending : List SlotIx) :
    GatesFollow (s.endInGate g cause ending) := by
  by_cases hany : ∃ i ∈ s.gateList g, i ∈ ending
  · have htable := gateListEnded_tableInv h.table g cause ending
    rw [endInGate_of_present hany]
    refine GatesFollow.evalGate (s := s) htable ?_ fun k hk => ⟨h.gate k, ?_, ?_⟩
    · rw [gateListEnded_gates]
      exact (h.gate g).holds
    · refine sameVotes_of_descends htable (gateListEnded_descends s g cause ending) ?_
      rw [gateListEnded_gateList, if_neg hk]
    · rw [gateListEnded_gates]
  · rwa [endInGate_of_absent fun i hi he => hany ⟨i, hi, he⟩]

theorem endOutsideLists_follow {s : State} (h : GatesFollow s) (cause : EndCause) (i : SlotIx) :
    GatesFollow (s.endOutsideLists cause i) :=
  h.congr (endOutsideLists_tableInv h.table cause i) (s.endOutsideLists_descends cause i) (by simp)
    fun g => .of_eq (by simp)

theorem endClaims_follow {s : State} (h : GatesFollow s) (cause : EndCause) (ending : List SlotIx) :
    GatesFollow (s.endClaims cause ending) := by
  have hdrives : ∀ (ds : List Drive) {u : State}, GatesFollow u →
      GatesFollow (ds.foldl (fun s d => s.endInDrive d cause ending) u) := fun ds u hu =>
    List.foldlRecOn (motive := GatesFollow) ds _ hu fun v hv d _ => endInDrive_follow hv d cause ending
  have hgates : ∀ (gs : List Gate) {u : State}, GatesFollow u →
      GatesFollow (gs.foldl (fun s g => s.endInGate g cause ending) u) := fun gs u hu =>
    List.foldlRecOn (motive := GatesFollow) gs _ hu fun v hv g _ => endInGate_follow hv g cause ending
  unfold State.endClaims
  exact List.foldlRecOn (motive := GatesFollow) ending _ (hdrives _ (hgates _ (hdrives _ h)))
    fun v hv i _ => endOutsideLists_follow hv cause i

/-! ### Events -/

theorem passClocks_follow {s : State} (h : GatesFollow s) (n : Nat) : GatesFollow (s.passClocks n) :=
  h.congr (passClocks_tableInv h.table n) (.of_slots rfl) rfl fun g => by
    rw [State.passClocks_gates]
    exact run_reads _ _

theorem nextTick_follow {s : State} (h : GatesFollow s) (waits : Bool) : GatesFollow (s.nextTick waits) :=
  h.congr (nextTick_tableInv h.table waits) (.of_slots rfl) rfl fun g => by
    rw [State.nextTick_gates]
    exact run_reads _ _

theorem takeCount_reads (s : State) (g : Gate) : GateReads (s.gates.get g) (s.takeCount.gates.get g) := by
  rw [State.takeCount_gates]
  split
  · exact .of_eq rfl
  · exact run_reads _ _

theorem expire_follow {s : State} (h : GatesFollow s) (i : SlotIx) : GatesFollow (s.expire i) := by
  unfold State.expire
  split
  · exact h
  · split
    · exact endClaims_follow h _ _
    · split
      · exact endClaims_follow (nextTick_follow h true) _ _
      · exact h

theorem pinChange_reads (s : State) (e : EdgeIn) (v : Level) (n : Nat) (g : Gate) :
    GateReads (s.gates.get g) ((s.pinChange e v n).gates.get g) := by
  have hdue : GateReads (s.gates.get g) (((s.passToMicro n).acceptDue e).gates.get g) := by
    rw [State.acceptDue_gates, State.passToMicro, State.passClocks_gates]
    exact run_reads _ _
  unfold State.pinChange
  split
  · exact .of_eq rfl
  · dsimp only
    split
    · exact hdue
    · split
      · rw [State.acceptEdge_gates]
        exact hdue
      · exact hdue

theorem timed_follow {s t : State} (hs : GatesFollow s) (h : Timed s t) : GatesFollow t := by
  have ht := timed_tableInv hs.table h
  have hd := h.descends
  cases h with
  | advance =>
    refine hs.congr ht hd (by simp [State.advance]) fun g => ?_
    simp only [State.advance, State.edgeAdvance_gates, State.scheduleAdvance_gates]
    exact takeCount_reads s g
  | expire i => exact expire_follow hs i
  | periodEnd g ho n =>
    refine (passClocks_follow hs n).congr ht (State.gatePeriodEnd_descends _ g) (by simp) fun k => ?_
    rw [State.gatePeriodEnd_gates, PerGate.get_set]
    split
    · rename_i hk
      rw [hk]
      exact wrap_reads _
    · exact .of_eq rfl
  | complete f hf v n =>
    refine (passClocks_follow hs n).congr ht (State.complete_descends _ f _) (by simp) fun k => .of_eq ?_
    rw [show ((s.passClocks n).complete f v.toNat).gates = (s.passClocks n).gates from
      (State.decideIfFree_gates _).trans
        (foldl_keeps State.gates (fun s i => s.deliver f.channel v.toNat i) (fun s i => s.deliver_gates _ _ i) f.due _)]
  | pinChange e v n => exact hs.congr ht hd (by simp) fun g => pinChange_reads s e v n g
  | accept e p hp n =>
    exact (passClocks_follow hs n).congr ht (State.acceptEdge_descends _ e _) (by simp) fun k => .of_eq (by simp)
  | trip g => exact takeTrip_follow hs g
  | clocks => exact passClocks_follow hs 1

/-! ### Requests -/

theorem putClaim_sameVotes {s : State} {g : Gate} {i : SlotIx} (hi : i ∉ s.gateList g) (c : Claim) :
    s.SameVotes (s.putClaim i c) g :=
  ⟨rfl, fun j hj => by rw [State.putClaim_claim, if_neg fun e : j = i => hi (e ▸ hj)]⟩

/-- A claim that stands in no gate list leaves the gates' votes. -/
theorem putClaim_follow {s : State} (h : GatesFollow s) {i : SlotIx} (hi : ∀ g, i ∉ s.gateList g) {c : Claim}
    (ht : TableInv (s.putClaim i c)) : GatesFollow (s.putClaim i c) :=
  ⟨ht, fun g => (h.gate g).congr (putClaim_sameVotes (hi g) c) (.of_eq rfl)⟩

theorem join_follow {s : State} (h : GatesFollow s) {d : Drive} {i : SlotIx} (ht : TableInv (s.join d i)) :
    GatesFollow (s.join d i) :=
  h.congr ht (s.join_descends d i) (by simp) fun g => .of_eq (by simp)

theorem opened_follow {s : State} (h : GatesFollow s) {i : SlotIx} (hi : s.claim i = none) (l : Link) (r : Resource)
    (tag : BitVec 16) (f : ClaimFields) : GatesFollow ((s.putClaim i (s.newClaim l r tag f)).handOver r i) := by
  have ht := opened_tableInv h.table hi l r tag f
  have hnot := fun g => free_not_mem_gateList h.table hi g
  have hput := putClaim_follow h hnot (putClaim_tableInv h.table hi (s.newClaim l r tag f))
  cases r with
  | drive d => exact join_follow hput ht
  | gate g =>
    have hlist := insertGate_tableInv hput.table (i := i) (c := s.newClaim l (.gate g) tag f)
      (by rw [State.putClaim_claim, if_pos rfl]) rfl rfl (hnot g)
    refine GatesFollow.evalGate (s := s.putClaim i (s.newClaim l (.gate g) tag f)) hlist (hput.gate g).holds
      fun k hk => ⟨hput.gate k, ⟨?_, fun _ _ => rfl⟩, rfl⟩
    exact (PerGate.get_set ..).trans (if_neg hk)
  | analog c => exact hput
  | edge e => exact hput

/-- A claim that is no gate claim stands in no gate's list, and a gate claim in no other gate's. -/
theorem TableInv.not_mem_gateList {s : State} (h : TableInv s) {i : SlotIx} {c : Claim} (hc : s.claim i = some c)
    {g : Gate} (hr : c.resource ≠ .gate g) : i ∉ s.gateList g := fun hi => by
  obtain ⟨x, hx, hxr, -⟩ := h.gateEntry g i hi
  rw [hc] at hx
  cases hx
  exact hr hxr

theorem amended_follow {s : State} (h : GatesFollow s) {i : SlotIx} {c : Claim} (hc : s.claim i = some c)
    (f : ClaimFields) : GatesFollow ((s.putClaim i (s.amendedClaim c f)).handAmended c i) := by
  have ht := amended_tableInv h.table hc f
  have hput := putClaim_tableInv_of_same h.table hc (c' := s.amendedClaim c f) rfl rfl rfl
  revert ht
  unfold State.handAmended
  split
  · rename_i d hr
    have hfollow := putClaim_follow h (fun g => h.table.not_mem_gateList hc (by rw [hr]; exact Resource.noConfusion)) hput
    split
    · exact fun ht => join_follow hfollow ht
    · exact fun _ => hfollow
  · rename_i g hr
    refine fun _ => GatesFollow.evalGate (s := s) hput (h.gate g).holds fun k hk => ⟨h.gate k, ?_, rfl⟩
    exact putClaim_sameVotes (h.table.not_mem_gateList hc fun e => hk (Resource.gate.inj (e.symm.trans hr))) _
  · rename_i ch hr
    exact fun _ => putClaim_follow h
      (fun g => h.table.not_mem_gateList hc (by rw [hr]; exact Resource.noConfusion)) hput
  · rename_i e hr
    exact fun _ => putClaim_follow h
      (fun g => h.table.not_mem_gateList hc (by rw [hr]; exact Resource.noConfusion)) hput

theorem tookNotices_follow {s : State} (h : GatesFollow s) (l : Link) :
    GatesFollow (((s.notices.get l).take 6).foldl State.takeEntry
      { s with notices := s.notices.set l ((s.notices.get l).drop 6) }) :=
  h.congr (tookNotices_tableInv h.table l) (.fold (.of_slots rfl) _ State.takeEntry_descends _)
    (foldl_keeps State.gateLists State.takeEntry (fun u e => u.takeEntry_gateLists e) _ _)
    fun g => .of_eq (congrArg (fun p : PerGate GateUnit => p.get g)
      (foldl_keeps State.gates State.takeEntry (fun u e => u.takeEntry_gates e) _ _))

theorem handOverPinned_follow {s : State} (h : GatesFollow s) {i : SlotIx} (ht : TableInv (s.handOverPinned i)) :
    GatesFollow (s.handOverPinned i) := by
  refine ⟨ht, fun g => (h.gate g).congr (sameVotes_of_bodies ht rfl fun j _ d hd => ?_) (.of_eq rfl)⟩
  obtain ⟨c, hc, hsame⟩ := handOverPinned_descendsBy s i j d hd
  exact ⟨c, hc, (hsame.terms id).body⟩

theorem passHolds_reads (s : State) (l : Link) (g : Gate) :
    GateReads (s.gates.get g) ((s.passHolds l).gates.get g) := by
  have hpass : ∀ (h : TripHold), (TripHold.pass l s.setup.authority h).source = h.source ∧
      (TripHold.pass l s.setup.authority h).pattern = h.pattern := fun h => by
    unfold TripHold.pass
    split <;> exact ⟨rfl, rfl⟩
  have hmap : ∀ holds : List TripHold,
      (holds.map (TripHold.pass l s.setup.authority)).map TripHold.source = holds.map TripHold.source ∧
        (holds.map (TripHold.pass l s.setup.authority)).map TripHold.pattern = holds.map TripHold.pattern := fun holds => by
    rw [List.map_map, List.map_map]
    exact ⟨List.map_congr_left fun h _ => (hpass h).1, List.map_congr_left fun h _ => (hpass h).2⟩
  cases g <;> exact ⟨rfl, rfl, rfl, (hmap _).1, (hmap _).2⟩

theorem evictLink_follow {s : State} (h : GatesFollow s) (l : Link) : GatesFollow (s.evictLink l) := by
  have hbar : GatesFollow (s.barLink l) :=
    h.congr (barLink_tableInv h.table l) (s.barLink_descends l) (by simp) fun g => .of_eq (by simp)
  have hover := foldl_handOverPinned_keeps (P := GatesFollow) (l := l)
    (fun u i c hu hc ho _ hb => handOverPinned_follow hu (handOverPinned_tableInv hu.table hc (ho ▸ hb))) _
    (pinnedOf_nodup (s.evicting l) l) (fun i hi => mem_pinnedOf hi) (evicting_barred s l) (endClaims_follow hbar _ _)
  have ht := evictLink_tableInv h.table l
  rw [evictLink_eq] at ht ⊢
  generalize List.foldl _ _ _ = u at hover ht ⊢
  exact hover.congr ht (.of_slots rfl) rfl fun g => passHolds_reads u l g

theorem change_follow {s t : State} (hs : GatesFollow s) (h : Change s t) : GatesFollow t := by
  have ht := change_tableInv hs.table h
  have hdescends : ∀ {u : State}, TableInv u → s.Descends u → u.gateLists = s.gateLists → u.gates = s.gates →
      GatesFollow u := fun hu hd hl hg => hs.congr hu hd hl fun g => .of_eq (by rw [hg])
  cases h with
  | nothing => exact hs
  | read i => exact hdescends ht (s.updClaim_descends i _ Claim.readByOwner_same) rfl rfl
  | tookNotices l => exact tookNotices_follow hs l
  | opened l body r i f h => exact opened_follow hs h.room.1 l r _ f
  | amended body l i c f h hf => exact amended_follow hs h.claim f
  | renewed i c hc hu ho => exact hdescends ht (s.renewClaim_descends i) rfl rfl
  | renewedAll l =>
    exact hdescends ht (foldl_renewClaim_descends s _) (foldl_keeps State.gateLists State.renewClaim (fun _ _ => rfl) _ _)
      (foldl_keeps State.gates State.renewClaim (fun _ _ => rfl) _ _)
  | retired l body i c h => exact endClaims_follow hs _ _
  | droppedAll l hrun => exact frame_follow (endClaims_follow hs .retire (s.endable l)) rfl rfl rfl rfl rfl rfl
  | cleared g src hrun => exact removeHold_follow hs g src
  | tested g src hrun => exact takeHold_follow hs g _
  | pinned i c hc ho =>
    refine ⟨ht, fun g => (hs.gate g).congr (sameVotes_of_bodies ht rfl fun j _ d hd => ?_) (.of_eq rfl)⟩
    obtain ⟨c, hc, hsame⟩ := pin_descendsBy s i j d hd
    exact ⟨c, hc, (hsame.terms id).body⟩
  | evicted l hl hrun => exact evictLink_follow hs l
  | admitted | reach | window | filter | polarity | locked => exact hdescends ht (.of_slots rfl) rfl rfl

theorem gatesFollow_readsParts : ReadsParts GatesFollow := fun s q n r p hs hp =>
  hs.congr (tableInv_readsParts s q n r p hs.table hp) (.of_slots rfl) rfl fun _ => .of_eq rfl

theorem step_gatesFollow {s t : State} (hs : GatesFollow s) (h : step s = .next t) : GatesFollow t :=
  step_keeps_parts gatesFollow_readsParts (fun auth pins csLow => by
    obtain ⟨stop, table, list, quota, tag, config, marks, arbiter, clock, auth, gate, -⟩ :=
      released_invariants auth pins csLow
    exact ⟨table, (gateInv_iff _).mp gate⟩) (fun _ _ => change_follow) (fun _ _ => timed_follow) hs h

/-- Settles O59. -/
theorem stepKeepsGatesWithVotes : Obligations.StepKeepsGatesWithVotes := fun s t ht hg h =>
  (gateInv_iff t).mpr (step_gatesFollow ⟨ht, (gateInv_iff s).mp hg⟩ h).gate


end Sys2Proof.Machine
end

section
/-! SUPPORT and PROOFS. Every field within the range its table gives, over every command. -/

namespace Sys2Proof.Machine

/-! ### Claims, periods and duties -/

theorem workRanged_of_claims {s t : State} (h : WorkRanged s) (hc : ∀ i d, t.claim i = some d → d.inRange)
    (hg : t.gates = s.gates) (hd : t.drives = s.drives) : WorkRanged t :=
  ⟨hc, fun g => by rw [hg]; exact h.periods g, fun d => by rw [hd]; exact h.duties d⟩

theorem finish_inRange {s : State} (h : ∀ i c, s.claim i = some c → c.inRange) (i : SlotIx) :
    ∀ j d, (s.finish i).claim j = some d → d.inRange := by
  intro j d hd
  by_cases hj : j = i
  · subst hj
    cases hc : s.claim j with
    | none =>
      rw [finish_of_none hc, hc] at hd
      cases hd
    | some c =>
      have hslot := finish_slot s j j
      rw [if_pos rfl, finished_of_some (x := s.slots[j]) hc] at hslot
      have hclaim := congrArg Slot.claim hslot
      rw [show (s.finish j).slots[j].claim = some d from hd] at hclaim
      split at hclaim <;> cases hclaim
      exact h j c hc
  · rw [finish_claim_of_ne s hj] at hd
    exact h j d hd

theorem workRanged_keptByWork : KeptByWork WorkRanged where
  frame s t h hslots _ _ hg hd :=
    workRanged_of_claims h (fun i d hc => h.claims i d (by rwa [State.claim_congr hslots] at hc)) hg hd
  upd s i f hf h := by
    refine workRanged_of_claims h (fun j d hd => ?_) rfl rfl
    rw [State.updClaim_claim] at hd
    split at hd
    · obtain ⟨c, hc, rfl⟩ := Option.map_eq_some_iff.mp hd
      exact (hf c hc).range (h.claims i c hc)
    · exact h.claims j d hd
  post s k i h := workRanged_of_claims (s := s) h h.claims rfl rfl
  finish s i h := workRanged_of_claims h (finish_inRange h.claims i) (s.finish_gates i) (s.finish_drives i)
  gate s g u hu h := by
    refine ⟨h.claims, fun k => ?_, h.duties⟩
    rw [State.setGate_gates, PerGate.get_set]
    split
    · exact hu h
    · exact h.periods k
  drive s d ch hch h := by
    refine ⟨h.claims, h.periods, fun e => ?_⟩
    change ((s.drives.set d ch).get e).ranged
    rw [PerDrive.get_set]
    split
    · exact hch h
    · exact h.duties e

theorem putClaim_workRanged {s : State} (h : WorkRanged s) (i : SlotIx) {c : Claim} (hc : c.inRange) :
    WorkRanged (s.putClaim i c) := by
  refine workRanged_of_claims h (fun j d hd => ?_) rfl rfl
  rw [State.putClaim_claim] at hd
  split at hd
  · cases hd
    exact hc
  · exact h.claims j d hd

theorem fresh0_inRange : AnalogRun.fresh0.inRange := by
  refine ⟨fun v h => ?_, fun v h => ?_, ?_, ?_, ?_⟩
  · cases h
  · cases h
  all_goals exact Nat.zero_le _

theorem start_inRange (v : Level) : (EdgeRun.start v).inRange := by
  refine ⟨fun p h => ?_, ?_, fun w h => ?_, ?_, ?_⟩
  · cases h
  · exact Nat.zero_le _
  · cases h
  all_goals exact Nat.zero_le _

/-- A claim of OPEN's fields in range is in range, its runtime fresh (R58, R109, R130). -/
theorem newClaim_inRange (s : State) (l : Link) {r : Resource} (tag : BitVec 16) {f : ClaimFields} (h : f.inRange r) :
    (s.newClaim l r tag f).inRange := by
  obtain ⟨hhold, hbody⟩ := h
  refine ⟨hhold, ?_, ?_⟩ <;> cases hb : f.body <;> rw [hb] at hbody <;>
    simp only [State.newClaim, State.payloadAtOpen, hb, Payload.body, Payload.runInRange]
  case refine_1.drive | refine_1.gate | refine_1.asense | refine_1.esense => exact hbody
  case refine_2.drive => exact le_refl _
  case refine_2.asense => exact fresh0_inRange
  case refine_2.esense => exact start_inRange _

theorem amended_inRange {r : AnalogRun} (h : r.inRange) : r.amended.inRange := by
  obtain ⟨hraw, hsm, -, -, hm⟩ := h
  exact ⟨hraw, hsm, Nat.zero_le _, Nat.zero_le _, hm⟩

theorem edgeAmended_inRange (old new : EdgeBody) (v : Level) {r : EdgeRun} (h : r.inRange) :
    (EdgeRun.amended old new v r).inRange := by
  obtain ⟨hper, hrun, hwin, -, -⟩ := h
  unfold EdgeRun.amended
  dsimp only
  split
  · exact start_inRange v
  · split
    · exact ⟨hper, Nat.zero_le _, hwin, Nat.zero_le _, Nat.zero_le _⟩
    · exact ⟨hper, hrun, hwin, Nat.zero_le _, Nat.zero_le _⟩

/-- A claim of AMEND's fields in range is in range, its runtime as its block changes it (R76, R119, R139). -/
theorem amendedClaim_inRange (s : State) {c : Claim} (hc : c.inRange) {f : ClaimFields} (h : f.inRange c.resource) :
    (s.amendedClaim c f).inRange := by
  obtain ⟨hhold, hbody⟩ := h
  obtain ⟨-, hcbody, hcrun⟩ := hc
  have hkind : f.body.kind = c.payload.body.kind := (kind_of_inRange hbody).trans (kind_of_inRange hcbody).symm
  refine ⟨hhold, ?_, ?_⟩ <;> cases hp : c.payload <;> cases hb : f.body <;> rw [hp] at hkind hcrun <;>
    rw [hb] at hkind hbody <;> cases hkind <;>
    simp only [State.amendedClaim, State.payloadAtAmend, hp, hb, Payload.body, Payload.runInRange]
  case refine_1.drive.drive | refine_1.gate.gate | refine_1.asense.asense | refine_1.esense.esense => exact hbody
  case refine_2.drive.drive => exact le_refl _
  case refine_2.asense.asense => exact amended_inRange hcrun
  case refine_2.esense.esense => exact edgeAmended_inRange _ _ _ hcrun

theorem openFields_inRange {r : Resource} {body : List Byte} {f : ClaimFields} (h : openFields? r body = some f) :
    f.inRange r := by
  unfold openFields? at h
  split at h
  · exact (claimFields_layout h).1
  · cases h

theorem freeSlot_workRanged {s : State} (h : WorkRanged s) (i : SlotIx) : WorkRanged (s.freeSlot i) := by
  refine workRanged_of_claims h (fun j d hd => ?_) rfl rfl
  rw [State.freeSlot_claim] at hd
  split at hd
  · cases hd
  · exact h.claims j d hd

theorem takeEntry_workRanged {s : State} (h : WorkRanged s) (e : NoticeEntry) : WorkRanged (s.takeEntry e) := by
  unfold State.takeEntry
  split
  · exact freeSlot_workRanged h _
  · exact h

theorem handOverPinned_workRanged {s : State} (h : WorkRanged s) (i : SlotIx) : WorkRanged (s.handOverPinned i) := by
  refine workRanged_of_claims h (fun j d hd => ?_) rfl rfl
  rw [handOverPinned_claim] at hd
  split at hd
  · obtain ⟨c, hc, rfl⟩ := Option.map_eq_some_iff.mp hd
    exact h.claims i c hc
  · exact h.claims j d hd

theorem evictLink_workRanged {s : State} (h : WorkRanged s) (l : Link) : WorkRanged (s.evictLink l) := by
  have hbar : WorkRanged (s.barLink l) :=
    workRanged_of_claims h (fun i d hd => by
      rw [barLink_claim] at hd
      split at hd
      · cases hd
      · exact h.claims i d hd) (s.barLink_gates l) (s.barLink_drives l)
  have hover := List.foldlRecOn (motive := WorkRanged) ((s.evicting l).pinnedOf l) State.handOverPinned
    (workRanged_keptByWork.endClaims hbar .retire (s.endable l)) fun u hu i _ => handOverPinned_workRanged hu i
  rw [evictLink_eq]
  change WorkRanged (List.foldl State.handOverPinned (s.evicting l) _) at hover
  generalize List.foldl _ _ _ = u at hover ⊢
  refine ⟨hover.claims, fun g => ?_, hover.duties⟩
  cases g with
  | gt => exact hover.periods .gt
  | gb => exact hover.periods .gb

theorem change_workRanged {s t : State} (hs : WorkRanged s) (h : Change s t) : WorkRanged t := by
  refine workRanged_keptByWork.change hs h (fun l => ?_) (fun l body r i f h => ?_) (fun body l i c f h hf => ?_)
    (fun l _ => evictLink_workRanged hs l) fun l => ?_
  · exact List.foldlRecOn (motive := WorkRanged) _ State.takeEntry (workRanged_of_claims (s := s) hs hs.claims rfl rfl)
      fun u hu e _ => takeEntry_workRanged hu e
  · exact putClaim_workRanged hs i (newClaim_inRange s l _ (openFields_inRange h.values))
  · exact putClaim_workRanged hs i (amendedClaim_inRange s (hs.claims i c h.claim) (claimFields_layout hf).1)
  · exact workRanged_of_claims (s := s) hs hs.claims rfl rfl

theorem workRanged_readsParts : ReadsParts WorkRanged := fun s _ _ _ _ hs _ =>
  workRanged_of_claims (s := s) hs hs.claims rfl rfl

theorem workRanged_of_rangeInv {s : State} (h : RangeInv s) : WorkRanged s := ⟨h.claims, h.periods, h.duties⟩

theorem step_workRanged {s t : State} (hs : WorkRanged s) (h : step s = .next t) : WorkRanged t :=
  step_keeps_parts workRanged_readsParts (fun auth pins csLow => by
    obtain ⟨stop, table, list, quota, tag, config, marks, arbiter, clock, auth, gate, range, -⟩ :=
      released_invariants auth pins csLow
    exact workRanged_of_rangeInv range) (fun _ _ => change_workRanged) (fun _ _ hu ht => workRanged_keptByWork.timed hu ht) hs h

/-! ### The setup store and the glitch filters -/

/-- A filter of an input, and that of its pending change (R127, R169). -/
def inputRanged (x : EdgeInput) : Prop := x.filter ≤ 15 ∧ ∀ p, x.pending = some p → p.filter ≤ 15

/-- The setup values and the filters in range (R168, R169). -/
structure SetupRanged (s : State) : Prop where
  quotas : ∀ l, (s.setup.reach.get l).quota ≤ 48
  windows : ∀ c : AnalogCh, 1 ≤ s.setup.windows[c] ∧ s.setup.windows[c] ≤ 32
  filters : ∀ e : EdgeIn, inputRanged s.inputs[e]

theorem setupRanged_congr {s t : State} (hs : t.setup = s.setup) (hi : t.inputs = s.inputs) (h : SetupRanged s) :
    SetupRanged t where
  quotas l := by rw [hs]; exact h.quotas l
  windows c := by
    have heq : t.setup.windows = s.setup.windows := by rw [hs]
    rw [heq]
    exact h.windows c
  filters e := by rw [hi]; exact h.filters e

theorem setInput_setupRanged {s : State} (h : SetupRanged s) (e : EdgeIn) {x : EdgeInput} (hx : inputRanged x) :
    SetupRanged (s.setInput e x) := by
  refine ⟨h.quotas, h.windows, fun j => ?_⟩
  change inputRanged (s.inputs.set e x)[j]
  rw [getElem_set_fin]
  split
  · exact hx
  · exact h.filters j

theorem acceptEdge_setupRanged {s : State} (h : SetupRanged s) (e : EdgeIn) (stamp : Count32) :
    SetupRanged (s.acceptEdge e stamp) := by
  have hinput : SetupRanged (s.setInput e ⟨s.inputs[e].level.flip, none, s.inputs[e].filter⟩) :=
    setInput_setupRanged h e ⟨(h.filters e).1, fun _ hp => nomatch hp⟩
  rw [(acceptEdge_accepted s e stamp).frame]
  exact ⟨hinput.quotas, hinput.windows, hinput.filters⟩

theorem passClocks_setupRanged {s : State} (h : SetupRanged s) (n : Nat) : SetupRanged (s.passClocks n) :=
  setupRanged_congr (s := s) rfl rfl h

theorem acceptDue_setupRanged {s : State} (h : SetupRanged s) (e : EdgeIn) : SetupRanged (s.acceptDue e) := by
  unfold State.acceptDue
  split
  · exact h
  · split
    · exact acceptEdge_setupRanged h e _
    · exact h

theorem pinChange_setupRanged {s : State} (h : SetupRanged s) (e : EdgeIn) (v : Level) (n : Nat) :
    SetupRanged (s.pinChange e v n) := by
  have hdue := acceptDue_setupRanged (passClocks_setupRanged h (16 * n - s.clock.divider)) e
  have hfilter := (hdue.filters e).1
  unfold State.pinChange
  split
  · exact h
  · dsimp only
    split
    · exact setInput_setupRanged hdue e ⟨hfilter, fun _ hp => nomatch hp⟩
    · split
      · exact acceptEdge_setupRanged hdue e _
      · exact setInput_setupRanged hdue e ⟨hfilter, fun p hp => Option.some.inj hp ▸ hfilter⟩

theorem timed_setupRanged {s t : State} (hs : SetupRanged s) (h : Timed s t) : SetupRanged t := by
  have hsetup := h.setup
  cases h with
  | pinChange e v n => exact pinChange_setupRanged hs e v n
  | accept e p hp n => exact acceptEdge_setupRanged (passClocks_setupRanged hs n) e p.stamp
  | advance => exact setupRanged_congr hsetup (by simp [State.advance]) hs
  | expire | periodEnd | complete | trip | clocks => exact setupRanged_congr hsetup (by simp) hs

theorem reachBody_quota {body : List Byte} {l : Link} {m : Reach} (h : reachBody? body = some (l, m)) : m.quota ≤ 48 := by
  unfold reachBody? at h
  split at h
  · cases h
  simp only [Option.bind_eq_bind, Option.bind_eq_some_iff, within_some] at h
  obtain ⟨_, _, _, _, _, _, _, _, _, _, quota, ⟨rfl, -, hq⟩, h⟩ := h
  split at h
  · cases h
    exact hq
  · cases h

theorem windowBody_range {body : List Byte} {c : AnalogCh} {w : Nat} (h : windowBody? body = some (c, w)) :
    1 ≤ w ∧ w ≤ 32 := by
  unfold windowBody? at h
  split at h
  · cases h
  simp only [Option.bind_eq_bind, Option.bind_eq_some_iff, within_some] at h
  obtain ⟨_, _, w', ⟨rfl, hw⟩, h⟩ := h
  cases h
  exact hw

theorem filterBody_range {body : List Byte} {e : EdgeIn} {f : Nat} (h : filterBody? body = some (e, f)) : f ≤ 15 := by
  unfold filterBody? at h
  split at h
  · cases h
  simp only [Option.bind_eq_bind, Option.bind_eq_some_iff, within_some] at h
  obtain ⟨_, _, f', ⟨rfl, -, hf⟩, h⟩ := h
  cases h
  exact hf

theorem setReachRequest_ranged {s : State} (h : SetupRanged s) (l : Link) (body : List Byte) :
    SetupRanged (s.setReachRequest l body).state := by
  refine bySetup_holds h l ?_
  split
  · exact h
  · rename_i m r hbody
    refine ⟨fun k => ?_, h.windows, h.filters⟩
    change ((s.setup.reach.set m r).get k).quota ≤ 48
    rw [PerLink.get_set]
    split
    · exact reachBody_quota hbody
    · exact h.quotas k

theorem setAnalogRequest_ranged {s : State} (h : SetupRanged s) (l : Link) (body : List Byte) :
    SetupRanged (s.setAnalogRequest l body).state := by
  refine bySetup_holds h l ?_
  split
  · exact h
  · rename_i c w hbody
    refine ⟨h.quotas, fun k => ?_, h.filters⟩
    change 1 ≤ (s.setup.windows.set c w)[k] ∧ (s.setup.windows.set c w)[k] ≤ 32
    rw [getElem_set_fin]
    split
    · exact windowBody_range hbody
    · exact h.windows k

theorem setEdgeRequest_ranged {s : State} (h : SetupRanged s) (l : Link) (body : List Byte) :
    SetupRanged (s.setEdgeRequest l body).state := by
  refine bySetup_holds h l ?_
  split
  · exact h
  · rename_i e f hbody
    exact setInput_setupRanged h e ⟨filterBody_range hbody, (h.filters e).2⟩

theorem setDriveRequest_ranged {s : State} (h : SetupRanged s) (l : Link) (body : List Byte) :
    SetupRanged (s.setDriveRequest l body).state := by
  refine bySetup_holds h l ?_
  split
  · exact h
  · exact ⟨h.quotas, h.windows, h.filters⟩

theorem lockSetupRequest_ranged {s : State} (h : SetupRanged s) (l : Link) (body : List Byte) :
    SetupRanged (s.lockSetupRequest l body).state := by
  refine bySetup_holds h l ?_
  split
  · exact h
  · exact ⟨h.quotas, h.windows, h.filters⟩

/-- A request that CONFIG refuses leaves the setup store in RUN and everything in CONFIG (R170). -/
theorem change_setupRanged {s : State} (hs : SetupRanged s) {a : Answer} (h : Change s a.state)
    (hconfig : s.setup.part = .config → a.state = s) : SetupRanged a.state := by
  cases hp : s.setup.part with
  | config => rwa [hconfig hp]
  | run =>
    obtain ⟨h1, h2⟩ := h.setup_of_run hp
    exact setupRanged_congr h1 h2 hs

theorem takeRequest_setupRanged {s t : State} (hs : SetupRanged s) {l : Link} {code : Byte} {body : List Byte}
    {answer : State → Answer} (h : SetupRanged (answer s).state)
    (heq : (.next (s.takeRequest l code body answer) : Host.Outcome State Fault Refusal) = .next t) : SetupRanged t := by
  cases heq
  exact takeRequest_holds (fun u _ _ hu => setupRanged_congr (s := u) rfl rfl hu) hs l code body h

theorem takeNoticesRequest_ranged {s : State} (h : SetupRanged s) (l : Link) (body : List Byte) :
    SetupRanged (s.takeNoticesRequest l body).state := by
  unfold State.takeNoticesRequest
  split
  · exact h
  · exact setupRanged_congr (s := s) (foldl_keeps State.setup State.takeEntry (fun u e => u.takeEntry_setup e) _ _)
      (foldl_keeps State.inputs State.takeEntry (fun u e => u.takeEntry_inputs e) _ _) h

theorem takeByCode_setupRanged {s t : State}
 (hs : SetupRanged s) {l : Link} {code : Byte} {body : List Byte}
    (h : takeByCode l code body s = .next t) : SetupRanged t := by
  have hreport : ∀ {answer : State → Answer} {code body}, (answer s).state = s →
      (.next (s.takeRequest l code body answer) : Host.Outcome State Fault Refusal) = .next t → SetupRanged t :=
    fun hst => takeRequest_setupRanged hs (by rwa [hst])
  have hchange : ∀ {answer : State → Answer} {code body}, Change s (answer s).state →
      (s.setup.part = .config → (answer s).state = s) →
      (.next (s.takeRequest l code body answer) : Host.Outcome State Fault Refusal) = .next t → SetupRanged t :=
    fun hc hcfg => takeRequest_setupRanged hs (change_setupRanged hs hc hcfg)
  have hrun : ∀ k, s.setup.part = .config → (s.inRun k).state = s := fun k hp => by
    simp [State.inRun, hp, State.refuse]
  have hauth : ∀ k, s.setup.part = .config → (s.byAuthority l k).state = s := fun k hp => by
    unfold State.byAuthority
    split
    · rfl
    · exact hrun k hp
  unfold takeByCode at h
  split at h
  · exact hreport rfl h
  · exact hreport (s.statusRequest_state body) h
  · exact hreport (s.tripsRequest_state body) h
  · exact hreport (s.listRequest_state body) h
  · exact hchange (s.readRequest_change l body) (hrun _) h
  · exact hreport (s.lookupRequest_state l body) h
  · exact takeRequest_setupRanged hs (takeNoticesRequest_ranged hs l body) h
  · exact hchange (s.openRequest_change l body) (hrun _) h
  · exact hchange (s.amendRequest_change l body) (hrun _) h
  · split at h
    · exact hchange (s.renewAllRequest_change l) (hrun _) h
    · refine hchange ?_ (fun hp => ?_) h
      all_goals split
      · exact s.renewAllRequest_change l
      · exact s.renewRequest_change l body
      · exact hrun _ hp
      · exact hrun _ hp
  · exact hchange (s.retireRequest_change l body) (hrun _) h
  · exact hchange (s.dropAllRequest_change l body) (hrun _) h
  · exact hchange (s.clearTripRequest_change l body) (hrun _) h
  · exact hchange (s.testTripRequest_change l body) (hauth _) h
  · exact hchange (s.pinRequest_change l body) (hauth _) h
  · exact hchange (s.evictRequest_change l body) (hauth _) h
  · exact hchange (s.admitRequest_change l body) (hauth _) h
  · exact takeRequest_setupRanged hs (setReachRequest_ranged hs l body) h
  · exact takeRequest_setupRanged hs (setAnalogRequest_ranged hs l body) h
  · exact takeRequest_setupRanged hs (setEdgeRequest_ranged hs l body) h
  · exact takeRequest_setupRanged hs (setDriveRequest_ranged hs l body) h
  · exact takeRequest_setupRanged hs (lockSetupRequest_ranged hs l body) h
  · cases h
    exact hs

/-- Every request leaves the setup values and the filters in range. -/
theorem exec_request_setupRanged {c : Instr} (he : c.isEvent = false) {s t : State} (hs : SetupRanged s)
    (h : exec c s = .next t) : SetupRanged t := by
  cases c with
  | frameRefused l bits =>
    change execFrameRefused l bits s = .next t at h
    unfold execFrameRefused at h
    split at h
    · cases h
      exact hs
    · cases hf : frameError (s.received l ++ bits) with
      | none =>
        rw [riseOfCs_request hf] at h
        exact takeByCode_setupRanged hs h
      | some r =>
        rw [riseOfCs_error hf] at h
        cases h
        exact setupRanged_congr (s := s) rfl rfl hs
  | renew l body =>
    refine takeRequest_setupRanged hs (change_setupRanged hs ?_ fun hp => ?_) h
    all_goals split
    · exact s.renewAllRequest_change l
    · exact s.renewRequest_change l body
    · simp [State.renewAllRequest, State.inRun, hp, State.refuse]
    · simp [State.renewRequest, State.inRun, hp, State.refuse]
  | poll l body => exact takeByCode_setupRanged hs (code := 0x00#8) h
  | status l body => exact takeByCode_setupRanged hs (code := 0x01#8) h
  | trips l body => exact takeByCode_setupRanged hs (code := 0x02#8) h
  | list l body => exact takeByCode_setupRanged hs (code := 0x03#8) h
  | read l body => exact takeByCode_setupRanged hs (code := 0x04#8) h
  | lookup l body => exact takeByCode_setupRanged hs (code := 0x05#8) h
  | takeNotices l body => exact takeByCode_setupRanged hs (code := 0x06#8) h
  | openClaim l body => exact takeByCode_setupRanged hs (code := 0x10#8) h
  | amend l body => exact takeByCode_setupRanged hs (code := 0x11#8) h
  | renewAll l => exact takeByCode_setupRanged hs (code := 0x12#8) (body := []) h
  | retire l body => exact takeByCode_setupRanged hs (code := 0x13#8) h
  | dropAll l body => exact takeByCode_setupRanged hs (code := 0x14#8) h
  | clearTrip l body => exact takeByCode_setupRanged hs (code := 0x20#8) h
  | testTrip l body => exact takeByCode_setupRanged hs (code := 0x21#8) h
  | pin l body => exact takeByCode_setupRanged hs (code := 0x30#8) h
  | evict l body => exact takeByCode_setupRanged hs (code := 0x31#8) h
  | admitLink l body => exact takeByCode_setupRanged hs (code := 0x32#8) h
  | setReach l body => exact takeByCode_setupRanged hs (code := 0x40#8) h
  | setAnalog l body => exact takeByCode_setupRanged hs (code := 0x41#8) h
  | setEdge l body => exact takeByCode_setupRanged hs (code := 0x42#8) h
  | setDrive l body => exact takeByCode_setupRanged hs (code := 0x43#8) h
  | lockSetup l body => exact takeByCode_setupRanged hs (code := 0x44#8) h
  | powerOnReset | resetRelease | windowBegin | cadenceAdvance | holdExpiry | periodEnd | conversionComplete
  | edgePinChange | acceptedEdge | tripTaken | csRiseAfterReset => cases he

theorem setupRanged_of_rangeInv {s : State} (h : RangeInv s) : SetupRanged s := ⟨h.quotas, h.windows, h.filters⟩

theorem released_setupRanged (auth : Level) (pins : Vector Level 8) (csLow : PerLink Bool) :
    SetupRanged (State.released auth pins csLow) := by
  obtain ⟨stop, table, list, quota, tag, config, marks, arbiter, clock, authority, gate, range, -⟩ :=
    released_invariants auth pins csLow
  exact setupRanged_of_rangeInv range

/-- A part that is held in reset takes no other event than a power-on reset and the release (R171). -/
theorem exec_event_of_held_same {c : Instr} (he : c.isEvent = true) (hc : c ≠ .powerOnReset)
    (hc' : ∀ auth pins csLow, c ≠ .resetRelease auth pins csLow) {s t : State} (hr : s.resetHeld = true)
    (h : exec c s = .next t) : t = s := by
  have hif : ∀ {u v : State}, (if s.resetHeld = true then u else v) = u := fun {u v} => by simp [hr]
  cases c with
  | powerOnReset => exact absurd rfl hc
  | resetRelease auth pins csLow => exact absurd rfl (hc' auth pins csLow)
  | windowBegin l => cases h; exact if_pos (.inl hr)
  | csRiseAfterReset l => cases h; exact if_pos (.inl hr)
  | cadenceAdvance | holdExpiry | periodEnd | conversionComplete | edgePinChange | acceptedEdge | tripTaken =>
    cases h
    exact hif
  | _ => cases he

theorem exec_setupRanged {c : Instr} {s t : State} (hs : SetupRanged s) (h : exec c s = .next t) : SetupRanged t := by
  have hreset : ∀ {u : State} auth pins csLow, u.setup = (State.released auth pins csLow).setup →
      u.inputs = (State.released auth pins csLow).inputs → SetupRanged u := fun auth pins csLow h1 h2 =>
    setupRanged_congr h1 h2 (released_setupRanged auth pins csLow)
  cases he : c.isEvent with
  | false => exact exec_request_setupRanged he hs h
  | true =>
    by_cases hp : c = .powerOnReset
    · subst hp
      cases h
      exact hreset .low (Vector.replicate 8 .low) ⟨false, false, false⟩ rfl rfl
    by_cases hrel : ∃ auth pins csLow, c = .resetRelease auth pins csLow
    · obtain ⟨auth, pins, csLow, rfl⟩ := hrel
      cases h
      dsimp only
      split
      · exact hreset auth pins csLow rfl rfl
      · exact hs
    cases hr : s.resetHeld with
    | true =>
      rw [exec_event_of_held_same he hp (fun auth pins csLow e => hrel ⟨auth, pins, csLow, e⟩) hr h]
      exact hs
    | false =>
      rcases exec_event he hp hr h with rfl | ⟨l, p, rfl⟩ | ht
      · exact hs
      · exact setupRanged_congr (s := s) rfl rfl hs
      · exact timed_setupRanged hs ht

theorem step_setupRanged {s t : State} (hs : SetupRanged s) (h : step s = .next t) : SetupRanged t := by
  unfold step at h
  split at h
  · cases h
    unfold State.idle
    split
    · exact hs
    · exact passClocks_setupRanged hs 1
  · rename_i c rest _
    have hqueue : SetupRanged { s with pending := rest } := setupRanged_congr (s := s) rfl rfl hs
    exact exec_setupRanged hqueue h

theorem step_rangeInv {s t : State} (hs : RangeInv s) (h : step s = .next t) : RangeInv t := by
  have hwork := step_workRanged (workRanged_of_rangeInv hs) h
  have hsetup := step_setupRanged (setupRanged_of_rangeInv hs) h
  exact ⟨hwork.claims, hwork.periods, hwork.duties, hsetup.quotas, hsetup.windows, hsetup.filters⟩

/-! ### Counters, hold lists and clocks -/

/-- At most one hold per source: twenty sources, twelve analog channels and eight edge inputs (R51). -/
theorem length_le_of_sources_nodup {l : List Source} (h : l.Nodup) : l.length ≤ 20 := by
  have hsub : l ⊆ (List.finRange 12).map Source.analog ++ (List.finRange 8).map Source.edge := fun x _ => by
    cases x <;> simp
  have hle := (h.subperm hsub).length_le
  simpa using hle

theorem counter_le {u : GateUnit} (h : u.ok) (hr : u.ranged) :
    u.counter ≤ u.applied.getD 1 - 1 ∧ u.counter ≤ 65534 := by
  have hlast : u.counter ≤ u.applied.getD 1 - 1 := by
    cases ho : u.isOpen with
    | true => exact (h.1 ho).2.2.1
    | false => exact (h.2 ho).1 ▸ Nat.zero_le _
  have hperiod : u.applied.getD 1 ≤ 65535 := by
    cases ha : u.applied with
    | none => exact Nat.one_le_iff_ne_zero.mpr (by norm_num)
    | some p => exact (hr p (.inl ha)).2
  exact ⟨hlast, by omega⟩

/-- Settles O60. -/
theorem stepKeepsRanges : Obligations.StepKeepsRanges := by
  refine ⟨fun s t => step_rangeInv, fun s t hr hstop hclock htable hgate h => ⟨(step_clockInv hclock h).1, fun g => ?_⟩⟩
  have hrange := step_rangeInv hr h
  have hok := (step_stop hstop h).1 g

  have hholds := ((step_gatesFollow ⟨htable, (gateInv_iff s).mp hgate⟩ h).gate g).holds
  have hlen := length_le_of_sources_nodup hholds
  rw [List.length_map] at hlen
  obtain ⟨hlast, hmax⟩ := counter_le hok (hrange.periods g)
  exact ⟨hlast, hmax, hlen⟩

end Sys2Proof.Machine
end


section
/-! SUPPORT. Claims that stand in no list: the works on lists and on gates leave their slots. -/

namespace Sys2Proof.Machine

/-- A claim that its resource or its state keeps out of every list (R24, R35, R36). -/
def Claim.apart (c : Claim) : Prop :=
  c.resource.kind = .asense ∨ c.resource.kind = .esense ∨ c.state.listed = false ∧ c.state ≠ .active

theorem TableInv.unlisted_of_apart {s : State} (h : TableInv s) {i : SlotIx} {c : Claim} (hc : s.claim i = some c)
    (ha : Claim.apart c) : unlisted s.driveList s.gateList i := by
  rcases ha with hk | hk | ⟨h1, h2⟩
  · exact h.unlisted_of_sense hc (.inl hk)
  · exact h.unlisted_of_sense hc (.inr hk)
  · exact h.unlisted_of_state hc h1 h2

theorem endedBehind_slot {cause : EndCause} {ending t : List SlotIx} {j : SlotIx} (hj : j ∉ ending ∨ j ∉ t) (s : State) :
    (s.endedBehind cause ending t).slots[j] = s.slots[j] := by
  refine List.foldlRecOn (motive := fun u : State => u.slots[j] = s.slots[j]) _ _ rfl fun u hu i hi => ?_
  obtain ⟨ht, he⟩ := List.mem_filter.mp hi
  exact (endNow_slot_of_ne u cause fun e : j = i =>
    hj.elim (fun h => h (e ▸ of_decide_eq_true he)) fun h => h (e ▸ ht)).trans hu

theorem gateListEnded_slot {s : State} {g : Gate} {cause : EndCause} {ending : List SlotIx} {j : SlotIx}
    (hj : j ∉ s.gateList g ∨ j ∉ ending) : (s.gateListEnded g cause ending).slots[j] = s.slots[j] :=
  endedBehind_slot (t := s.gateList g) hj.symm s

/-- The ends in a channel's list leave the slots outside it. -/
theorem endInDrive_slot {s : State} {d : Drive} (hn : (s.driveList d).Nodup) {j : SlotIx} (hj : j ∉ s.driveList d)
    (cause : EndCause) (ending : List SlotIx) : (s.endInDrive d cause ending).slots[j] = s.slots[j] := by
  have houter : ∀ {x : SlotIx} {t : List SlotIx}, s.driveList d = x :: t → j ≠ x ∧ j ∉ t := fun hl =>
    List.ne_and_not_mem_of_not_mem_cons (hl ▸ hj)
  have hrest : ∀ {x : SlotIx} {t : List SlotIx}, s.driveList d = x :: t →
      (x :: t.filter fun i => decide (i ∉ ending)).Nodup ∧ j ∉ x :: t.filter fun i => decide (i ∉ ending) := fun hl => by
    refine ⟨?_, fun hm => hj (hl ▸ (List.filter_sublist.cons_cons _).subset hm)⟩
    exact (hl ▸ hn).sublist (List.filter_sublist.cons_cons _)
  have hends := endInDrive_ends hn cause ending
  generalize s.endInDrive d cause ending = v at hends ⊢
  cases hends with
  | none => rfl
  | leaves x t hl =>
    obtain ⟨hnd, hmem⟩ := hrest hl
    rw [changeList_slot_of_not_mem _ d _ (List.nodup_cons.mp hnd).2 (List.not_mem_of_not_mem_cons hmem),
      endNow_slot_of_ne _ cause (houter hl).1, endedBehind_slot (.inr (houter hl).2)]
  | winds x t hl =>
    have hjx : j ∉ [x] := List.not_mem_cons_of_ne_of_not_mem (houter hl).1 List.not_mem_nil
    rw [changeList_slot_of_not_mem _ d _ (List.nodup_singleton x) hjx, State.updClaim_slot, if_neg (houter hl).1,
      State.beginEnd, State.updClaim_slot, if_neg (houter hl).1, endedBehind_slot (.inr (houter hl).2)]
  | stays x t hl =>
    obtain ⟨hnd, hmem⟩ := hrest hl
    rw [changeList_slot_of_not_mem _ d _ hnd hmem, endedBehind_slot (.inr (houter hl).2)]

/-- The ends in a gate's list leave the slots that stand in no list. -/
theorem endInGate_slot {s : State} (hn : ∀ d, (s.driveList d).Nodup) {j : SlotIx}
    (hj : unlisted s.driveList s.gateList j) (g : Gate) (cause : EndCause) (ending : List SlotIx) :
    (s.endInGate g cause ending).slots[j] = s.slots[j] := by
  by_cases hany : ∃ i ∈ s.gateList g, i ∈ ending
  · have hlists : (s.gateListEnded g cause ending).driveLists = s.driveLists := foldl_endNow_driveLists cause _ s
    rw [endInGate_of_present hany, evalGate_slot_of_unlisted (fun d => State.driveList_congr hlists d ▸ hn d)
      (fun d => State.driveList_congr hlists d ▸ hj.1 d), gateListEnded_slot (.inl (hj.2 g))]
  · rw [endInGate_of_absent fun i hi he => hany ⟨i, hi, he⟩]

/-- The ends in the lists, before those outside them. -/
def State.endInLists (s : State) (cause : EndCause) (ending : List SlotIx) : State :=
  ([Drive.dl, .dr, .db].filter fun d => s.gateFirst ending d).foldl (fun s d => s.endInDrive d cause ending)
    ([Gate.gt, .gb].foldl (fun s g => s.endInGate g cause ending)
      (([Drive.dl, .dr, .db].filter fun d => !s.gateFirst ending d).foldl (fun s d => s.endInDrive d cause ending) s))

theorem endClaims_eq (s : State) (cause : EndCause) (ending : List SlotIx) : s.endClaims cause ending =
    ending.foldl (fun s i => s.endOutsideLists cause i) (s.endInLists cause ending) := rfl

theorem endInLists_keeps {P : State → Prop} {cause : EndCause} {ending : List SlotIx}
    (hd : ∀ u d, P u → P (u.endInDrive d cause ending)) (hg : ∀ u g, P u → P (u.endInGate g cause ending)) {s : State}
    (hs : P s) : P (s.endInLists cause ending) := by
  have hdrives : ∀ (ds : List Drive) {u : State}, P u → P (ds.foldl (fun s d => s.endInDrive d cause ending) u) :=
    fun ds u hu => List.foldlRecOn (motive := P) ds _ hu fun v hv d _ => hd v d hv
  exact hdrives _ (List.foldlRecOn (motive := P) _ _ (hdrives _ hs) fun v hv g _ => hg v g hv)

theorem endInLists_arbiter (s : State) (cause : EndCause) (ending : List SlotIx) :
    (s.endInLists cause ending).arbiter = s.arbiter :=
  endInLists_keeps (P := fun u => u.arbiter = s.arbiter) (fun u d h => (u.endInDrive_arbiter d cause ending).trans h)
    (fun u g h => (u.endInGate_arbiter g cause ending).trans h) rfl

theorem endInLists_tableInv {s : State} (h : TableInv s) (cause : EndCause) (ending : List SlotIx) :
    TableInv (s.endInLists cause ending) :=
  endInLists_keeps (P := TableInv) (fun _ d hu => endInDrive_tableInv hu d cause ending)
    (fun _ g hu => endInGate_tableInv hu g cause ending) h

theorem endInLists_slot_of_apart {s : State} (h : TableInv s) {i : SlotIx} {c : Claim} (hc : s.claim i = some c)
    (ha : Claim.apart c) (cause : EndCause) (ending : List SlotIx) :
    (s.endInLists cause ending).slots[i] = s.slots[i] := by
  refine (endInLists_keeps (P := fun u => TableInv u ∧ u.slots[i] = s.slots[i]) (fun u d hu => ?_) (fun u g hu => ?_)
    ⟨h, rfl⟩).2
  · obtain ⟨hu, hslot⟩ := hu
    have hout := hu.unlisted_of_apart ((claim_of_slot hslot).trans hc) ha
    exact ⟨endInDrive_tableInv hu d cause ending, (endInDrive_slot (hu.driveNodup d) (hout.1 d) cause ending).trans hslot⟩
  · obtain ⟨hu, hslot⟩ := hu
    have hout := hu.unlisted_of_apart ((claim_of_slot hslot).trans hc) ha
    exact ⟨endInGate_tableInv hu g cause ending, (endInGate_slot hu.driveNodup hout g cause ending).trans hslot⟩

theorem join_slot_of_not_mem {s : State} {d : Drive} {i j : SlotIx} (hn : (s.driveList d).Nodup) (hi : i ∉ s.driveList d)
    (hj : j ∉ s.driveList d) (hji : j ≠ i) : (s.join d i).slots[j] = s.slots[j] := by
  have hins : ∀ {l : List SlotIx}, l.Nodup → i ∉ l → j ∉ l → (s.insertByClass i l).Nodup ∧ j ∉ s.insertByClass i l :=
    fun hl hil hjl => ⟨insertByClass_nodup hl hil, fun hm =>
      ((mem_insertByClass s i j _).mp hm).elim (fun e => hji e) fun h => hjl h⟩
  cases hl : s.driveList d with
  | nil =>
    rw [join_of_empty hl]
    exact changeList_slot_of_not_mem s d _ (List.nodup_singleton i) (by simpa using hji)
  | cons x t =>
    rw [hl] at hn hi hj
    obtain ⟨hjx, hjt⟩ := List.ne_and_not_mem_of_not_mem_cons hj
    obtain ⟨hnt, hmt⟩ := hins (List.nodup_cons.mp hn).2 (List.not_mem_of_not_mem_cons hi) hjt
    obtain ⟨hnl, hml⟩ := hins hn hi hj
    unfold State.join
    simp only [hl]
    split
    · rw [changeList_slot_of_not_mem _ d _ hnt hmt, finish_slot, if_neg hjx]
    · split
      · rw [changeList_slot_of_not_mem _ d _ hnt hmt, completeClaim_slot_of_ne _ hjx]
      · exact changeList_slot_of_not_mem s d _ hnl hml

theorem gatePeriodEnd_slot_of_unlisted {s : State} {j : SlotIx} (hn : ∀ d, (s.driveList d).Nodup)
    (hj : ∀ d, j ∉ s.driveList d) (g : Gate) : (s.gatePeriodEnd g).slots[j] = s.slots[j] :=
  channelPeriodEnd_worksInList.foldl_slot (s := s.setGate g (GateUnit.wrap (s.gates.get g))) hn hj g

theorem takeTrip_slot_of_unlisted {s : State} {j : SlotIx} (hn : ∀ d, (s.driveList d).Nodup)
    (hj : ∀ d, j ∉ s.driveList d) (g : Gate) : (s.takeTrip g).slots[j] = s.slots[j] := by
  have hhold : ∀ (u : State) (x : TripHold), u.slots = s.slots → u.driveLists = s.driveLists →
      (u.takeHold g x).slots[j] = s.slots[j] := fun u x hs hl => by
    refine (evalGate_slot_of_unlisted (s := u.setGate g _) (fun d => ?_) (fun d => ?_) g).trans ?_
    · exact State.driveList_congr hl d ▸ hn d
    · exact State.driveList_congr hl d ▸ hj d
    · exact congrArg (fun v : Vector Slot 48 => v[j]) hs
  unfold State.takeTrip
  split
  · rfl
  · rename_i t ts _
    have htaken := hhold { s with trips := s.trips.set g ts } (s.holdOf t) rfl rfl
    generalize State.takeHold _ g _ = u at htaken ⊢
    refine Eq.trans ?_ htaken
    unfold State.postTrip
    split <;> rfl


end Sys2Proof.Machine
end

section
/-! PROOFS. The waiting requests and the marks over every change and event. -/

namespace Sys2Proof.Machine

/-! ### Marks (R105) -/

theorem marksInv_congr {s t : State} (h : t.arbiter = s.arbiter) (hs : MarksInv s) : MarksInv t := by
  unfold MarksInv
  rw [h]
  exact hs

theorem marksInv_of_waiting {s : State} (h : s.anyWaiting = true) : MarksInv s :=
  (marksInv_iff s).mpr fun hf => by rw [h] at hf; cases hf

theorem visit_waiting (s : State) (n : Nat) : (s.visit n).2.arbiter.waiting = s.arbiter.waiting := by
  have hmarks := fun x => foldl_setMark_waiting (s.levelList n) x s.arbiter
  unfold State.visit
  dsimp only
  split <;> split <;> simp only [setMark_waiting, hmarks]

/-- A grant leaves the marks clear where it leaves no request waiting. -/
theorem grant_marksInv {s : State} (h : s.anyWaiting = true) (c : AnalogCh) : MarksInv (s.grant c) := by
  cases hw : s.arbiter.waiting[c] with
  | none =>
    have hs : s.grant c = s := by unfold State.grant; rw [hw]
    rw [hs]
    exact marksInv_of_waiting h
  | some r =>
    rw [grant_of_waiting hw]
    exact marksIfEmpty_marksInv _

theorem follow_marksInv {s : State} (h : s.anyWaiting = true) {next : State → State}
    (hnext : ∀ u : State, u.anyWaiting = true → MarksInv (next u)) (n : Nat) :
    MarksInv ((s.visit n).2.follow (s.visit n).1 next) := by
  have hv : (s.visit n).2.anyWaiting = true := by
    rw [anyWaiting_iff, visit_waiting]
    exact (anyWaiting_iff s).mp h
  unfold State.follow
  split
  · exact marksInv_of_waiting hv
  · exact grant_marksInv hv _
  · exact hnext _ hv
  · exact hnext _ hv

theorem decideIfFree_marksInv {s : State} (h : MarksInv s) : MarksInv s.decideIfFree := by
  unfold State.decideIfFree
  split
  · rename_i hw
    have hany := (Bool.and_eq_true_iff.mp hw).2
    rw [decideGrant_eq]
    exact follow_marksInv hany (fun u hu => follow_marksInv hu (fun v hv =>
      follow_marksInv hv (fun w hw => marksInv_of_waiting hw) 3) 2) 1
  · exact h

/-- A due moment leaves the requests, or leaves its own waiting. -/
theorem dueMoment_marksInv {s : State} (h : MarksInv s) (c : AnalogCh) : MarksInv (s.dueMoment c) := by
  by_cases hdue : s.isDueOn c = true
  · refine marksInv_of_waiting ((anyWaiting_iff _).mpr ⟨c, ?_⟩)
    rw [dueMoment_waiting, if_pos rfl, State.requestAt, if_pos hdue]
    exact Option.some_ne_none _
  · rwa [dueMoment_of_not_due hdue]

theorem scheduleAdvance_marksInv {s : State} (h : MarksInv s) : MarksInv s.scheduleAdvance :=
  decideIfFree_marksInv (List.foldlRecOn (motive := MarksInv) allChannels State.dueMoment h
    fun u hu c _ => dueMoment_marksInv hu c)

theorem endOutsideLists_marksInv {s : State} (h : MarksInv s) (cause : EndCause) (i : SlotIx) :
    MarksInv (s.endOutsideLists cause i) := by
  have hend := marksInv_congr (s.endNow_arbiter cause i) h
  rcases endOutsideLists_cases s cause i with heq | ⟨c, hc, ⟨d, hr, hs, heq⟩ | ⟨ch, hr, hs, heq⟩ | ⟨e, hr, hs, heq⟩⟩ <;>
    rw [heq]
  · exact h
  · exact hend
  · exact marksIfEmpty_marksInv _
  · exact hend

theorem endClaims_marksInv {s : State} (h : MarksInv s) (cause : EndCause) (ending : List SlotIx) :
    MarksInv (s.endClaims cause ending) := by
  rw [endClaims_eq]
  exact List.foldlRecOn (motive := MarksInv) ending _ (marksInv_congr (endInLists_arbiter s cause ending) h)
    fun u hu i _ => endOutsideLists_marksInv hu cause i

theorem expire_marksInv {s : State} (h : MarksInv s) (i : SlotIx) : MarksInv (s.expire i) := by
  unfold State.expire
  split
  · exact h
  · split
    · exact endClaims_marksInv h _ _
    · split
      · exact endClaims_marksInv (s := s.nextTick true) h _ _
      · exact h

/-- The arbiter once the conversion in flight is delivered: the converter is free. -/
theorem complete_eq (s : State) (f : Conversion) (value : Nat) : s.complete f value = State.decideIfFree
    { f.due.foldl (fun s i => s.deliver f.channel value i) s with arbiter := { s.arbiter with inFlight := none } } := by
  have harb : (f.due.foldl (fun s i => s.deliver f.channel value i) s).arbiter = s.arbiter :=
    foldl_keeps State.arbiter (fun s i => s.deliver f.channel value i) (fun s i => s.deliver_arbiter _ _ i) f.due s
  unfold State.complete
  dsimp only
  rw [harb]

theorem timed_marksInv {s t : State} (hs : MarksInv s) (h : Timed s t) : MarksInv t := by
  cases h with
  | advance =>
    exact marksInv_congr (State.edgeAdvance_arbiter _) (scheduleAdvance_marksInv (marksInv_congr s.takeCount_arbiter hs))
  | expire i => exact expire_marksInv hs i
  | complete f hf v n =>
    rw [complete_eq]
    exact decideIfFree_marksInv hs
  | periodEnd g ho n => exact marksInv_congr ((s.passClocks n).gatePeriodEnd_arbiter g) hs
  | pinChange e v n => exact marksInv_congr (s.pinChange_arbiter e v n) hs
  | accept e p hp n => exact marksInv_congr ((s.passClocks n).acceptEdge_arbiter e p.stamp) hs
  | trip g => exact marksInv_congr (s.takeTrip_arbiter g) hs
  | clocks => exact hs

theorem tookNotices_arbiter (s : State) (l : Link) : (((s.notices.get l).take 6).foldl State.takeEntry
    { s with notices := s.notices.set l ((s.notices.get l).drop 6) }).arbiter = s.arbiter :=
  foldl_keeps State.arbiter State.takeEntry (fun u e => u.takeEntry_arbiter e) _ _

theorem foldl_renewClaim_arbiter (is : List SlotIx) (s : State) : (is.foldl State.renewClaim s).arbiter = s.arbiter :=
  foldl_keeps State.arbiter State.renewClaim (fun _ _ => rfl) is s

theorem evictLink_arbiter (s : State) (l : Link) : (s.evictLink l).arbiter = (s.evicting l).arbiter := by
  rw [evictLink_eq]
  exact foldl_keeps State.arbiter State.handOverPinned (fun _ _ => rfl) _ _

theorem change_marksInv {s t : State} (hs : MarksInv s) (h : Change s t) : MarksInv t := by
  cases h with
  | tookNotices l => exact marksInv_congr (tookNotices_arbiter s l) hs
  | renewedAll l => exact marksInv_congr (foldl_renewClaim_arbiter _ s) hs
  | retired l body i c h => exact endClaims_marksInv hs _ _
  | droppedAll l hrun => exact endClaims_marksInv hs .retire (s.endable l)
  | evicted l hl hrun =>
    exact marksInv_congr (evictLink_arbiter s l) (endClaims_marksInv (marksInv_congr (s.barLink_arbiter l) hs) _ _)
  | nothing | read | renewed | pinned | admitted | reach | window | filter | polarity | locked => exact hs
  | opened | amended | cleared | tested => exact marksInv_congr (by simp) hs

theorem step_marksInv {s t : State} (hs : MarksInv s) (h : step s = .next t) : MarksInv t :=
  step_keeps_parts (fun _ _ _ _ _ hs _ => hs) (fun auth pins csLow => by
    obtain ⟨stop, table, list, quota, tag, config, marks, -⟩ := released_invariants auth pins csLow
    exact marks) (fun _ _ => change_marksInv) (fun _ _ => timed_marksInv) hs h

/-! ### Requests of members (R86, R89, R104) -/

/-- A request names members of its channel, at least one, in ascending slot order; a conversion names members. -/
structure State.Demands (s : State) : Prop where
  waiting : ∀ (c : AnalogCh) r, s.arbiter.waiting[c] = some r →
    r.due ≠ [] ∧ r.due.Pairwise (· < ·) ∧ ∀ i ∈ r.due, i ∈ s.analogMembers c
  flight : ∀ f, s.arbiter.inFlight = some f →
    f.due.Pairwise (· < ·) ∧ ∀ i ∈ f.due, i ∈ s.analogMembers f.channel

theorem ArbiterInv.demands {s : State} (h : ArbiterInv s) : s.Demands := ⟨h.waiting, h.flight⟩

theorem arbiterInv_of_members {s t : State} (ha : t.arbiter = s.arbiter)
    (hm : ∀ c i, i ∈ s.analogMembers c → i ∈ t.analogMembers c) (h : ArbiterInv s) : ArbiterInv t := by
  refine ⟨fun c r hr => ?_, fun f hf => ?_, fun hf c => ?_⟩
  · rw [ha] at hr
    obtain ⟨hne, hsort, hmem⟩ := h.waiting c r hr
    exact ⟨hne, hsort, fun i hi => hm c i (hmem i hi)⟩
  · obtain ⟨hsort, hmem⟩ := h.flight f (ha ▸ hf)
    exact ⟨hsort, fun i hi => hm f.channel i (hmem i hi)⟩
  · rw [ha]
    exact h.free (ha ▸ hf) c

/-- Every ACTIVE analog claim stands on its channel. -/
def State.MembersStand (s t : State) : Prop :=
  ∀ i c, s.claim i = some c → c.resource.kind = .asense → c.state = .active →
    ∃ d, t.claim i = some d ∧ d.resource = c.resource ∧ d.state = .active

theorem State.MembersStand.members {s t : State} (h : s.MembersStand t) {c : AnalogCh} {i : SlotIx}
    (hi : i ∈ s.analogMembers c) : i ∈ t.analogMembers c := by
  obtain ⟨cl, hcl, hr, hst⟩ := (mem_members s _ i).mp hi
  obtain ⟨d, hd, hdr, hds⟩ := h i cl hcl (by rw [hr]; rfl) hst
  exact (mem_members t _ i).mpr ⟨d, hd, hdr.trans hr, hds⟩

theorem arbiterInv_of_stand {s t : State} (ha : t.arbiter = s.arbiter) (hm : s.MembersStand t) (h : ArbiterInv s) :
    ArbiterInv t := arbiterInv_of_members ha (fun _ _ => hm.members) h

theorem membersStand_of_slots {s t : State}
    (h : ∀ i c, s.claim i = some c → Claim.apart c → t.slots[i] = s.slots[i]) : s.MembersStand t := fun i c hc hk hst =>
  ⟨c, (claim_of_slot (h i c hc (.inl hk))).trans hc, rfl, hst⟩

theorem membersStand_of_map {s t : State} (h : ∀ i c, s.claim i = some c →
    ∃ d, t.claim i = some d ∧ d.resource = c.resource ∧ d.state = c.state) : s.MembersStand t := fun i c hc _ hst => by
  obtain ⟨d, hd, hr, hs⟩ := h i c hc
  exact ⟨d, hd, hr, hs.trans hst⟩

theorem updClaim_membersStand (s : State) (i : SlotIx) {f : Claim → Claim}
    (hf : ∀ c, (f c).resource = c.resource ∧ (f c).state = c.state) : s.MembersStand (s.updClaim i f) :=
  membersStand_of_map fun j c hc => by
    rw [State.updClaim_claim]
    split
    · rename_i e
      exact ⟨f c, by rw [← e, hc]; rfl, hf c⟩
    · exact ⟨c, hc, rfl, rfl⟩

theorem membersStand_of_records {s t : State} (h : s.SameRecords t) : s.MembersStand t :=
  membersStand_of_map fun i c hc => by
    obtain ⟨d, hd, hrec⟩ := h.claim hc
    exact ⟨d, hd, (congrArg Claim.resource hrec : d.record.resource = c.record.resource),
      (congrArg Claim.state hrec : d.record.state = c.record.state)⟩

/-! ### The decision (R104) -/

/-- The levels of the channels with members, where every claim is in range. -/
theorem level_of_inRange {s : State} (h : ∀ i c, s.claim i = some c → c.inRange) {c : AnalogCh}
    (hm : s.members (.analog c) ≠ []) : ∃ n, s.level c = some n ∧ 1 ≤ n ∧ n ≤ 3 := by
  obtain ⟨stop, table, list, quota, tag, config, marks, arbiter, clock, auth, gate, range, -⟩ :=
    released_invariants .low (Vector.replicate 8 .low) ⟨false, false, false⟩
  generalize State.released .low _ _ = u at range
  have hrange : RangeInv { u with slots := s.slots } :=
    ⟨h, range.periods, range.duties, range.quotas, range.windows, range.filters⟩
  rw [← level_congr (s := s) (t := { u with slots := s.slots }) rfl]
  exact level_of_members hrange hm

theorem State.Demands.waitsAtLevels {s : State} (h : s.Demands) (hr : ∀ i c, s.claim i = some c → c.inRange) :
    s.WaitsAtLevels := fun c hc => by
  obtain ⟨r, hw⟩ := Option.ne_none_iff_exists'.mp hc
  obtain ⟨hne, -, hmem⟩ := h.waiting c r hw
  obtain ⟨i, hi⟩ := List.exists_mem_of_ne_nil _ hne
  exact level_of_inRange hr (List.ne_nil_of_mem (hmem i hi))

/-- A decision at a free converter grants a waiting request, so that a free converter leaves none (R104). -/
theorem decideIfFree_arbiterInv {s : State} (h : s.Demands) (hr : ∀ i c, s.claim i = some c → c.inRange) :
    ArbiterInv s.decideIfFree := by
  cases hf : s.arbiter.inFlight with
  | some f =>
    rw [decideIfFree_of_busy (by rw [hf]; exact Option.some_ne_none _)]
    exact ⟨h.waiting, h.flight, fun hn => by rw [hf] at hn; cases hn⟩
  | none =>
    cases hany : s.anyWaiting with
    | false =>
      rw [decideIfFree_of_none hany]
      exact ⟨h.waiting, h.flight, fun _ => (anyWaiting_eq_false_iff s).mp hany⟩
    | true =>
      obtain ⟨c, r, a, hw, ha, hdec⟩ := decideGrant_grants (h.waitsAtLevels hr) hany
      have hwa : ({ s with arbiter := a } : State).arbiter.waiting[c] = some r := by
        rw [← hw, ← ha]
      have hmem : ∀ c, s.decideIfFree.analogMembers c = s.analogMembers c := fun c =>
        State.slotsWhere_congr (State.decideIfFree_slots s) _
      have hwaiting : s.decideIfFree.arbiter.waiting = s.arbiter.waiting.set c none := by
        rw [decideIfFree_of_waiting hf hany, hdec, grant_waiting hwa, ← ha]
      have hflight : s.decideIfFree.arbiter.inFlight =
          some ⟨c, r.moment, r.due, s.clock.stamp + BitVec.ofNat 32 (s.setup.windows[c] + 2)⟩ := by
        rw [decideIfFree_of_waiting hf hany, hdec, grant_inFlight hwa]
      refine ⟨fun c' r' hr' => ?_, fun f' hf' => ?_, fun hn => ?_⟩
      · rw [hwaiting, getElem_set_fin] at hr'
        split at hr'
        · cases hr'
        · rw [hmem]
          exact h.waiting c' r' hr'
      · rw [hflight] at hf'
        cases hf'
        rw [hmem]
        exact (h.waiting c r hw).2
      · rw [hflight] at hn
        cases hn

/-! ### An advance (R86, R87, R99) -/

theorem dueList_pairwise (s : State) (c : AnalogCh) : (s.dueList c).Pairwise (· < ·) := by
  have hmembers : (s.analogMembers c).Pairwise (· < ·) := slotsWhere_pairwise_lt s _
  unfold State.dueList
  exact hmembers.filter _

/-- A channel at its due moment has a member whose moment it is (R85, R86). -/
theorem dueList_ne_nil {s : State} {c : AnalogCh} (h : s.isDueOn c = true) : s.dueList c ≠ [] := by
  unfold State.isDueOn State.dueInterval at h
  cases hk : (s.memberField c AnalogBody.interval).min? with
  | none =>
    rw [hk] at h
    cases h
  | some k =>
    rw [hk, Option.any_some] at h
    obtain ⟨i, cl, b, r, hi, hcl, hp, rfl⟩ := (mem_memberField ..).mp (List.min?_mem hk)
    refine List.ne_nil_of_mem (a := i) (List.mem_filter.mpr ⟨hi, (State.claimIs_iff ..).mpr ⟨cl, hcl, ?_⟩⟩)
    rw [Claim.analogBody?, hp]
    exact h

theorem foldl_dueMoment_demands {s : State} (h : ArbiterInv s) : (allChannels.foldl State.dueMoment s).Demands := by
  have hmem : ∀ c, (allChannels.foldl State.dueMoment s).analogMembers c = s.analogMembers c := fun c =>
    (foldl_dueMoment_sameRecords allChannels s).members _
  refine ⟨fun c r hr => ?_, fun f hf => ?_⟩
  · rw [foldl_dueMoment_waiting allChannels_nodup, if_pos (mem_allChannels c), State.requestAt] at hr
    rw [hmem]
    split at hr
    · rename_i hdue
      cases hr
      exact ⟨dueList_ne_nil hdue, dueList_pairwise s c, fun i hi => List.mem_of_mem_filter hi⟩
    · exact h.waiting c r hr
  · rw [foldl_dueMoment_arbiter] at hf
    rw [hmem]
    exact h.flight f hf

theorem foldl_dueMoment_workRanged {s : State} (h : WorkRanged s) : WorkRanged (allChannels.foldl State.dueMoment s) :=
  List.foldlRecOn (motive := WorkRanged) allChannels State.dueMoment h fun u hu c _ =>
    workRanged_keptByWork.dueMoment hu c

theorem advance_arbiterInv {s : State} (h : ArbiterInv s) (hr : WorkRanged s) : ArbiterInv s.advance := by
  have htake : ArbiterInv s.takeCount := arbiterInv_congr (by simp) (by simp) h
  have hrange : WorkRanged s.takeCount := workRanged_keptByWork.takeCount hr
  have hdecide : ArbiterInv s.takeCount.scheduleAdvance :=
    decideIfFree_arbiterInv (foldl_dueMoment_demands htake) (foldl_dueMoment_workRanged hrange).claims
  exact arbiterInv_of_stand (State.edgeAdvance_arbiter _) (membersStand_of_records (edgeAdvance_runtimesOnly _).records)
    hdecide

/-- A conversion completes: its deliveries change runtimes alone, and the converter is free to decide (R94, R104). -/
theorem complete_arbiterInv {s : State} (h : ArbiterInv s) (hr : WorkRanged s) (f : Conversion) {v : Nat}
    (hv : v ≤ 4095) : ArbiterInv (s.complete f v) := by
  have hrec := ((deliver_senseWork f.channel v).foldl_runtimesOnly f.due s).records
  have hrange : WorkRanged (f.due.foldl (fun s i => s.deliver f.channel v i) s) :=
    List.foldlRecOn (motive := WorkRanged) f.due _ hr fun u hu i _ => workRanged_keptByWork.deliver hu f.channel hv i
  rw [complete_eq]
  generalize f.due.foldl (fun s i => s.deliver f.channel v i) s = u at hrec hrange
  refine decideIfFree_arbiterInv ⟨fun c r hw => ?_, fun f hf => nomatch hf⟩ hrange.claims
  obtain ⟨hne, hsort, hmem⟩ := h.waiting c r hw
  exact ⟨hne, hsort, fun i hi => (membersStand_of_records hrec).members (hmem i hi)⟩

/-! ### Ends (R89) -/

theorem endNow_membersStand {s : State} {i : SlotIx} {c : Claim} (hc : s.claim i = some c)
    (hk : c.resource.kind ≠ .asense) (cause : EndCause) : s.MembersStand (s.endNow cause i) := fun j cl hcl hkj hst => by
  have hne : j ≠ i := fun e => by
    rw [e, hc] at hcl
    cases hcl
    exact hk hkj
  exact ⟨cl, (claim_of_slot (endNow_slot_of_ne s cause hne)).trans hcl, rfl, hst⟩

/-- An analog claim ends, and its demand leaves its channel's due lists with it (R89). -/
theorem endAnalog_arbiterInv {s : State} (h : ArbiterInv s) {i : SlotIx} {c : Claim} (hc : s.claim i = some c)
    {ch : AnalogCh} (hr : c.resource = .analog ch) (cause : EndCause) :
    ArbiterInv ((s.endNow cause i).dropDemand ch i) := by
  have hmem : ∀ {c' : AnalogCh} {j : SlotIx}, j ∈ s.analogMembers c' → j ≠ i →
      j ∈ ((s.endNow cause i).dropDemand ch i).analogMembers c' := fun {c' j} hj hne => by
    obtain ⟨cl, hcl, hres, hst⟩ := (mem_members s _ j).mp hj
    refine (mem_members _ _ j).mpr ⟨cl, ?_, hres, hst⟩
    rw [State.claim_congr (State.dropDemand_slots ..)]
    exact (claim_of_slot (endNow_slot_of_ne s cause hne)).trans hcl
  have hother : ∀ {c' : AnalogCh}, c' ≠ ch → ∀ j ∈ s.analogMembers c', j ≠ i := fun hc' j hj e => by
    obtain ⟨cl, hcl, hres, -⟩ := (mem_members s _ j).mp hj
    rw [e, hc] at hcl
    cases hcl
    rw [hr] at hres
    exact hc' (Resource.analog.inj hres).symm
  have hwait : ∀ c' : AnalogCh, ((s.endNow cause i).dropDemand ch i).arbiter.waiting[c'] =
      if c' = ch then (s.endNow cause i).leftWaiting ch i else s.arbiter.waiting[c'] := fun c' => by
    rw [dropDemand_waiting, s.endNow_arbiter]
    exact getElem_set_fin _ ch c' _
  have hflight : ((s.endNow cause i).dropDemand ch i).arbiter.inFlight = s.arbiter.inFlight.map fun f =>
      if f.channel = ch then { f with due := f.due.filter fun j => decide (j ≠ i) } else f := by
    refine (marksIfEmpty_inFlight _).trans ?_
    rw [s.endNow_arbiter] <;> rfl
  refine ⟨fun c' r hw => ?_, fun f hf => ?_, fun hn c' => ?_⟩
  · rw [hwait] at hw
    split at hw
    · rename_i e
      subst e
      unfold State.leftWaiting at hw
      rw [s.endNow_arbiter] at hw
      cases hold : s.arbiter.waiting[c'] with
      | none =>
        rw [hold] at hw
        cases hw
      | some r0 =>
        obtain ⟨-, hsort, hdue⟩ := h.waiting c' r0 hold
        rw [hold] at hw
        dsimp only at hw
        split at hw
        · cases hw
        · rename_i hleft
          cases hw
          refine ⟨fun hnil => hleft ?_, hsort.filter _, fun j hj => ?_⟩
          · rw [Bool.or_eq_true_iff]
            exact .inr (List.isEmpty_iff.mpr hnil)
          · obtain ⟨hj, hne⟩ := List.mem_filter.mp hj
            exact hmem (hdue j hj) (of_decide_eq_true hne)
    · rename_i hc'
      obtain ⟨hne, hsort, hdue⟩ := h.waiting c' r hw
      exact ⟨hne, hsort, fun j hj => hmem (hdue j hj) (hother hc' j (hdue j hj))⟩
  · rw [hflight] at hf
    obtain ⟨f0, hf0, rfl⟩ := Option.map_eq_some_iff.mp hf
    obtain ⟨hsort, hdue⟩ := h.flight f0 hf0
    split
    · refine ⟨hsort.filter _, fun j hj => ?_⟩
      obtain ⟨hj, hne⟩ := List.mem_filter.mp hj
      exact hmem (hdue j hj) (of_decide_eq_true hne)
    · rename_i hc'
      exact ⟨hsort, fun j hj => hmem (hdue j hj) (hother hc' j (hdue j hj))⟩
  · rw [hflight, Option.map_eq_none_iff] at hn
    have hnone := h.free hn
    rw [hwait]
    split
    · unfold State.leftWaiting
      rw [s.endNow_arbiter, hnone ch]
    · exact hnone c'

theorem endOutsideLists_arbiterInv {s : State} (h : ArbiterInv s) (cause : EndCause) (i : SlotIx) :
    ArbiterInv (s.endOutsideLists cause i) := by
  have hend : ∀ {c : Claim}, s.claim i = some c → c.resource.kind ≠ .asense → ArbiterInv (s.endNow cause i) :=
    fun hc hk => arbiterInv_of_stand (s.endNow_arbiter cause i) (endNow_membersStand hc hk cause) h
  rcases endOutsideLists_cases s cause i with heq | ⟨c, hc, ⟨d, hr, hs, heq⟩ | ⟨ch, hr, hs, heq⟩ | ⟨e, hr, hs, heq⟩⟩ <;>
    rw [heq]
  · exact h
  · exact hend hc (by rw [hr]; exact Kind.noConfusion)
  · exact endAnalog_arbiterInv h hc hr cause
  · exact hend hc (by rw [hr]; exact Kind.noConfusion)

theorem endClaims_arbiterInv {s : State} (ht : TableInv s) (h : ArbiterInv s) (cause : EndCause) (ending : List SlotIx) :
    ArbiterInv (s.endClaims cause ending) := by
  have hlists : ArbiterInv (s.endInLists cause ending) :=
    arbiterInv_of_stand (endInLists_arbiter s cause ending)
      (membersStand_of_slots fun i c hc ha => endInLists_slot_of_apart ht hc ha cause ending) h
  rw [endClaims_eq]
  exact List.foldlRecOn (motive := ArbiterInv) ending _ hlists fun u hu i _ => endOutsideLists_arbiterInv hu cause i

theorem expire_arbiterInv {s : State} (ht : TableInv s) (h : ArbiterInv s) (i : SlotIx) : ArbiterInv (s.expire i) := by
  have hnext : ArbiterInv (s.nextTick true) := arbiterInv_congr (s := s) rfl rfl h
  unfold State.expire
  split
  · exact h
  · split
    · exact endClaims_arbiterInv ht h _ _
    · split
      · exact endClaims_arbiterInv (nextTick_tableInv ht true) hnext _ _
      · exact h

theorem acceptEdge_records (s : State) (e : EdgeIn) (stamp : Count32) : s.SameRecords (s.acceptEdge e stamp) := by
  have hinput : s.SameRecords (s.setInput e ⟨s.inputs[e].level.flip, none, s.inputs[e].filter⟩) := .of_slots rfl
  rw [acceptEdge_eq]
  exact hinput.trans ((handEdge_senseWork _ stamp).foldl_runtimesOnly _ _).records

theorem acceptDue_records (s : State) (e : EdgeIn) : s.SameRecords (s.acceptDue e) := by
  unfold State.acceptDue
  split
  · exact .refl s
  · split
    · exact acceptEdge_records s e _
    · exact .refl s

theorem pinChange_records (s : State) (e : EdgeIn) (v : Level) (n : Nat) : s.SameRecords (s.pinChange e v n) := by
  have hdue : s.SameRecords ((s.passToMicro n).acceptDue e) := acceptDue_records (s.passToMicro n) e
  unfold State.pinChange
  split
  · exact .refl s
  · dsimp only
    split
    · exact hdue
    · split
      · exact hdue.trans (acceptEdge_records _ e _)
      · exact hdue

theorem timed_arbiterInv {s t : State}
 (ht : TableInv s) (hr : WorkRanged s) (h : ArbiterInv s) (hev : Timed s t) :
    ArbiterInv t := by
  have hpass : ∀ n, ArbiterInv (s.passClocks n) := fun n => arbiterInv_congr (s := s) rfl rfl h
  have hclaims : ∀ {u v : State}, TableInv u → (∀ {j}, (∀ d, j ∉ u.driveList d) → v.slots[j] = u.slots[j]) →
      u.MembersStand v := fun hu hs => membersStand_of_slots fun i c hc ha => hs (hu.unlisted_of_apart hc ha).1
  cases hev with
  | advance => exact advance_arbiterInv h hr
  | expire i => exact expire_arbiterInv ht h i
  | complete f hf v n => exact complete_arbiterInv (hpass n) (workRanged_keptByWork.passClocks hr n) f (by have := v.isLt; omega)
  | periodEnd g ho n =>
    have htable := passClocks_tableInv ht n
    exact arbiterInv_of_stand (State.gatePeriodEnd_arbiter _ g)
      (hclaims htable fun hj => gatePeriodEnd_slot_of_unlisted htable.driveNodup hj g) (hpass n)
  | pinChange e v n =>
    exact arbiterInv_of_stand (s.pinChange_arbiter e v n) (membersStand_of_records (pinChange_records s e v n)) h
  | accept e p hp n =>
    exact arbiterInv_of_stand (State.acceptEdge_arbiter _ e p.stamp)
      (membersStand_of_records (acceptEdge_records _ e p.stamp)) (hpass n)
  | trip g =>
    exact arbiterInv_of_stand (s.takeTrip_arbiter g)
      (hclaims ht fun hj => takeTrip_slot_of_unlisted ht.driveNodup hj g) h
  | clocks => exact hpass 1

/-! ### Requests of the links -/

theorem State.MembersStand.trans {s t u : State} (h : s.MembersStand t) (k : t.MembersStand u) : s.MembersStand u :=
  fun i c hc hk hst => by
    obtain ⟨d, hd, hr, hs⟩ := h i c hc hk hst
    obtain ⟨x, hx, hxr, hxs⟩ := k i d hd (by rw [hr]; exact hk) hs
    exact ⟨x, hx, hxr.trans hr, hxs⟩

theorem membersStand_of_same {s t : State} (h : t.slots = s.slots) : s.MembersStand t :=
  membersStand_of_slots fun i _ _ _ => by rw [h]

theorem foldl_membersStand {f : State → SlotIx → State} (hf : ∀ (u : State) i, u.MembersStand (f u i)) (is : List SlotIx)
    (s : State) : s.MembersStand (is.foldl f s) :=
  List.foldlRecOn (motive := fun u => s.MembersStand u) is f (membersStand_of_same rfl) fun u hu i _ => hu.trans (hf u i)

/-- Slots freed are those of SPENT claims. -/
theorem membersStand_of_freed {s t : State}
    (h : ∀ i c, s.claim i = some c → t.claim i = some c ∨ c.state = .spent) : s.MembersStand t := fun i c hc _ hst =>
  ⟨c, (h i c hc).resolve_right fun hs => (by rw [hst] at hs; cases hs), rfl, hst⟩

theorem tookNotices_membersStand {s : State} (h : TableInv s) (l : Link) :
    s.MembersStand (((s.notices.get l).take 6).foldl State.takeEntry
      { s with notices := s.notices.set l ((s.notices.get l).drop 6) }) := membersStand_of_freed fun i c hc => by
  rw [takeNotices_claim (h.sorted l)]
  split
  · rename_i hx
    obtain ⟨x, hx, hxf, rfl⟩ := hx
    obtain ⟨d, hd, -, hst⟩ := h.final l x (List.mem_of_mem_take hx) hxf
    rw [hc] at hd
    cases hd
    exact .inr hst
  · exact .inl hc

theorem barLink_membersStand (s : State) (l : Link) : s.MembersStand (s.barLink l) := membersStand_of_freed fun i c hc => by
  rw [barLink_claim]
  split
  · rename_i hspent
    obtain ⟨d, hd, -, hst⟩ := hspent
    rw [hc] at hd
    cases hd
    exact .inr hst
  · exact .inl hc

theorem evalGate_membersStand {s : State} (h : TableInv s) (g : Gate) : s.MembersStand (s.evalGate g) :=
  membersStand_of_slots fun _ _ hc ha => evalGate_slot_of_unlisted h.driveNodup (h.unlisted_of_apart hc ha).1 g

theorem opened_membersStand {s : State} (h : TableInv s) {i : SlotIx} (hi : s.claim i = none) (l : Link) (r : Resource)
    (tag : BitVec 16) (f : ClaimFields) :
    s.MembersStand ((s.putClaim i (s.newClaim l r tag f)).handOver r i) := by
  have htable := putClaim_tableInv h hi (s.newClaim l r tag f)
  have hput : s.MembersStand (s.putClaim i (s.newClaim l r tag f)) := membersStand_of_map fun j c hc => by
    have hne : j ≠ i := fun e => by rw [e, hi] at hc; cases hc
    exact ⟨c, by rw [State.putClaim_claim, if_neg hne]; exact hc, rfl, rfl⟩
  cases r with
  | drive d =>
    refine membersStand_of_slots fun j c hc ha => ?_
    have hne : j ≠ i := fun e => by rw [e, hi] at hc; cases hc
    refine (join_slot_of_not_mem (htable.driveNodup d) (free_not_mem_driveList h hi d)
      ((h.unlisted_of_apart hc ha).1 d) hne).trans ?_
    rw [State.putClaim_slot, if_neg hne]
  | gate g =>
    refine hput.trans (membersStand_of_slots fun j c hc ha => ?_)
    exact evalGate_slot_of_unlisted (s := { s.putClaim i (s.newClaim l (.gate g) tag f) with
      gateLists := s.gateLists.set g ((s.putClaim i (s.newClaim l (.gate g) tag f)).insertByClass i (s.gateList g)) })
      htable.driveNodup (htable.unlisted_of_apart hc ha).1 g
  | analog ch => exact hput
  | edge e => exact hput

theorem amended_membersStand {s : State} (h : TableInv s) {i : SlotIx} {c : Claim} (hc : s.claim i = some c)
    (f : ClaimFields) : s.MembersStand ((s.putClaim i (s.amendedClaim c f)).handAmended c i) := by
  have htable := putClaim_tableInv_of_same h hc (c' := s.amendedClaim c f) rfl rfl rfl
  have hput : s.MembersStand (s.putClaim i (s.amendedClaim c f)) := membersStand_of_map fun j cl hcl => by
    rw [State.putClaim_claim]
    split
    · rename_i e
      rw [e, hc] at hcl
      cases hcl
      exact ⟨_, rfl, rfl, rfl⟩
    · exact ⟨cl, hcl, rfl, rfl⟩
  refine hput.trans ?_
  unfold State.handAmended
  split
  · rename_i d hr
    split
    · rename_i hs
      have hci : (s.putClaim i (s.amendedClaim c f)).claim i = some (s.amendedClaim c f) := by
        rw [State.putClaim_claim, if_pos rfl]
      intro j cl hcl hk hst
      have hne : j ≠ i := fun e => by
        rw [e, hci] at hcl
        cases hcl
        change c.resource.kind = .asense at hk
        rw [hr] at hk
        cases hk
      refine ⟨cl, (claim_of_slot (join_slot_of_not_mem (htable.driveNodup d)
        (htable.unlisted_of_apart hci (.inr (.inr ⟨?_, ?_⟩))|>.1 d)
        ((htable.unlisted_of_apart hcl (.inl hk)).1 d) hne)).trans hcl, rfl, hst⟩
      · exact congrArg ClaimState.listed hs
      · exact fun e => ClaimState.noConfusion (hs.symm.trans e)
    · exact membersStand_of_same rfl
  · exact evalGate_membersStand htable _
  · exact membersStand_of_same rfl
  · exact membersStand_of_same rfl

theorem evictLink_arbiterInv {s : State} (ht : TableInv s) (h : ArbiterInv s) (l : Link) : ArbiterInv (s.evictLink l) := by
  have hbar : ArbiterInv (s.barLink l) := arbiterInv_of_stand (s.barLink_arbiter l) (barLink_membersStand s l) h
  have hend : ArbiterInv (s.evicting l) := endClaims_arbiterInv (barLink_tableInv ht l) hbar _ _
  have hover : (s.evicting l).MembersStand (((s.evicting l).pinnedOf l).foldl State.handOverPinned (s.evicting l)) :=
    foldl_membersStand (f := State.handOverPinned) (fun u i => updClaim_membersStand u i fun _ => ⟨rfl, rfl⟩) _ _
  refine arbiterInv_of_stand (evictLink_arbiter s l) ?_ hend
  rw [evictLink_eq]
  exact hover

theorem change_arbiterInv {s t : State} (ht : TableInv s) (h : ArbiterInv s) (hev : Change s t) : ArbiterInv t := by
  have hgate : ∀ (g : Gate) (u : GateUnit), ArbiterInv ((s.setGate g u).evalGate g) := fun g u =>
    arbiterInv_of_stand (State.evalGate_arbiter _ g) (evalGate_membersStand (setGate_tableInv ht g u) g)
      (arbiterInv_congr (s := s) rfl rfl h)
  have hupd : ∀ (i : SlotIx) {f : Claim → Claim}, (∀ c, (f c).resource = c.resource ∧ (f c).state = c.state) →
      ArbiterInv (s.updClaim i f) := fun i _ hf =>
    arbiterInv_of_stand (s := s) rfl (updClaim_membersStand s i hf) h
  cases hev with
  | nothing => exact h
  | read i =>
    exact hupd i fun c => ⟨(Claim.readByOwner_same c).resource, readByOwner_state c⟩
  | tookNotices l => exact arbiterInv_of_stand (tookNotices_arbiter s l) (tookNotices_membersStand ht l) h
  | opened l body r i f ho => exact arbiterInv_of_stand (by simp) (opened_membersStand ht ho.room.1 l r _ f) h
  | amended body l i c f ho hf => exact arbiterInv_of_stand (by simp) (amended_membersStand ht ho.claim f) h
  | renewed i c hc hu ho => exact hupd i fun _ => ⟨rfl, rfl⟩
  | renewedAll l =>
    exact arbiterInv_of_stand (foldl_renewClaim_arbiter _ s)
      (foldl_membersStand (f := State.renewClaim) (fun u i => updClaim_membersStand u i fun _ => ⟨rfl, rfl⟩) _ s) h
  | retired l body i c ho => exact endClaims_arbiterInv ht h _ _
  | droppedAll l hrun =>
    exact arbiterInv_congr (s := s.endClaims .retire (s.endable l)) rfl rfl (endClaims_arbiterInv ht h _ _)
  | cleared g src hrun => exact hgate g _
  | tested g src hrun => exact hgate g _
  | pinned i c hc ho => exact hupd i fun _ => ⟨rfl, rfl⟩

  | evicted l hl hrun => exact evictLink_arbiterInv ht h l
  | admitted | reach | window | filter | polarity | locked => exact arbiterInv_congr (s := s) rfl rfl h

/-- The requests stay those of members with the table's lists and the range of every claim. -/
theorem step_arbiterInv {s t : State} (hs : TableInv s ∧ WorkRanged s ∧ ArbiterInv s) (h : step s = .next t) :
    TableInv t ∧ WorkRanged t ∧ ArbiterInv t := by
  refine step_keeps_parts (P := fun u => TableInv u ∧ WorkRanged u ∧ ArbiterInv u) (fun s q n r p hs hp => ?_)
    (fun auth pins csLow => ?_) (fun u v hu hv => ?_) (fun u v hu hv => ?_) hs h
  · obtain ⟨ht, hr, ha⟩ := hs
    exact ⟨tableInv_readsParts s q n r p ht hp, workRanged_readsParts s q n r p hr hp, arbiterInv_congr (s := s) rfl rfl ha⟩
  · obtain ⟨stop, table, list, quota, tag, config, marks, arbiter, clock, auth, gate, range, -⟩ :=
      released_invariants auth pins csLow
    exact ⟨table, workRanged_of_rangeInv range, arbiter⟩
  · obtain ⟨ht, hr, ha⟩ := hu
    exact ⟨change_tableInv ht hv, change_workRanged hr hv, change_arbiterInv ht ha hv⟩
  · obtain ⟨ht, hr, ha⟩ := hu
    exact ⟨timed_tableInv ht hv, workRanged_keptByWork.timed hr hv, timed_arbiterInv ht hr ha hv⟩

/-- Settles O58. -/
theorem stepKeepsRequestsAndMarks : Obligations.StepKeepsRequestsAndMarks :=
  ⟨fun _ _ => step_marksInv, fun _ _ ht hr ha h =>
    (step_arbiterInv ⟨ht, workRanged_of_rangeInv hr, ha⟩ h).2.2⟩

end Sys2Proof.Machine

end

section
/-! SUPPORT. The course of a claim's slot over the part's work on the contention lists: it rests, shifts between the states
of a claim that has not ended, winds down, or reaches the end of its course (R18, R26, R30). -/

namespace Sys2Proof.Machine

/-- What work on the lists makes of a slot. A RETIRING claim finishes only where `fin` allows it, and a claim ends only
with a cause that `ends` allows. -/
inductive Slot.Fate (barred : Link → Bool) (fin : Claim → Prop) (ends : EndCause → Prop) : Slot → Slot → Prop
  | rests (x : Slot) : Slot.Fate barred fin ends x x
  | shifts {gen : Fin 16} {c d : Claim} (hr : c.resource.kind = .drive) (hc : c.state.ongoing = true)
    (hd : d.state.ongoing = true) (ha : d.state ≠ .active) (hs : c.Same d) (hcause : d.endCause = c.endCause)
    (hline : d.deadline = c.deadline) : Slot.Fate barred fin ends ⟨gen, some c⟩ ⟨gen, some d⟩
  | finishes {gen : Fin 16} {c : Claim} (hc : c.state = .retiring) (hf : fin c) (hb : barred c.owner = false) :
    Slot.Fate barred fin ends ⟨gen, some c⟩ ⟨gen, some { c with state := .spent, deadline := none }⟩
  | freed {gen : Fin 16} {c : Claim} (hc : c.state = .retiring) (hf : fin c) (hb : barred c.owner = true) :
    Slot.Fate barred fin ends ⟨gen, some c⟩ ⟨gen + 1, none⟩
  | winds {gen : Fin 16} {c d : Claim} {cause : EndCause} (he : ends cause) (hr : c.resource.kind = .drive)
    (hc : c.state.ongoing = true) (hs : c.Same d) (hd : d.state = .retiring) (hcause : d.endCause = some cause)
    (hline : d.deadline = none) : Slot.Fate barred fin ends ⟨gen, some c⟩ ⟨gen, some d⟩
  | ends {gen : Fin 16} {c d : Claim} {cause : EndCause} (he : ends cause) (hc : c.state.ongoing = true) (hs : c.Same d)
    (hd : d.state = .spent) (hcause : d.endCause = some cause) (hline : d.deadline = none)
    (hb : barred c.owner = false) : Slot.Fate barred fin ends ⟨gen, some c⟩ ⟨gen, some d⟩
  | discarded {gen : Fin 16} {c : Claim} {cause : EndCause} (he : ends cause) (hc : c.state.ongoing = true)
    (hb : barred c.owner = true) : Slot.Fate barred fin ends ⟨gen, some c⟩ ⟨gen + 1, none⟩

theorem not_ongoing_of_retiring {st : ClaimState} (h : st = .retiring) (ho : st.ongoing = true) : False := by
  rw [h] at ho
  cases ho

theorem not_ongoing_of_spent {st : ClaimState} (h : st = .spent) (ho : st.ongoing = true) : False := by
  rw [h] at ho
  cases ho

section Fate

variable {barred : Link → Bool} {fin : Claim → Prop} {ends : EndCause → Prop}

/-- A slot that was free, or that has come free, rests. -/
theorem Slot.Fate.of_free {x y : Slot} (h : Slot.Fate barred fin ends x y) (hx : x.claim = none) : y = x := by
  cases h with
  | rests => rfl
  | shifts | finishes | freed | winds | ends | discarded => cases hx

theorem Slot.Fate.trans {x y z : Slot} (h : Slot.Fate barred fin ends x y) (k : Slot.Fate barred fin ends y z) :
    Slot.Fate barred fin ends x z := by
  cases h with
  | rests => exact k
  | freed hc hf hb =>
    rw [k.of_free rfl]
    exact .freed hc hf hb
  | discarded he hc hb =>
    rw [k.of_free rfl]
    exact .discarded he hc hb
  | shifts hr hc hd ha hs hcause hline =>
    have howner := hs.owner
    cases k with
    | rests => exact .shifts hr hc hd ha hs hcause hline
    | shifts hr' hc' hd' ha' hs' hcause' hline' =>
      exact .shifts hr hc hd' ha' (hs.trans hs') (hcause'.trans hcause) (hline'.trans hline)
    | finishes hret => exact (not_ongoing_of_retiring hret hd).elim
    | freed hret => exact (not_ongoing_of_retiring hret hd).elim
    | winds he hr' hc' hs' hd' hcause' hline' => exact .winds he hr hc (hs.trans hs') hd' hcause' hline'
    | ends he hc' hs' hd' hcause' hline' hb => exact .ends he hc (hs.trans hs') hd' hcause' hline' (howner ▸ hb)
    | discarded he hc' hb => exact .discarded he hc (howner ▸ hb)
  | finishes hc hf hb =>
    cases k with
    | rests => exact .finishes hc hf hb
    | shifts _ ho | winds _ _ ho | ends _ ho | discarded _ ho => exact (not_ongoing_of_spent rfl ho).elim
    | finishes hret | freed hret => cases hret
  | winds he hr hc hs hd hcause hline =>
    have howner := hs.owner
    cases k with
    | rests => exact .winds he hr hc hs hd hcause hline
    | shifts _ ho | winds _ _ ho | ends _ ho | discarded _ ho => exact (not_ongoing_of_retiring hd ho).elim
    | finishes hret hf hb =>
      refine .ends he hc ?_ rfl hcause rfl (howner ▸ hb)
      exact ⟨hs.owner, hs.resource, hs.tag, hs.cls, hs.hold, hs.pinned, hs.wants, hs.body⟩
    | freed hret hf hb => exact .discarded he hc (howner ▸ hb)
  | ends he hc hs hd hcause hline hb =>
    cases k with
    | rests => exact .ends he hc hs hd hcause hline hb
    | shifts _ ho | winds _ _ ho | ends _ ho | discarded _ ho => exact (not_ongoing_of_spent hd ho).elim
    | finishes hret | freed hret =>
      rw [hd] at hret
      cases hret

theorem Slot.Fate.mono {fin' : Claim → Prop} {ends' : EndCause → Prop} {x y : Slot} (h : Slot.Fate barred fin ends x y)
    (hf : ∀ c, fin c → fin' c) (he : ∀ cause, ends cause → ends' cause) : Slot.Fate barred fin' ends' x y := by
  cases h with
  | rests => exact .rests _
  | shifts hr hc hd ha hs hcause hline => exact .shifts hr hc hd ha hs hcause hline
  | finishes hc h hb => exact .finishes hc (hf _ h) hb
  | freed hc h hb => exact .freed hc (hf _ h) hb
  | winds h hr hc hs hd hcause hline => exact .winds (he _ h) hr hc hs hd hcause hline
  | ends h hc hs hd hcause hline hb => exact .ends (he _ h) hc hs hd hcause hline hb
  | discarded h hc hb => exact .discarded (he _ h) hc hb

/-- A claim after is the slot's claim before, with the fields of R1 unchanged. -/
theorem Slot.Fate.same {x y : Slot} (h : Slot.Fate barred fin ends x y) {d : Claim} (hd : y.claim = some d) :
    ∃ c, x.claim = some c ∧ c.Same d := by
  cases h with
  | rests => exact ⟨d, hd, Claim.Same.refl d⟩
  | shifts _ _ _ _ hs => cases hd; exact ⟨_, rfl, hs⟩
  | finishes => cases hd; exact ⟨_, rfl, ⟨rfl, rfl, rfl, rfl, rfl, rfl, rfl, rfl⟩⟩
  | winds _ _ _ hs => cases hd; exact ⟨_, rfl, hs⟩
  | ends _ _ hs => cases hd; exact ⟨_, rfl, hs⟩
  | freed | discarded => cases hd

/-- An ACTIVE claim was so before. -/
theorem Slot.Fate.active {x y : Slot} (h : Slot.Fate barred fin ends x y) {d : Claim} (hd : y.claim = some d)
    (ha : d.state = .active) : x = y := by
  cases h with
  | rests => rfl
  | shifts _ _ _ hna => cases hd; exact absurd ha hna
  | finishes => cases hd; cases ha
  | winds _ _ _ _ hs => cases hd; rw [hs] at ha; cases ha
  | ends _ _ _ hs => cases hd; rw [hs] at ha; cases ha
  | freed | discarded => cases hd

/-- A claim that has not ended had not before. -/
theorem Slot.Fate.ongoing {x y : Slot} (h : Slot.Fate barred fin ends x y) {d : Claim} (hd : y.claim = some d)
    (ho : d.state.ongoing = true) : ∃ c, x.claim = some c ∧ c.state.ongoing = true ∧ c.Same d ∧
      d.endCause = c.endCause ∧ d.deadline = c.deadline := by
  cases h with
  | rests => exact ⟨d, hd, ho, Claim.Same.refl d, rfl, rfl⟩
  | shifts _ hc _ _ hs hcause hline => cases hd; exact ⟨_, rfl, hc, hs, hcause, hline⟩
  | finishes => cases hd; cases ho
  | winds _ _ _ _ hs => cases hd; exact (not_ongoing_of_retiring hs ho).elim
  | ends _ _ _ hs => cases hd; exact (not_ongoing_of_spent hs ho).elim
  | freed | discarded => cases hd

end Fate

/-! ### The course of every slot -/

/-- Work on the lists: every slot takes its course, the ports stand, no notice is lost, and a claim newly SPENT has its
final notice pending (R18). -/
structure State.Fares (fin : Claim → Prop) (ends : SlotIx → EndCause → Prop) (s t : State) : Prop where
  slots : ∀ i : SlotIx, Slot.Fate s.barred fin (ends i) s.slots[i] t.slots[i]
  ports : t.ports = s.ports
  noticed : ∀ l k i, s.noticed l k i → t.noticed l k i
  final : ∀ i c, t.claim i = some c → c.state = .spent →
    s.claim i = some c ∨ t.noticed c.owner (finalKind c.endCause) i

section Fares

variable {fin : Claim → Prop} {ends : SlotIx → EndCause → Prop} {s t u : State}

theorem State.Fares.barred (h : State.Fares fin ends s t) : t.barred = s.barred :=
  funext fun l => by rw [barred_eq, barred_eq, h.ports]

/-- Work that leaves the slots and the ports, and loses no notice. -/
theorem fares_of_slots (hs : t.slots = s.slots) (hp : t.ports = s.ports)
    (hn : ∀ l k i, s.noticed l k i → t.noticed l k i) : State.Fares fin ends s t :=
  ⟨fun i => by rw [hs]; exact .rests _, hp, hn, fun i c hc _ => .inl (State.claim_congr hs i ▸ hc)⟩

theorem fares_of_frame (hs : t.slots = s.slots) (hp : t.ports = s.ports) (hn : t.notices = s.notices) :
    State.Fares fin ends s t := fares_of_slots hs hp fun l k i h => (noticed_congr hn l k i).mpr h

theorem State.Fares.refl (s : State) : State.Fares fin ends s s := fares_of_frame rfl rfl rfl

theorem State.Fares.trans (h : State.Fares fin ends s t) (k : State.Fares fin ends t u) : State.Fares fin ends s u := by
  refine ⟨fun i => ?_, k.ports.trans h.ports, fun l k' i hn => k.noticed l k' i (h.noticed l k' i hn), fun i c hc hst => ?_⟩
  · have hk := k.slots i
    rw [h.barred] at hk
    exact (h.slots i).trans hk
  · rcases k.final i c hc hst with hc' | hn
    · exact (h.final i c hc' hst).imp_right (k.noticed _ _ _)
    · exact .inr hn

theorem State.Fares.mono {fin' : Claim → Prop} {ends' : SlotIx → EndCause → Prop} (h : State.Fares fin ends s t)
    (hf : ∀ c, fin c → fin' c) (he : ∀ i cause, ends i cause → ends' i cause) : State.Fares fin' ends' s t :=
  ⟨fun i => (h.slots i).mono hf (he i), h.ports, h.noticed, h.final⟩

theorem State.Fares.descends (h : State.Fares fin ends s t) : s.Descends t := fun i _ hd => (h.slots i).same hd

/-- Work at one slot. -/
theorem fares_of_slot {i : SlotIx} (hslot : Slot.Fate s.barred fin (ends i) s.slots[i] t.slots[i])
    (hother : ∀ j : SlotIx, j ≠ i → t.slots[j] = s.slots[j]) (hp : t.ports = s.ports)
    (hn : ∀ l k j, s.noticed l k j → t.noticed l k j)
    (hfinal : ∀ c, t.claim i = some c → c.state = .spent → t.noticed c.owner (finalKind c.endCause) i) :
    State.Fares fin ends s t := by
  refine ⟨fun j => ?_, hp, hn, fun j c hc hst => ?_⟩
  · by_cases hj : j = i
    · exact hj ▸ hslot
    · rw [hother j hj]
      exact .rests _
  · by_cases hj : j = i
    · subst hj
      exact .inr (hfinal c hc hst)
    · exact .inl ((claim_of_slot (hother j hj)).symm.trans hc)

theorem fares_fold {α : Type} {work : State → α → State} {P : State → Prop}
    (h : ∀ (u : State) a, P u → P (work u a) ∧ State.Fares fin ends u (work u a)) (as : List α) (hs : P s) :
    P (as.foldl work s) ∧ State.Fares fin ends s (as.foldl work s) :=
  List.foldlRecOn (motive := fun u => P u ∧ State.Fares fin ends s u) as work ⟨hs, .refl s⟩ fun u hu a _ =>
    ⟨(h u a hu.1).1, hu.2.trans (h u a hu.1).2⟩

/-! ### The single changes -/

theorem post_fares (s : State) (k : NoticeKind) (i : SlotIx) : State.Fares fin ends s (s.post k i) :=
  fares_of_slots rfl rfl fun _ _ _ h => noticed_post h k i

/-- A claim on a drive channel that has not ended takes another such state. -/
theorem updClaim_fares {i : SlotIx} {c : Claim} {f : Claim → Claim} (hc : s.claim i = some c)
    (hr : c.resource.kind = .drive) (ho : c.state.ongoing = true) (hf : (f c).state.ongoing = true)
    (ha : (f c).state ≠ .active) (hs : c.Same (f c)) (hcause : (f c).endCause = c.endCause)
    (hline : (f c).deadline = c.deadline) : State.Fares fin ends s (s.updClaim i f) := by
  have hslot : s.slots[i] = ⟨s.slots[i].gen, some c⟩ := by
    rw [← hc]
    rfl
  have hnew : (s.updClaim i f).slots[i] = ⟨s.slots[i].gen, some (f c)⟩ := by
    rw [updClaim_slot_mapClaim, if_pos rfl, hslot]
    rfl
  refine fares_of_slot (i := i) ?_ (fun j hj => by rw [State.updClaim_slot, if_neg hj]) rfl (fun _ _ _ h => h)
    fun d hd hst => ?_
  · rw [hnew, hslot]
    exact .shifts hr ho hf ha hs hcause hline
  · rw [claim_of_slot hnew] at hd
    cases hd
    exact (not_ongoing_of_spent hst hf).elim

theorem setState_fares {i : SlotIx} {c : Claim} (hc : s.claim i = some c) (hr : c.resource.kind = .drive)
    (ho : c.state.ongoing = true) {st : ClaimState} (hst : st.ongoing = true) (ha : st ≠ .active) :
    State.Fares fin ends s (s.updClaim i fun c => { c with state := st }) :=
  updClaim_fares hc hr ho hst ha ⟨rfl, rfl, rfl, rfl, rfl, rfl, rfl, rfl⟩ rfl rfl

theorem completeClaim_fares {i : SlotIx} {c : Claim} (hc : s.claim i = some c) (hr : c.resource.kind = .drive)
    (ho : c.state.ongoing = true) : State.Fares fin ends s (s.completeClaim i) :=
  (post_fares s .complete i).trans (setState_fares (s := s.post .complete i) hc hr ho rfl ClaimState.noConfusion)

/-- The final notice of a claim that reaches the end of its course (R18). -/
theorem finish_final {i : SlotIx} {c : Claim} (hc : s.claim i = some c) (hst : c.state ≠ .spent) {d : Claim}
    (hd : (s.finish i).claim i = some d) : (s.finish i).noticed d.owner (finalKind d.endCause) i := by
  cases hb : s.barred c.owner with
  | true =>
    rw [finish_of_barred hc hb, State.freeSlot_claim, if_pos rfl] at hd
    cases hd
  | false =>
    rw [finish_of_notBarred hc hb] at hd ⊢
    rw [State.updClaim_claim, if_pos rfl, State.post_claim, hc] at hd
    cases hd
    refine post_noticed (c := c) hc hst hb fun h => ?_

    unfold finalKind at h
    split at h <;> cases h

theorem finish_slot_of_claim {i : SlotIx} {c : Claim} (hc : s.claim i = some c) : (s.finish i).slots[i] =
    if s.barred c.owner = true then ⟨s.slots[i].gen + 1, none⟩
    else ⟨s.slots[i].gen, some { c with state := .spent, deadline := none }⟩ := by
  rw [finish_slot, if_pos rfl]
  exact finished_of_some hc

theorem finish_fares_of {i : SlotIx} {c : Claim} (hc : s.claim i = some c) (hst : c.state ≠ .spent)
    (h : Slot.Fate s.barred fin (ends i) s.slots[i] (s.finish i).slots[i]) : State.Fares fin ends s (s.finish i) :=
  fares_of_slot h (fun j hj => by rw [finish_slot, if_neg hj]) (s.finish_ports i) (fun _ _ _ hn => finish_noticed hn i)
    fun _ hd _ => finish_final hc hst hd

/-- A RETIRING claim reaches the end of its course. -/
theorem finish_fares {i : SlotIx} {c : Claim} (hc : s.claim i = some c) (hr : c.state = .retiring) (hf : fin c) :
    State.Fares fin ends s (s.finish i) := by
  have hslot : s.slots[i] = ⟨s.slots[i].gen, some c⟩ := by
    rw [← hc]
    rfl
  refine finish_fares_of hc (fun e => by rw [hr] at e; cases e) ?_
  rw [finish_slot_of_claim hc]
  split
  · rename_i hb
    rw [hslot]
    exact .freed hr hf hb
  · rename_i hb
    rw [hslot]
    exact .finishes hr hf (Bool.eq_false_iff.mpr hb)

/-- The claim of an entry that begins to end. -/
theorem beginEnd_claim {i : SlotIx} {c : Claim} (hc : s.claim i = some c) (cause : EndCause) :
    (s.beginEnd i cause).claim i = some { c with endCause := some cause, deadline := none } := by
  rw [State.beginEnd, State.updClaim_claim, if_pos rfl, hc]
  rfl

/-- A claim ends at once (R15, R16). -/
theorem endNow_fares {i : SlotIx} {c : Claim} {cause : EndCause} (hc : s.claim i = some c)
    (ho : c.state.ongoing = true) (he : ends i cause) : State.Fares fin ends s (s.endNow cause i) := by
  have hlive : c.state ≠ .spent := fun e => not_ongoing_of_spent e ho
  have hbegin := beginEnd_claim hc cause
  have hslot : s.slots[i] = ⟨s.slots[i].gen, some c⟩ := by
    rw [← hc]
    rfl
  have hgen : (s.beginEnd i cause).slots[i].gen = s.slots[i].gen := by
    rw [State.beginEnd, updClaim_slot_mapClaim, if_pos rfl]
    rfl
  refine fares_of_slot (i := i) ?_ (fun j hj => endNow_slot_of_ne s cause hj) (by simp) (fun _ _ _ hn => ?_)
    fun d hd _ => finish_final hbegin hlive hd
  · rw [State.endNow, finish_slot_of_claim hbegin, hgen]
    split
    · rename_i hb
      rw [hslot]
      exact .discarded he ho hb
    · rename_i hb
      rw [hslot]
      exact .ends he ho ⟨rfl, rfl, rfl, rfl, rfl, rfl, rfl, rfl⟩ rfl rfl rfl (Bool.eq_false_iff.mpr hb)
  · exact finish_noticed (s := s.beginEnd i cause) hn i

/-- A list put in place: each entry is a claim of the channel that has not ended, or a RETIRING one at the front. -/
theorem changeList_fares (d : Drive) (old : Option SlotIx) {l : List SlotIx} (hn : l.Nodup)
    (hlive : ∀ j ∈ l, ∃ c, s.claim j = some c ∧ c.resource = .drive d ∧
      (c.state.ongoing = true ∨ c.state = .retiring ∧ l.head? = some j)) :
    State.Fares fin ends s (s.changeList d old l) := by
  have hcourse : ∀ j : SlotIx, Slot.Fate s.barred fin (ends j) s.slots[j] (s.changeList d old l).slots[j] ∧
      ∀ c, (s.changeList d old l).claim j = some c → c.state = .spent → s.claim j = some c := by
    intro j
    by_cases hj : j ∈ l
    · obtain ⟨c, hc, hr, ho⟩ := hlive j hj
      have hkind : c.resource.kind = .drive := by rw [hr]; rfl
      have hslot : s.slots[j] = ⟨s.slots[j].gen, some c⟩ := by
        rw [← hc]
        rfl
      rw [State.claim_def, changeList_slot s d old hn]
      unfold Slot.settled
      split
      · rename_i hh
        rw [hslot]
        unfold Slot.mapClaim Claim.asHead
        dsimp only [Option.map_some]
        split
        · exact ⟨.rests _, fun c' hc' hst => by cases hc'; exact hc⟩
        · rename_i hret
          have ho := ho.resolve_right fun h => hret h.1
          cases s.gateIsOpen d.parent
          · exact ⟨.shifts hkind ho rfl ClaimState.noConfusion ⟨rfl, rfl, rfl, rfl, rfl, rfl, rfl, rfl⟩ rfl rfl,
              fun c' hc' hst => by cases hc'; cases hst⟩
          · exact ⟨.shifts hkind ho rfl ClaimState.noConfusion ⟨rfl, rfl, rfl, rfl, rfl, rfl, rfl, rfl⟩ rfl rfl,
              fun c' hc' hst => by cases hc'; cases hst⟩
      · rename_i hh
        have ho := ho.resolve_right fun h => hh h.2
        rw [hslot]
        exact ⟨.shifts hkind ho rfl ClaimState.noConfusion ⟨rfl, rfl, rfl, rfl, rfl, rfl, rfl, rfl⟩ rfl rfl,
          fun c' hc' hst => by cases hc'; cases hst⟩
    · have hslot := changeList_slot_of_not_mem s d old hn hj
      rw [hslot]
      exact ⟨.rests _, fun c hc _ => (claim_of_slot hslot).symm.trans hc⟩
  exact ⟨fun j => (hcourse j).1, s.changeList_ports d old l, fun _ _ _ h => changeList_noticed h d old l,
    fun j c hc hst => .inl ((hcourse j).2 c hc hst)⟩

end Fares

end Sys2Proof.Machine
end

section
/-! SUPPORT. The order and the places of a contention list (R24 to R26), over the work on one drive channel. -/

namespace Sys2Proof.Machine

/-! ### A channel's list in its order and its places -/

/-- A drive channel's list: by falling class, every claim of R24 in it, STANDBY behind the head, and a RETIRING head
alone (R25, R26, R30). -/
structure State.Line (s : State) (d : Drive) : Prop where
  order : (s.driveList d).Pairwise fun i j => s.classOf j ≤ s.classOf i
  full : ∀ i c, s.claim i = some c → c.resource = .drive d → c.state.listed = true → i ∈ s.driveList d
  behind : ∀ h t, s.driveList d = h :: t → ∀ j ∈ t, ∀ c, s.claim j = some c → c.state = .standby
  alone : ∀ h t c, s.driveList d = h :: t → s.claim h = some c → c.state = .retiring → t = []

/-- The head of a channel stands by its gate (R26): IN_FORCE or RETIRING under an OPEN gate, SUSPENDED under a CLOSED
one. -/
def State.HeadBy (s : State) (d : Drive) (isOpen : Bool) : Prop :=
  ∀ h t c, s.driveList d = h :: t → s.claim h = some c →
    (isOpen = true → c.state = .inForce ∨ c.state = .retiring) ∧ (isOpen = false → c.state = .suspended)

/-- A gate's list: by falling class, with every ACTIVE claim on the gate (R25, R35). -/
structure State.VoteLine (s : State) (g : Gate) : Prop where
  order : (s.gateList g).Pairwise fun i j => s.classOf j ≤ s.classOf i
  full : ∀ i c, s.claim i = some c → c.resource = .gate g → c.state = .active → i ∈ s.gateList g

theorem listInv_iff (s : State) : ListInv s ↔ (∀ i c, s.claim i = some c → c.stateFits) ∧ (∀ d, s.Line d) ∧
    (∀ g, s.VoteLine g) ∧ ∀ d, s.HeadBy d (s.gateIsOpen d.parent) := by
  constructor
  · intro h
    refine ⟨h.kinds, fun d => ⟨h.driveOrder d, fun i c => h.driveListed i c d, h.waiting d, fun x t c hl hc hr => ?_⟩,
      fun g => ⟨h.gateOrder g, fun i c => h.gateListed i c g⟩, fun d x t c hl hc => ⟨fun ho => ?_, h.headClosed d x t c hl hc⟩⟩
    · cases ho : s.gateIsOpen d.parent with
      | true =>
        rcases h.headOpen d x t c hl hc ho with hi | ⟨-, hnil⟩
        · rw [hr] at hi
          cases hi
        · exact hnil
      | false =>
        have hs := h.headClosed d x t c hl hc ho
        rw [hr] at hs
        cases hs
    · exact (h.headOpen d x t c hl hc ho).imp_right And.left
  · rintro ⟨hkinds, hline, hvotes, hheads⟩
    exact ⟨hkinds, fun d => (hline d).order, fun g => (hvotes g).order, fun i c d => (hline d).full i c,
      fun i c g => (hvotes g).full i c, fun d => (hline d).behind,
      fun d x t c hl hc ho => ((hheads d x t c hl hc).1 ho).imp_right fun hr => ⟨hr, (hline d).alone x t c hl hc hr⟩,
      fun d x t c hl hc => (hheads d x t c hl hc).2⟩

theorem State.Descends.classOf {s t : State} (h : s.Descends t) {j : SlotIx} {d : Claim} (hd : t.claim j = some d) :
    t.classOf j = s.classOf j := by
  obtain ⟨c, hc, hs⟩ := h j d hd
  rw [classOf_of_claim hd, classOf_of_claim hc, hs.cls]

theorem pairwise_classOf_congr {s t : State} {l : List SlotIx} (h : ∀ j ∈ l, t.classOf j = s.classOf j)
    (hl : l.Pairwise fun i j => s.classOf j ≤ s.classOf i) : l.Pairwise fun i j => t.classOf j ≤ t.classOf i :=
  hl.imp_of_mem fun hi hj hle => by rwa [h _ hi, h _ hj]

/-! ### A channel that is left alone -/

/-- A channel's list stands, and every claim on the channel in a state of R24 stands with its class and its state. -/
structure State.AlikeOn (s t : State) (d : Drive) : Prop where
  list : t.driveList d = s.driveList d
  back : ∀ i c, t.claim i = some c → c.resource = .drive d → c.state.listed = true →
    ∃ b, s.claim i = some b ∧ b.resource = .drive d ∧ b.cls = c.cls ∧ b.state = c.state

section Alike

variable {s t : State} {d : Drive} (h : s.AlikeOn t d) (ht : TableInv t)
include h ht

theorem State.AlikeOn.entry {j : SlotIx} (hj : j ∈ s.driveList d) {c : Claim} (hc : t.claim j = some c) :
    ∃ b, s.claim j = some b ∧ b.resource = .drive d ∧ b.cls = c.cls ∧ b.state = c.state := by
  obtain ⟨c', hc', hr, hl⟩ := ht.driveEntry d j (h.list ▸ hj)
  rw [hc] at hc'
  cases hc'
  exact h.back j c hc hr hl

theorem State.Line.alike (hs : s.Line d) : t.Line d := by
  refine ⟨?_, fun i c hc hr hl => ?_, fun x l hl j hj c hc => ?_, fun x l c hl hc hret => ?_⟩
  · rw [h.list]
    refine pairwise_classOf_congr (fun j hj => ?_) hs.order
    obtain ⟨c, hc, -⟩ := ht.driveEntry d j (h.list ▸ hj)
    obtain ⟨b, hb, -, hcls, -⟩ := h.entry ht hj hc
    rw [classOf_of_claim hc, classOf_of_claim hb, hcls]
  · obtain ⟨b, hb, hbr, -, hst⟩ := h.back i c hc hr hl
    rw [h.list]
    exact hs.full i b hb hbr (hst ▸ hl)
  · rw [h.list] at hl
    obtain ⟨b, hb, -, -, hst⟩ := h.entry ht (hl ▸ List.mem_cons_of_mem _ hj) hc
    exact hst ▸ hs.behind x l hl j hj b hb
  · rw [h.list] at hl
    obtain ⟨b, hb, -, -, hst⟩ := h.entry ht (hl ▸ List.mem_cons_self) hc
    exact hs.alone x l b hl hb (hst.trans hret)

theorem State.HeadBy.alike {o : Bool} (hs : s.HeadBy d o) : t.HeadBy d o := fun x l c hl hc => by
  rw [h.list] at hl
  obtain ⟨b, hb, -, -, hst⟩ := h.entry ht (hl ▸ List.mem_cons_self) hc
  exact hst ▸ hs x l b hl hb

end Alike

theorem State.AlikeOn.trans {s t u : State} {d : Drive} (h : s.AlikeOn t d) (k : t.AlikeOn u d) : s.AlikeOn u d :=
  ⟨k.list.trans h.list, fun i c hc hr hl => by
    obtain ⟨b, hb, hbr, hcls, hst⟩ := k.back i c hc hr hl
    obtain ⟨a, ha, har, hcls', hst'⟩ := h.back i b hb hbr (hst ▸ hl)
    exact ⟨a, ha, har, hcls'.trans hcls, hst'.trans hst⟩⟩

theorem alikeOn_of_frame {s t : State} (hs : t.slots = s.slots) (hl : t.driveLists = s.driveLists) (d : Drive) :
    s.AlikeOn t d :=
  ⟨State.driveList_congr hl d, fun i c hc hr _ => ⟨c, State.claim_congr hs i ▸ hc, hr, rfl, rfl⟩⟩

/-- Work within one channel's list leaves the other channels alone. -/
theorem alikeOn_of_drive {s t : State} (hT : TableInv s) (hdesc : s.Descends t) {d e : Drive} (he : e ≠ d)
    (hlist : t.driveList e = s.driveList e) (hout : ∀ j, j ∉ s.driveList d → t.slots[j] = s.slots[j]) :
    s.AlikeOn t e := by
  refine ⟨hlist, fun i c hc hr _ => ?_⟩
  obtain ⟨b, hb, hsame⟩ := hdesc i c hc
  have hi : i ∉ s.driveList d := fun hi => by
    obtain ⟨b', hb', hbr, -⟩ := hT.driveEntry d i hi
    rw [hb] at hb'
    cases hb'
    rw [hsame.resource, hbr] at hr
    exact he (Resource.drive.inj hr).symm
  rw [claim_of_slot (hout i hi)] at hc
  exact ⟨c, hc, hr, rfl, rfl⟩

/-! ### A list put in place -/

section Change

variable (u : State) (d : Drive) (old : Option SlotIx) {l : List SlotIx} (hn : l.Nodup)
include hn

theorem changeList_classOf (j : SlotIx) : (u.changeList d old l).classOf j = u.classOf j := by
  unfold State.classOf
  rw [State.claim_def, changeList_slot u d old hn, State.claim_def]
  unfold Slot.settled Claim.asHead
  split
  · rw [mapClaim_claim, Option.map_map]
    congr 2
    funext c
    simp only [Function.comp_apply]
    split <;> rfl
  · split
    · rw [mapClaim_claim, Option.map_map]
      rfl
    · rfl

theorem changeList_line (horder : l.Pairwise fun i j => u.classOf j ≤ u.classOf i)
    (hfull : ∀ i c, u.claim i = some c → c.resource = .drive d → c.state.listed = true → i ∈ l)
    (halone : ∀ h t c, l = h :: t → u.claim h = some c → c.state = .retiring → t = []) :
    (u.changeList d old l).Line d := by
  have hlist : (u.changeList d old l).driveList d = l := by rw [changeList_driveList, if_pos rfl]
  refine ⟨?_, fun i c hc hr hst => ?_, fun x t hl j hj c hc => ?_, fun x t c hl hc hret => ?_⟩
  · rw [hlist]
    exact pairwise_classOf_congr (fun j _ => changeList_classOf u d old hn j) horder
  · rw [hlist]
    by_contra hi
    rw [claim_of_slot (changeList_slot_of_not_mem u d old hn hi)] at hc
    exact hi (hfull i c hc hr hst)
  · rw [hlist] at hl
    subst hl
    rw [changeList_claim_behind u d old hn hj] at hc
    obtain ⟨b, -, rfl⟩ := Option.map_eq_some_iff.mp hc
    rfl
  · rw [hlist] at hl
    subst hl
    rw [changeList_claim_head u d old hn] at hc
    obtain ⟨b, hb, rfl⟩ := Option.map_eq_some_iff.mp hc
    refine halone x t b rfl hb ?_
    by_contra hne
    rw [Claim.asHead, if_neg hne] at hret
    dsimp only at hret
    split at hret <;> cases hret

/-- The front entry of a list put in place stands by the gate, where none RETIRING is put under a CLOSED one. -/
theorem changeList_headBy (hret : u.gateIsOpen d.parent = false →
    ∀ h t c, l = h :: t → u.claim h = some c → c.state ≠ .retiring) :
    (u.changeList d old l).HeadBy d (u.gateIsOpen d.parent) := by
  intro x t c hl hc
  rw [changeList_driveList, if_pos rfl] at hl
  subst hl
  rw [changeList_claim_head u d old hn] at hc
  obtain ⟨b, hb, rfl⟩ := Option.map_eq_some_iff.mp hc
  unfold Claim.asHead
  cases ho : u.gateIsOpen d.parent with
  | true =>
    refine ⟨fun _ => ?_, fun hf => nomatch hf⟩
    split
    · rename_i hr
      exact .inr hr
    · exact .inl rfl
  | false =>
    refine ⟨fun hf => (Bool.noConfusion hf), fun _ => ?_⟩
    rw [if_neg (hret ho x t b rfl hb)]
    rfl

end Change

/-- A list that entries have left: each of them is off the list, by its state or FREE. -/
structure State.LeftBy (s u : State) (d : Drive) (l : List SlotIx) : Prop where
  descends : s.Descends u
  lists : u.driveLists = s.driveLists
  outside : ∀ j, j ∉ s.driveList d → u.slots[j] = s.slots[j]
  sublist : l.Sublist (s.driveList d)
  live : ∀ j ∈ l, ∃ c, u.claim j = some c
  left : ∀ j ∈ s.driveList d, j ∉ l → ∀ c, u.claim j = some c → c.state.listed = false

theorem State.LeftBy.line {s u : State} {d : Drive} {l : List SlotIx} (h : s.LeftBy u d l) (hT : TableInv s)
    (hs : s.Line d) (halone : ∀ x t c, l = x :: t → u.claim x = some c → c.state = .retiring → t = [])
    (old : Option SlotIx) : (u.changeList d old l).Line d := by
  refine changeList_line u d old ((hT.driveNodup d).sublist h.sublist) ?_ (fun i c hc hr hst => ?_) halone
  · refine pairwise_classOf_congr (fun j hj => ?_) (hs.order.sublist h.sublist)
    obtain ⟨c, hc⟩ := h.live j hj
    exact h.descends.classOf hc
  · by_contra hil
    by_cases hi : i ∈ s.driveList d
    · rw [h.left i hi hil c hc] at hst
      cases hst
    · rw [claim_of_slot (h.outside i hi)] at hc
      exact hi (hs.full i c hc hr hst)

/-- The head's claim changed where it stands. -/
theorem State.Line.headChanged {s t : State} {d : Drive} (hs : s.Line d) {h : SlotIx} {l : List SlotIx}
    (hl : s.driveList d = h :: l) (hlists : t.driveLists = s.driveLists) (hother : ∀ j, j ≠ h → t.slots[j] = s.slots[j])
    {b c : Claim} (hb : s.claim h = some b) (hc : t.claim h = some c) (hcls : c.cls = b.cls)
    (hret : c.state = .retiring → b.state = .retiring) (hn : h ∉ l) : t.Line d := by
  have hlist := State.driveList_congr hlists d
  have hclaim : ∀ {j}, j ≠ h → t.claim j = s.claim j := fun hj => claim_of_slot (hother _ hj)
  refine ⟨?_, fun i c' hc' hr hst => ?_, fun x l' hl' j hj c' hc' => ?_, fun x l' c' hl' hc' hr => ?_⟩
  · rw [hlist]
    refine pairwise_classOf_congr (fun j _ => ?_) hs.order
    by_cases hj : j = h
    · rw [hj, classOf_of_claim hc, classOf_of_claim hb, hcls]
    · rw [State.classOf, hclaim hj]
      rfl
  · rw [hlist]
    by_cases hi : i = h
    · exact hi ▸ hl ▸ List.mem_cons_self
    · exact hs.full i c' (hclaim hi ▸ hc') hr hst
  · rw [hlist, hl] at hl'
    cases hl'
    have hne : j ≠ h := fun e => hn (e ▸ hj)
    exact hs.behind h l hl j hj c' (hclaim hne ▸ hc')
  · rw [hlist, hl] at hl'
    cases hl'
    rw [hc] at hc'
    cases hc'
    exact hs.alone h l b hl hb (hret hr)

/-! ### All lists -/

/-- The lists of the Claim Table agree with the slots and stand in their order, and every claim's state suits its
resource. -/
structure State.Ranked (s : State) : Prop where
  table : TableInv s
  line : ∀ d, s.Line d
  votes : ∀ g, s.VoteLine g
  fits : ∀ i c, s.claim i = some c → c.stateFits

theorem stateFits_of_fate {barred : Link → Bool} {fin : Claim → Prop} {ends : EndCause → Prop} {x y : Slot}
    (h : Slot.Fate barred fin ends x y) (hx : ∀ c, x.claim = some c → c.stateFits) {d : Claim} (hd : y.claim = some d) :
    d.stateFits := by
  have hdrive : ∀ {c : Claim}, c.Same d → c.resource.kind = .drive → d.state ≠ .active → d.stateFits := fun hs hr ha => by
    unfold Claim.stateFits
    rwa [hs.resource, if_pos hr]
  have hspent : d.state = .spent → d.stateFits := fun hst => by
    unfold Claim.stateFits
    split
    · rw [hst]
      exact ClaimState.noConfusion
    · exact .inr hst
  cases h with
  | rests => exact hx d hd
  | shifts hr _ _ ha hs => cases hd; exact hdrive hs hr ha
  | finishes => cases hd; exact hspent rfl
  | winds _ hr _ hs hst => cases hd; exact hdrive hs hr (by rw [hst]; exact ClaimState.noConfusion)
  | ends _ _ _ hst => cases hd; exact hspent hst
  | freed | discarded => cases hd

section After

variable {fin : Claim → Prop} {ends : SlotIx → EndCause → Prop} {s t : State}

theorem State.VoteLine.after {g : Gate} (h : s.VoteLine g) (ht : TableInv t) (hf : State.Fares fin ends s t)
    (hsub : (t.gateList g).Sublist (s.gateList g))
    (hleft : ∀ i ∈ s.gateList g, i ∉ t.gateList g → ∀ c, t.claim i = some c → c.state ≠ .active) : t.VoteLine g := by
  refine ⟨pairwise_classOf_congr (fun j hj => ?_) (h.order.sublist hsub), fun i c hc hr hst => ?_⟩
  · obtain ⟨c, hc, -⟩ := ht.gateEntry g j hj
    exact hf.descends.classOf hc
  · by_contra hi
    have hslot := (hf.slots i).active hc hst
    exact hleft i (h.full i c ((claim_of_slot hslot).trans hc) hr hst) hi c hc hst

/-- The lists after work that leaves the gates' lists. -/
theorem State.Ranked.after (h : s.Ranked) (ht : TableInv t) (hf : State.Fares fin ends s t)
    (hg : t.gateLists = s.gateLists) (hline : ∀ d, t.Line d) : t.Ranked :=
  ⟨ht, hline, fun g => (h.votes g).after ht hf (State.gateList_congr hg g ▸ List.Sublist.refl _)
    fun i hi hn => absurd (State.gateList_congr hg g ▸ hi) hn, fun i _ hc => stateFits_of_fate (hf.slots i) (h.fits i) hc⟩

/-- The lists after work on one channel. -/
theorem State.Ranked.afterDrive (h : s.Ranked) (ht : TableInv t) (hf : State.Fares fin ends s t)
    (hg : t.gateLists = s.gateLists) {d : Drive} (hothers : ∀ e, e ≠ d → t.driveList e = s.driveList e)
    (hout : ∀ j, j ∉ s.driveList d → t.slots[j] = s.slots[j]) (hd : t.Line d) : t.Ranked :=
  h.after ht hf hg fun e => if he : e = d then he ▸ hd else
    (h.line e).alike (alikeOn_of_drive h.table hf.descends he (hothers e he) hout) ht

theorem State.Ranked.afterWork (h : s.Ranked) {work : State → Drive → State} (hw : WorksInList work) {d : Drive}
    (ht : TableInv (work s d)) (hf : State.Fares fin ends s (work s d)) (hg : (work s d).gateLists = s.gateLists)
    (hd : (work s d).Line d) : (work s d).Ranked :=
  h.afterDrive ht hf hg (hw.others s d) (hw.outside s d (h.table.driveNodup d)) hd

end After

/-- Every claim stands with its resource, its class and its state, and no claim is new. -/
def State.SamePlaces (s t : State) : Prop := ∀ i c, t.claim i = some c →
  ∃ b, s.claim i = some b ∧ b.resource = c.resource ∧ b.cls = c.cls ∧ b.state = c.state

section Places

variable {s t : State} (h : s.SamePlaces t)
include h

theorem State.SamePlaces.classOf {j : SlotIx} {c : Claim} (hc : t.claim j = some c) : t.classOf j = s.classOf j := by
  obtain ⟨b, hb, -, hcls, -⟩ := h j c hc
  rw [classOf_of_claim hc, classOf_of_claim hb, hcls]

theorem State.SamePlaces.alikeOn (hd : t.driveLists = s.driveLists) (d : Drive) : s.AlikeOn t d :=
  ⟨State.driveList_congr hd d, fun i c hc hr _ => by
    obtain
 ⟨b, hb, hbr, hcls, hst⟩ := h i c hc
    exact ⟨b, hb, hbr.trans hr, hcls, hst⟩⟩

theorem State.Ranked.places (hs : s.Ranked) (ht : TableInv t) (hd : t.driveLists = s.driveLists)
    (hg : t.gateLists = s.gateLists) : t.Ranked := by
  refine ⟨ht, fun d => (hs.line d).alike (h.alikeOn hd d) ht, fun g => ⟨?_, fun i c hc hr hst => ?_⟩, fun i c hc => ?_⟩
  · refine pairwise_classOf_congr (fun j hj => ?_) (State.gateList_congr hg g ▸ (hs.votes g).order)
    obtain ⟨c, hc, -⟩ := ht.gateEntry g j hj
    exact h.classOf hc
  · obtain ⟨b, hb, hbr, -, hbst⟩ := h i c hc
    rw [State.gateList_congr hg]
    exact (hs.votes g).full i b hb (hbr.trans hr) (hbst.trans hst)
  · obtain ⟨b, hb, hbr, -, hbst⟩ := h i c hc
    have hfits := hs.fits i b hb
    unfold Claim.stateFits at hfits ⊢
    rwa [hbr, hbst] at hfits

end Places

theorem samePlaces_of_slots {s t : State} (h : t.slots = s.slots) : s.SamePlaces t := fun i c hc =>
  ⟨c, State.claim_congr h i ▸ hc, rfl, rfl, rfl⟩

end Sys2Proof.Machine
end

section
/-! SUPPORT. The work on one drive channel's list: what it leaves of the order, of the places and of each claim's course. -/

namespace Sys2Proof.Machine

theorem ongoing_of_listed {st : ClaimState} (h : st.listed = true) (hr : st ≠ .retiring) : st.ongoing = true := by
  cases st
  case retiring => exact absurd rfl hr
  case complete | active | spent => cases h
  all_goals rfl

theorem postState_fares {fin : Claim → Prop} {ends : SlotIx → EndCause → Prop} {s : State} {i : SlotIx} {c : Claim}
    (hc : s.claim i = some c) (hr : c.resource.kind = .drive) (ho : c.state.ongoing = true) {st : ClaimState}
    (hst : st.ongoing = true) (ha : st ≠ .active) (k : NoticeKind) :
    State.Fares fin ends s ((s.post k i).updClaim i fun c => { c with state := st }) :=
  (post_fares s k i).trans (setState_fares (s := s.post k i) hc hr ho hst ha)

/-- Work on one channel of lists in order:
 the channel's list stays in its order, every claim takes its course, and a
head by a gate in one state comes to stand by a gate in the other. -/
structure State.Works (fin : Claim → Prop) (ends : SlotIx → EndCause → Prop) (s t : State) (d : Drive)
    (before after : Bool) : Prop where
  line : t.Line d
  fares : State.Fares fin ends s t
  heads : s.HeadBy d before → t.HeadBy d after

section Works

variable {fin : Claim → Prop} {ends : SlotIx → EndCause → Prop} {s t u v : State} {d : Drive} {h : SlotIx}
  {l : List SlotIx}

/-- Work after a change that leaves the slots, the lists, the ports and the notices. -/
theorem State.Works.afterFrame {o o' : Bool} (hw : State.Works fin ends t u d o o') (hs : t.slots = s.slots)
    (hl : t.driveLists = s.driveLists) (hp : t.ports = s.ports) (hn : t.notices = s.notices) :
    State.Works fin ends s u d o o' :=
  ⟨hw.line, (fares_of_frame hs hp hn).trans hw.fares, fun hh => hw.heads fun x l c hxl hc => hh x l c
    (State.driveList_congr hl d ▸ hxl) (State.claim_congr hs x ▸ hc)⟩

theorem State.Works.thenFrame {o o' : Bool} (hw : State.Works fin ends s t d o o') (htable : TableInv u)
    (hs : u.slots = t.slots) (hl : u.driveLists = t.driveLists) (hp : u.ports = t.ports) (hn : u.notices = t.notices) :
    State.Works fin ends s u d o o' :=
  ⟨hw.line.alike (alikeOn_of_frame hs hl d) htable, hw.fares.trans (fares_of_frame hs hp hn),
    fun hh => (hw.heads hh).alike (alikeOn_of_frame hs hl d) htable⟩

variable (hr : s.Ranked)
include hr

theorem State.Ranked.entry {j : SlotIx} (hj : j ∈ s.driveList d) :
    ∃ c, s.claim j = some c ∧ c.resource = .drive d ∧ c.state.listed = true := hr.table.driveEntry d j hj

theorem State.Ranked.rest (hl : s.driveList d = h :: l) {j : SlotIx} (hj : j ∈ l) :
    j ≠ h ∧ ∃ c, s.claim j = some c ∧ c.resource = .drive d ∧ c.state = .standby := by
  obtain ⟨c, hc, hres, -⟩ := hr.entry (hl ▸ List.mem_cons_of_mem _ hj : j ∈ s.driveList d)
  exact ⟨fun e => (hr.table.tail_nodup hl).1 (e ▸ hj), c, hc, hres, (hr.line d).behind h l hl j hj c hc⟩

theorem State.Ranked.setDrive (ch : DriveChannel) : (s.setDrive d ch).Ranked :=
  State.Ranked.places (samePlaces_of_slots (s := s) rfl) hr (setDrive_tableInv hr.table d ch) rfl rfl

theorem works_of_same (o : Bool) : State.Works fin ends s s d o o := ⟨hr.line d, .refl s, id⟩

variable (hl : s.driveList d = h :: l)
include hl

/-- The head has left its list, and the entries behind it become the list (R28, R30). -/
theorem works_of_headLeaves (hf : State.Fares fin ends s u) (hlists : u.driveLists = s.driveLists)
    (hgates : u.gates = s.gates) (hother : ∀ j, j ≠ h → u.slots[j] = s.slots[j])
    (hout : ∀ c, u.claim h = some c → c.state.listed = false) (old : Option SlotIx) (o : Bool) :
    State.Works fin ends s (u.changeList d old l) d o (s.gateIsOpen d.parent) := by
  obtain ⟨hh, hn⟩ := hr.table.tail_nodup hl
  have hrest : ∀ j ∈ l, ∃ c, u.claim j = some c ∧ c.resource = .drive d ∧ c.state = .standby := fun j hj => by
    obtain ⟨hne, c, hc, hres, hst⟩ := hr.rest hl hj
    exact ⟨c, (claim_of_slot (hother j hne)).trans hc, hres, hst⟩
  have hnever : ∀ x t c, l = x :: t → u.claim x = some c → c.state ≠ .retiring := fun x t c e hc hret => by
    obtain ⟨c', hc', -, hst⟩ := hrest x (e ▸ List.mem_cons_self)
    rw [hc] at hc'
    cases hc'
    rw [hret] at hst
    cases hst
  have hleft : s.LeftBy u d l := by
    refine ⟨hf.descends, hlists, fun j hj => hother j fun e => hj (e ▸ hl ▸ List.mem_cons_self), ?_, fun j hj => ?_,
      fun j hj hjl c hc => ?_⟩
    · rw [hl]
      exact List.sublist_cons_self h l
    · obtain ⟨c, hc, -⟩ := hrest j hj
      exact ⟨c, hc⟩
    · rw [hl] at hj
      have hjh := (List.mem_cons.mp hj).resolve_right hjl
      exact hout c (hjh ▸ hc)
  have hopen : u.gateIsOpen d.parent = s.gateIsOpen d.parent := by rw [State.gateIsOpen, hgates]; rfl
  refine ⟨hleft.line hr.table (hr.line d) (fun x t c e hc hret => absurd hret (hnever x t c e hc)) old,
    hf.trans (changeList_fares d old hn fun j hj => ?_), fun _ => ?_⟩
  · obtain ⟨c, hc, hres, hst⟩ := hrest j hj
    exact ⟨c, hc, hres, .inl (by rw [hst]; rfl)⟩
  · rw [← hopen]
    exact changeList_headBy u d old hn fun _ => hnever

/-- A RETIRING head reaches the end of its course and leaves (R18). -/
theorem works_of_headFinishes {c : Claim} (hc : s.claim h = some c) (hret : c.state = .retiring) (hfin : fin c)
    (old : Option SlotIx) (o : Bool) :
    State.Works fin ends s ((s.finish h).changeList d old l) d o (s.gateIsOpen d.parent) := by
  refine works_of_headLeaves hr hl (finish_fares hc hret hfin) (s.finish_driveLists h) (s.finish_gates h)
    (fun j hj => by rw [finish_slot, if_neg hj]) (fun d hd => ?_) old o
  rw [State.claim_def, finish_slot_of_claim hc] at hd
  split at hd
  · cases hd
  · cases hd
    rfl

/-- A head that has not ended completes and leaves (R32). -/
theorem works_of_headCompletes {c : Claim} (hc : s.claim h = some c) (hret : c.state ≠ .retiring) (old : Option SlotIx)
    (o : Bool) : State.Works fin ends s ((s.completeClaim h).changeList d old l) d o (s.gateIsOpen d.parent) := by
  obtain ⟨c', hc', hres, hst⟩ := hr.entry (hl ▸ List.mem_cons_self : h ∈ s.driveList d)
  rw [hc] at hc'
  cases hc'
  refine works_of_headLeaves hr hl (completeClaim_fares hc (by rw [hres]; rfl) (ongoing_of_listed hst hret))
    (s.completeClaim_driveLists h) (s.completeClaim_gates h) (fun j hj => completeClaim_slot_of_ne s hj)
    (fun d hd => ?_) old o
  rw [completeClaim_claim hc] at hd
  cases hd
  rfl

/-- The head's claim changes where it stands, from a state that is not RETIRING to another. -/
theorem works_of_headStays {b c : Claim} {o o' : Bool} (hf : State.Fares fin ends s t) (hlists : t.driveLists = s.driveLists)
    (hother : ∀ j, j ≠ h → t.slots[j] = s.slots[j]) (hb : s.claim h = some b) (hc : t.claim h = some c)
    (hret : c.state ≠ .retiring) (hhead : s.HeadBy d o → (o' = true → c.state = .inForce ∨ c.state = .retiring) ∧
      (o' = false → c.state = .suspended)) : State.Works fin ends s t d o o' := by
  obtain ⟨b', hb', hs⟩ := hf.descends h c hc
  rw [hb] at hb'
  cases hb'
  refine ⟨(hr.line d).headChanged hl hlists hother hb hc hs.cls (fun e => absurd e hret) (hr.table.tail_nodup hl).1, hf,
    fun hh x t' c' hl' hc' => ?_⟩
  rw [State.driveList_congr hlists, hl] at hl'
  cases hl'
  rw [hc] at hc'
  cases hc'
  exact hhead hh

end Works

/-! ### A channel halts and is released (R43, R45) -/

section Channel

variable {fin : Claim → Prop} {ends : SlotIx → EndCause → Prop} {s : State} (hr : s.Ranked) (d : Drive)
include hr

theorem haltChannel_works (hfin : ∀ c : Claim, c.resource = .drive d → fin c) (hclosed : s.gateIsOpen d.parent = false)
    (p : StopPattern) : State.Works fin ends s (s.haltChannel d p) d true false := by
  have hset : (s.setDrive d ⟨.halted, 0, p.pins, 0⟩).Ranked := hr.setDrive _
  have hclosed' : (s.setDrive d ⟨.halted, 0, p.pins, 0⟩).gateIsOpen d.parent = false := hclosed
  have hframe : ∀ {v : State} {o o' : Bool}, State.Works fin ends (s.setDrive d ⟨.halted, 0, p.pins, 0⟩) v d o o' →
      State.Works fin ends s v d o o' := fun hw => hw.afterFrame rfl rfl rfl rfl
  have hquiet : (∀ h t c, s.driveList d = h :: t → s.claim h = some c → c.state ≠ .inForce ∧ c.state ≠ .retiring) →
      State.Works fin ends s (s.setDrive d ⟨.halted, 0, p.pins, 0⟩) d true false := fun hno =>
    ⟨hset.line d, fares_of_frame rfl rfl rfl, fun hh x t c hl hc =>
      (((hh x t c hl hc).1 rfl).elim (fun e => absurd e (hno x t c hl hc).1) fun e => absurd e (hno x t c hl hc).2)⟩
  cases hl : s.driveList d with
  | nil =>
    rw [haltChannel_of_empty hl]
    exact hquiet fun x t c hl' => by rw [hl] at hl'; cases hl'
  | cons h t =>
    obtain ⟨c, hc, hres, hst⟩ := hr.entry (hl ▸ List.mem_cons_self : h ∈ s.driveList d)
    by_cases hret : c.state = .retiring
    · rw [haltChannel_of_retiring hl hc p hret]
      exact hframe (hclosed' ▸ works_of_headFinishes hset hl hc hret (hfin c hres) _ true)
    by_cases hi : c.state = .inForce
    · cases hb : c.burstFinished with
      | true =>
        rw [haltChannel_of_finished hl hc p hi hb]
        exact hframe (hclosed' ▸ works_of_headCompletes hset hl hc hret _ true)
      | false =>
        rw [haltChannel_of_inForce hl hc p hi hb]
        refine hframe (works_of_headStays hset hl (b := c) (c := { c with state := .suspended }) ?_ rfl (fun j hj => ?_) hc
          ?_ ClaimState.noConfusion fun _ => ⟨fun e => Bool.noConfusion e, fun _ => rfl⟩)
        · exact postState_fares (s := s.setDrive d _) hc (by rw [hres]; rfl) (by rw [hi]; rfl) rfl
            ClaimState.noConfusion .suspended
        · rw [State.updClaim_slot, if_neg hj, State.post_slots]
        · rw [State.updClaim_claim, if_pos rfl, State.post_claim]
          exact congrArg (Option.map _) hc
    · rw [haltChannel_of_other hl hc p hret hi]
      refine hquiet fun x t' c' hl' hc' => ?_
      rw [hl] at hl'
      cases hl'
      rw [hc] at hc'
      cases hc'
      exact ⟨hi, hret⟩

theorem releaseChannel_works : State.Works fin ends s (s.releaseChannel d) d false true := by
  have hset : (s.leftHalted d).Ranked := hr.setDrive _
  have hquiet : (∀ h t c, s.driveList d = h :: t → s.claim h = some c → c.state ≠ .suspended) →
      State.Works fin ends s (s.leftHalted d) d false true := fun hno =>
    ⟨hset.line d, fares_of_frame rfl rfl rfl, fun hh x t c hl hc => absurd ((hh x t c hl hc).2 rfl) (hno x t c hl hc)⟩
  cases hl : s.driveList d with
  | nil =>
    rw [releaseChannel_of_empty hl]
    exact hquiet fun x t c hl' => by rw [hl] at hl'; cases hl'
  | cons h t =>
    obtain ⟨c, hc, hres, hst⟩ := hr.entry (hl ▸ List.mem_cons_self : h ∈ s.driveList d)
    rw [releaseChannel_of_cons hl]
    split
    · rename_i hsusp
      obtain ⟨c', hc', hsusp⟩ := (State.claimIs_iff _ _ _).mp hsusp
      rw [hc] at hc'
      cases hc'
      have hi : c.state = .suspended := of_decide_eq_true hsusp
      have hw : State.Works fin ends (s.leftHalted d)
          (((s.leftHalted d).post .resumed h).updClaim h fun c => { c with state := .inForce }) d false true := by
        refine works_of_headStays hset hl (b := c) (c := { c with state := .inForce }) ?_ rfl (fun j hj => ?_) hc ?_
          ClaimState.noConfusion fun _ => ⟨fun _ => .inl rfl, fun e => Bool.noConfusion e⟩
        · exact postState_fares (s := s.leftHalted d) hc (by rw [hres]; rfl) (by rw [hi]; rfl) rfl
            ClaimState.noConfusion .resumed
        · rw [State.updClaim_slot, if_neg hj, State.post_slots]
        · rw [State.updClaim_claim, if_pos rfl, State.post_claim]
          exact congrArg (Option.map _) hc
      exact hw.afterFrame rfl rfl rfl rfl
    · rename_i hno
      refine hquiet fun x t' c' hl' hc' hs => hno ?_
      rw [hl] at hl'
      cases hl'
      exact (State.claimIs_iff _ _ _).mpr ⟨c', hc', decide_eq_true hs⟩

/-! ### A channel's period end (R68 to R74) -/

omit hr in
/-- The state of the head that each report supposes. -/
theorem headReport_state (s : State) (d : Drive) (v : HeadView) :
    (s.headReport d v = .counts ∨ s.headReport d v = .countsOut → v.state = .inForce) ∧
      (s.headReport d v = .finishes → v.state = .retiring) ∧ (s.headReport d v = .completes → v.state ≠ .retiring) := by
  have hzero : ∀ n, (v.reportAtZero n ≠ .counts ∧ v.reportAtZero n ≠ .countsOut) ∧
      (v.reportAtZero n = .finishes → v.state = .retiring) ∧ (v.reportAtZero n = .completes → v.state ≠ .retiring) := by
    intro n
    unfold HeadView.reportAtZero
    split
    · rename_i h
      exact ⟨⟨HeadReport.noConfusion, HeadReport.noConfusion⟩, fun _ => h, HeadReport.noConfusion⟩
    · rename_i h
      split
      · exact ⟨⟨HeadReport.noConfusion, HeadReport.noConfusion⟩, HeadReport.noConfusion, fun _ => h⟩
      · exact ⟨⟨HeadReport.noConfusion, HeadReport.noConfusion⟩, HeadReport.noConfusion, HeadReport.noConfusion⟩
  have hstays : ((HeadReport.stays = .counts ∨ HeadReport.stays = .countsOut → v.state = .inForce) ∧
      (HeadReport.stays = .finishes → v.state = .retiring) ∧ (HeadReport.stays = .completes → v.state ≠ .retiring)) :=
    ⟨fun h => h.elim HeadReport.noConfusion HeadReport.noConfusion, HeadReport.noConfusion, HeadReport.noConfusion⟩
  have hatZero : ∀ n, (v.reportAtZero n = .counts ∨ v.reportAtZero n = .countsOut → v.state = .inForce) ∧
      (v.reportAtZero n = .finishes → v.state = .retiring) ∧ (v.reportAtZero n = .completes → v.state ≠ .retiring) :=
    fun n => ⟨fun h => (h.elim (hzero n).1.1 (hzero n).1.2).elim, (hzero n).2⟩
  have hrunning : ∀ duty n, (v.reportRunning duty n = .counts ∨ v.reportRunning duty n = .countsOut → v.state = .inForce) ∧
      (v.reportRunning duty n = .finishes → v.state = .retiring) ∧
      (v.reportRunning duty n = .completes → v.state ≠ .retiring) := by
    intro duty n
    unfold HeadView.reportRunning
    split
    · rename_i hcounts
      have hin := ((counts_iff v duty).mp hcounts).1
      split <;> exact ⟨fun _ => hin, HeadReport.noConfusion, HeadReport.noConfusion⟩
    · split
      · exact hatZero n
      · exact hstays
  have hwinding : ∀ duty n, (v.reportWinding duty n = .counts ∨ v.reportWinding duty n = .countsOut → v.state = .inForce) ∧
      (v.reportWinding duty n = .finishes → v.state = .retiring) ∧
      (v.reportWinding duty n = .completes → v.state ≠ .retiring) := by
    intro duty n
    unfold HeadView.reportWinding
    split
    · exact hatZero n
    · exact hstays
  unfold State.headReport
  dsimp only
  split
  · exact hstays
  · exact hstays
  · exact hstays
  · split
    · exact hstays
    · exact hrunning _ _
  · split
    · exact hwinding _ _
    · exact hrunning _ _
  · split
    · exact hrunning _ _
    · exact hwinding _ _

omit hr in
theorem countBurst_same_fields (c : Claim) : (Claim.countBurst c).endCause = c.endCause ∧
    (Claim.countBurst c).deadline = c.deadline := by
  unfold Claim.countBurst
  split <;> exact ⟨rfl, rfl⟩

theorem take_works {h : SlotIx} {t : List SlotIx} {c : Claim} (hl : s.driveList d = h :: t) (hc : s.claim h = some c)
    {r : HeadReport} (hfin : ∀ c : Claim, c.resource = .drive d → fin c)
    (hcounts : r = .counts ∨ r = .countsOut → c.state = .inForce) (hfinishes : r = .finishes → c.state = .retiring)
    (hcompletes : r = .completes → c.state ≠ .retiring) :
    State.Works fin ends s (s.take d h r) d (s.gateIsOpen d.parent) (s.gateIsOpen d.parent) := by
  obtain ⟨c', hc', hres, hst⟩ := hr.entry (hl ▸ List.mem_cons_self : h ∈ s.driveList d)
  rw [hc] at hc'
  cases hc'
  have htail : (s.driveList d).tail = t := by rw [hl]; rfl
  have hcount : c.state = .inForce → State.Fares fin ends s (s.updClaim h Claim.countBurst) ∧
      (s.updClaim h Claim.countBurst).claim h = some (Claim.countBurst c) ∧
      (Claim.countBurst c).state = .inForce := fun hi => by
    obtain ⟨hcause, hline⟩ := countBurst_same_fields c
    have hst' := (countBurst_state c).trans hi
    refine ⟨updClaim_fares hc (by rw [hres]; rfl) (by rw [hi]; rfl) (by rw [hst']; rfl) ?_ (Claim.countBurst_same c)
      hcause hline, ?_, hst'⟩
    · rw [hst']
      exact ClaimState.noConfusion
    · rw [State.updClaim_claim, if_pos rfl, hc]
      rfl
  cases r with
  | stays => exact works_of_same hr _
  | counts =>
    have hi := hcounts (.inl rfl)
    obtain ⟨hf, hnew, hst'⟩ := hcount hi
    refine works_of_headStays hr hl hf rfl (fun j hj => ?_) hc hnew (by rw [hst']; exact ClaimState.noConfusion) fun hh => ?_
    · exact (updClaim_worksAt s h Claim.countBurst).slots j hj
    · have hplace := hh h t c hl hc
      rw [hi] at hplace
      rw [hst']
      exact hplace
  | countsOut =>
    obtain ⟨hf, hnew, hst'⟩ := hcount (hcounts (.inr rfl))
    have hranked : (s.updClaim h Claim.countBurst).Ranked :=
      hr.afterDrive (d := d) (countBurst_tableInv hr.table h) hf rfl (fun _ _ => rfl)
        (fun j hj => (updClaim_worksAt s h Claim.countBurst).slots j fun e => hj (e ▸ hl ▸ List.mem_cons_self))
        ((hr.line d).headChanged hl rfl (updClaim_worksAt s h Claim.countBurst).slots hc hnew (Claim.countBurst_same c).cls
          (fun e => by rw [hst'] at e; cases e) (hr.table.tail_nodup hl).1)
    have hw := works_of_headCompletes (fin := fin) (ends := ends) (d := d) hranked hl hnew
      (by rw [hst']; exact ClaimState.noConfusion) (some h) (s.gateIsOpen d.parent)
    have hwhole : State.Works fin ends s (((s.updClaim h Claim.countBurst).completeClaim h).changeList d (some h) t) d
        (s.gateIsOpen d.parent) (s.gateIsOpen d.parent) := by
      refine ⟨hw.line, hf.trans hw.fares, fun hh => hw.heads fun x l c' hl' hc' => ?_⟩
      have hplace := hh h t c hl hc
      rw [hcounts (.inr rfl)] at hplace
      have hx : x :: l = h :: t := hl'.symm.trans hl
      cases hx
      rw [hnew] at hc'
      cases hc'
      rw [hst']
      exact hplace
    rwa [← htail] at hwhole
  | finishes =>
    have hw := works_of_headFinishes (fin := fin) (ends := ends) hr hl hc (hfinishes rfl) (hfin c hres) (some h)
      (s.gateIsOpen d.parent)
    rwa [← htail] at hw
  | completes =>
    have hw := works_of_headCompletes (fin := fin) (ends := ends) hr hl hc (hcompletes rfl) (some h)
      (s.gateIsOpen d.parent)
    rwa [← htail] at hw

theorem channelPeriodEnd_works (hfin : ∀ c : Claim, c.resource = .drive d → fin c) :
    State.Works fin ends s (s.channelPeriodEnd d) d (s.gateIsOpen d.parent) (s.gateIsOpen d.parent) := by
  have hset : (s.setDrive d (s.workedChannel d)).Ranked := hr.setDrive _
  have htable := channelPeriodEnd_tableInv hr.table d
  cases hv : s.headView d with
  | none =>
    rw [channelPeriodEnd_of_noView hv] at htable ⊢
    have hw : State.Works fin ends (s.setDrive d (s.workedChannel d)) (s.setDrive d (s.workedChannel d)) d
        (s.gateIsOpen d.parent) (s.gateIsOpen d.parent) := works_of_same hset _
    exact (hw.thenFrame htable rfl rfl rfl rfl).afterFrame rfl rfl rfl rfl
  | some v =>
    rw [channelPeriodEnd_of_view hv] at htable ⊢
    obtain ⟨c, tl, hl, hc, hst, -⟩ := (headView_eq_some_iff s d v).mp hv
    obtain ⟨h1, h2, h3⟩ := headReport_state s d v
    have hw := take_works (fin := fin) (ends := ends) hset d (r := s.headReport d v) hl hc hfin (fun e => hst.trans (h1 e))
      (fun e => hst.trans (h2 e)) fun e => hst ▸ h3 e
    exact (hw.thenFrame htable (State.formCompare_slots ..) (State.formCompare_driveLists ..) (State.formCompare_ports ..)
      (State.formCompare_notices ..)).afterFrame rfl rfl rfl rfl

end Channel

end Sys2Proof.Machine
end

section
/-! SUPPORT. The work of a gate on the lists of its channels: closings, openings and period ends. -/

namespace Sys2Proof.Machine

/-- Every channel's head stands by its gate. -/
def State.Heads (s : State) : Prop := ∀ d, s.HeadBy d (s.gateIsOpen d.parent)

theorem listInv_of_ranked {s : State} (h : s.Ranked) (hh : s.Heads) : ListInv s :=
  (listInv_iff s).mpr ⟨h.fits, h.line, h.votes, hh⟩

theorem ranked_of_inv {s : State} (ht : TableInv s) (h : ListInv s) : s.Ranked := by
  obtain ⟨hfits, hline, hvotes, -⟩ := (listInv_iff s).mp h
  exact ⟨ht, hline, hvotes, hfits⟩

theorem heads_of_inv {s : State} (h : ListInv s) : s.Heads := ((listInv_iff s).mp h).2.2.2

section Fold

variable {fin : Claim → Prop} {ends : SlotIx → EndCause → Prop} {work : State → Drive → State} {G : State → Prop}
  {before after : Bool}

/-- Work on one channel after another: each channel worked comes to stand by the gate after, the others are left alone. -/
theorem foldl_works (hw : WorksInList work) (htable : ∀ u d, TableInv u → TableInv (work u d))
    (hgl : ∀ u d, (work u d).gateLists = u.gateLists) (hG : ∀ u d, G u → G (work u d)) :
    ∀ {ds : List Drive} {s : State}, (∀ u, ∀ d ∈ ds, u.Ranked → G u → State.Works fin ends u (work u d) d before after) →
      ds.Nodup → s.Ranked → G s →
      (ds.foldl work s).Ranked ∧ State.Fares fin ends s (ds.foldl work s) ∧
        (∀ d ∈ ds, s.HeadBy d before → (ds.foldl work s).HeadBy d after) ∧ ∀ e, e ∉ ds → s.AlikeOn (ds.foldl work s) e
  | [], s, _, _, hr, _ => ⟨hr, .refl s, fun _ hd => absurd hd List.not_mem_nil, fun e _ => alikeOn_of_frame rfl rfl e⟩
  | d :: ds, s, hstep, hn, hr, hg => by
    obtain ⟨hd, hn⟩ := List.nodup_cons.mp hn
    have hworks := hstep s d List.mem_cons_self hr hg
    have hranked := hr.afterWork hw (htable s d hr.table) hworks.fares (hgl s d) hworks.line
    have halike : ∀ e, e ≠ d → s.AlikeOn (work s d) e := fun e he =>
      alikeOn_of_drive hr.table hworks.fares.descends he (hw.others s d e he) (hw.outside s d (hr.table.driveNodup d))
    obtain ⟨h1, h2, h3, h4⟩ := foldl_works hw htable hgl hG (fun u e he => hstep u e (List.mem_cons_of_mem _ he)) hn hranked
      (hG s d hg)
    refine ⟨h1, hworks.fares.trans h2, fun e he hh => ?_, fun e he => ?_⟩
    · rcases List.mem_cons.mp he with rfl | he
      · exact (hworks.heads hh).alike (h4 e hd) h1.table
      · exact h3 e he (hh.alike (halike e fun heq => hd (heq ▸ he)) hranked.table)
    · obtain ⟨hne, he⟩ := List.ne_and_not_mem_of_not_mem_cons he
      exact (halike e hne).trans (h4 e he)

end Fold

section Gate

variable {fin : Claim → Prop} {ends : SlotIx → EndCause → Prop} {s : State} (hr : s.Ranked) (g : Gate)
include hr

theorem State.Ranked.frame {t : State} (hs : t.slots = s.slots) (hn : t.notices = s.notices) (hp : t.ports = s.ports)
    (hd : t.driveLists = s.driveLists) (hg : t.gateLists = s.gateLists) : t.Ranked :=
  State.Ranked.places (samePlaces_of_slots hs) hr (tableInv_congr hs hn hp hd hg hr.table) hd hg

omit hr in
theorem postEach_fares (k : NoticeKind) (is : List SlotIx) : State.Fares fin ends s (s.postEach k is) :=
  fares_of_slots (s.postEach_slots k is) (s.postEach_ports k is) fun _ _ _ h => postEach_noticed_of_noticed h k is

/-- A gate unit changed, with a notice to the gate's members. -/
theorem gateNoticed_ranked (u : GateUnit) {k : NoticeKind} (hk : k.plain = true) :
    ((s.setGate g u).postEach k (s.gateList g)).Ranked ∧
      State.Fares fin ends s ((s.setGate g u).postEach k (s.gateList g)) := by
  refine ⟨State.Ranked.places (samePlaces_of_slots (by simp)) hr (postEach_tableInv (setGate_tableInv hr.table g u) hk _)
    (by simp) (by simp), ?_⟩
  have hframe : State.Fares fin ends s (s.setGate g u) := fares_of_frame rfl rfl rfl
  exact hframe.trans (postEach_fares k _)

/-- The heads after a gate's work on its channels. -/
theorem heads_of_children {t : State} (ht : TableInv t) (hother : ∀ k, k ≠ g → t.gateIsOpen k = s.gateIsOpen k)
    (hself : ∀ d : Drive, d.parent = g → s.HeadBy d (s.gateIsOpen g) → t.HeadBy d (t.gateIsOpen g))
    (halike : ∀ e : Drive, e.parent ≠ g → s.AlikeOn t e) (hh : s.Heads) : t.Heads := fun d => by
  by_cases hd : d.parent = g
  · rw [hd]
    exact hself d hd (hd ▸ hh d)
  · rw [hother d.parent hd]
    exact (hh d).alike (halike d hd) ht

theorem closeGate_course (hfin : ∀ (d : Drive) (c : Claim), d.parent = g → c.resource = .drive d → fin c) :
    (s.closeGate g).Ranked ∧ State.Fares fin ends s (s.closeGate g) ∧
      (s.gateIsOpen g = true → s.Heads → (s.closeGate g).Heads) := by
  obtain ⟨hranked, hfares⟩ := gateNoticed_ranked (fin := fin) (ends := ends) hr g { s.gates.get g with
    isOpen := false, counter := 0, waited := 0, staged := none, close := s.closeFor g } (k := .gateClosed) rfl
  change (s.closing g).Ranked at hranked
  change State.Fares fin ends s (s.closing g) at hfares
  have hclosed : (s.closing g).gateIsOpen g = false := by simp [State.closing, State.gateIsOpen]
  obtain ⟨h1, h2, h3, h4⟩ := foldl_works (fin := fin) (ends := ends) (before := true) (after := false)
    (G := fun u => u.gateIsOpen g = false) (haltChannel_worksInList (s.closeFor g))
    (fun u d hu => haltChannel_tableInv hu d _) (fun u d => u.haltChannel_gateLists d _)
    (fun u d hu => by rw [State.gateIsOpen, State.haltChannel_gates]; exact hu)
    (fun u d hd hu hg => by
      have hp := (mem_children g d).mp hd
      exact haltChannel_works hu d (fun c => hfin d c hp) (hp ▸ hg) _) (children_nodup g) hranked hclosed
  rw [closeGate_eq]
  refine ⟨h1, hfares.trans h2, fun ho hh => heads_of_children hr g h1.table (fun k hk => ?_) (fun d hd hhd => ?_)
    (fun e he => ?_) hh⟩
  · rw [← closeGate_eq, State.gateIsOpen, State.closeGate_gates, PerGate.get_set, if_neg hk]
    rfl
  · have hpost : ((g.children.foldl (fun u d => u.haltChannel d (s.closeFor g)) (s.closing g))).gateIsOpen g = false := by
      rw [← closeGate_eq, State.gateIsOpen, State.closeGate_gates, PerGate.get_set_self]
    rw [hpost]
    refine h3 d ((mem_children g d).mpr hd) ?_
    rw [ho] at hhd
    exact hhd.alike (alikeOn_of_frame (by simp [State.closing]) (by simp [State.closing]) d) hranked.table
  · exact (alikeOn_of_frame (by simp [State.closing]) (by simp [State.closing]) e).trans
      (h4 e fun hm => he ((mem_children g e).mp hm))

theorem openGate_course : (s.openGate g).Ranked ∧ State.Fares fin ends s (s.openGate g) ∧
    (s.gateIsOpen g = false → s.Heads → (s.openGate g).Heads) := by
  obtain ⟨hranked, hfares⟩ := gateNoticed_ranked (fin := fin) (ends := ends) hr g { s.gates.get g with
    isOpen := true, counter := 0, waited := 0, applied := (s.supplier g).map Prod.snd, staged := none,
    close := s.closeFor g } (k := .gateOpen) rfl
  change (s.opening g).Ranked at hranked
  change State.Fares fin ends s (s.opening g) at hfares
  obtain ⟨h1, h2, h3, h4⟩ := foldl_works (fin := fin) (ends := ends) (before := false) (after := true)
    (G := fun _ => True) releaseChannel_worksInList (fun u d hu => releaseChannel_tableInv hu d)
    (fun u d => u.releaseChannel_gateLists d) (fun _ _ _ => trivial)
    (fun u d hd hu hg => releaseChannel_works hu d) (children_nodup g) hranked trivial
  rw [openGate_eq]
  refine ⟨h1, hfares.trans h2, fun ho hh => heads_of_children hr g h1.table (fun k hk => ?_) (fun d hd hhd => ?_)
    (fun e he => ?_) hh⟩
  · rw [← openGate_eq, State.gateIsOpen, State.openGate_gates, PerGate.get_set, if_neg hk]
    rfl
  · have hpost : (g.children.foldl State.releaseChannel (s.opening g)).gateIsOpen g = true := by
      rw [← openGate_eq, State.gateIsOpen, State.openGate_gates, PerGate.get_set_self]
    rw [hpost]
    refine h3 d ((mem_children g d).mpr hd) ?_
    rw [ho] at hhd
    exact hhd.alike (alikeOn_of_frame (by simp [State.opening]) (by simp [State.opening]) d) hranked.table
  · exact (alikeOn_of_frame (by simp [State.opening]) (by simp [State.opening]) e).trans
      (h4 e fun hm => he ((mem_children g e).mp hm))

omit hr in
theorem closeGate_gateIsOpen : (s.closeGate g).gateIsOpen g = false := by
  rw [State.gateIsOpen, State.closeGate_gates, PerGate.get_set_self]

/-- A gate's evaluation: RETIRING claims finish only where it closes. -/
theorem evalGate_course (hfin : s.gateIsOpen g = true → (s.evalGate g).gateIsOpen g = false →
      ∀ (d : Drive) (c : Claim), d.parent = g → c.resource = .drive d → fin c) :
    (s.evalGate g).Ranked ∧ State.Fares fin ends s (s.evalGate g) ∧ (s.Heads → (s.evalGate g).Heads) := by
  have hframe : ∀ {t : State}, t.slots = s.slots → t.notices = s.notices → t.ports = s.ports →
      t.driveLists = s.driveLists → t.gateLists = s.gateLists → (∀ k, t.gateIsOpen k = s.gateIsOpen k) →
      t.Ranked ∧ State.Fares fin ends s t ∧ (s.Heads → t.Heads) := fun hs hn hp hd hgl hopen => by
    have hranked := hr.frame hs hn hp hd hgl
    refine ⟨hranked, fares_of_frame hs hp hn, fun hh d => ?_⟩
    rw [hopen]
    exact (hh d).alike (alikeOn_of_frame hs hd d) hranked.table
  cases ho : s.gateIsOpen g <;> cases hc : s.openCondition g
  · rw [evalGate_of_steadyClosed ho hc]
    refine hframe (by simp) (by simp) (by simp) (by simp) (by simp) fun k => ?_
    rw [← evalGate_of_steadyClosed ho hc]
    by_cases hk : k = g
    · rw [hk, evalGate_of_steadyClosed ho hc]
      simp [State.gateIsOpen, State.rePattern_gates]
    · rw [State.gateIsOpen, s.evalGate_other g k hk]
      rfl
  · obtain ⟨h1, h2, h3⟩ := openGate_course (fin := fin) (ends := ends) hr g
    rw [evalGate_of_opening ho hc]
    exact ⟨h1, h2, h3 ho⟩
  · have hclose : (s.evalGate g).gateIsOpen g = false := by
      rw [evalGate_of_closing ho hc]
      exact closeGate_gateIsOpen g
    obtain ⟨h1, h2, h3⟩ := closeGate_course (fin := fin) (ends := ends) hr g (hfin ho hclose)
    rw [evalGate_of_closing ho hc]
    exact ⟨h1, h2, h3 ho⟩
  · rw [evalGate_of_steadyOpen ho hc]
    refine hframe rfl rfl rfl rfl rfl fun k => ?_
    by_cases hk : k = g
    · rw [hk]
      simp [State.gateIsOpen, State.stagePeriod, State.setGate]
    · simp [State.gateIsOpen, State.stagePeriod, State.setGate, PerGate.get_set, hk]

theorem gatePeriodEnd_course (hfin : ∀ c : Claim, fin c) : (s.gatePeriodEnd g).Ranked ∧
    State.Fares fin ends s (s.gatePeriodEnd g) ∧ (s.Heads → (s.gatePeriodEnd g).Heads) := by
  have hset : (s.setGate g (GateUnit.wrap (s.gates.get g))).Ranked := hr.frame rfl rfl rfl rfl rfl
  have hwrap : ∀ k, (s.setGate g (GateUnit.wrap (s.gates.get g))).gateIsOpen k = s.gateIsOpen k := fun k => by
    by_cases hk : k = g
    · rw [hk, State.gateIsOpen, State.setGate, PerGate.get_set_self, GateUnit.wrap_isOpen]
      rfl
    · simp [State.gateIsOpen, State.setGate, PerGate.get_set, hk]
  have hfares : State.Fares fin ends s (s.setGate g (GateUnit.wrap (s.gates.get g))) := fares_of_frame rfl rfl rfl
  obtain ⟨h1, h2, h3, h4⟩ := foldl_works (fin := fin) (ends := ends) (before := s.gateIsOpen g) (after := s.gateIsOpen g)
    (G := fun u => u.gateIsOpen g = s.gateIsOpen g) channelPeriodEnd_worksInList
    (fun u d hu => channelPeriodEnd_tableInv hu d) (fun u d => u.channelPeriodEnd_gateLists d)
    (fun u d hu => by rw [State.gateIsOpen, State.channelPeriodEnd_gates]; exact hu)
    (fun u d hd hu hg => by
      have hw := channelPeriodEnd_works (fin := fin) (ends := ends) hu d fun c _ => hfin c
      rwa [(mem_children g d).mp hd, hg] at hw) (children_nodup g) hset (hwrap g)
  have hgates : ∀ k, (s.gatePeriodEnd g).gateIsOpen k = s.gateIsOpen k := fun k => by
    rw [← hwrap k]
    exact congrArg (fun p : PerGate GateUnit => (p.get k).isOpen)
      (foldl_keeps State.gates State.channelPeriodEnd State.channelPeriodEnd_gates _ _)
  refine ⟨h1, hfares.trans h2, fun hh d => ?_⟩
  rw [hgates]
  by_cases hd : d.parent = g
  · rw [hd]
    refine h3 d ((mem_children g d).mpr hd) ?_
    exact (hd ▸ hh d : s.HeadBy d (s.gateIsOpen g)).alike (alikeOn_of_frame rfl rfl d) hset.table
  · exact ((hh d).alike (alikeOn_of_frame rfl rfl d) hset.table).alike (h4 d fun hm => hd ((mem_children g d).mp hm)) h1.table

end Gate

end Sys2Proof.Machine
end

section
/-! SUPPORT. Ends and joins on lists in order (R15, R16, R27, R30, R31). -/

namespace Sys2Proof.Machine

section Ends

variable {fin : Claim → Prop} {ends : SlotIx → EndCause → Prop} {cause : EndCause}

/-! ### Ends at once -/

theorem endNow_claim_spent {s : State} {i : SlotIx} {c d : Claim} (hc : s.claim i = some c)
    (hd : (s.endNow cause i).claim i = some d) : d.state = .spent := by
  rw [State.endNow, State.claim_def, finish_slot_of_claim (beginEnd_claim hc cause)] at hd
  split at hd
  · cases hd
  · cases hd
    rfl

/-- Several claims end at once, each SPENT or FREE after it. -/
theorem foldl_endNow_course : ∀ {is : List SlotIx} {s : State}, is.Nodup →
    (∀ i ∈ is, ends i cause ∧ ∃ c, s.claim i = some c ∧ c.state.ongoing = true) →
      State.Fares fin ends s (is.foldl (fun s i => s.endNow cause i) s) ∧
        ∀ i ∈ is, ∀ d, (is.foldl (fun s i => s.endNow cause i) s).claim i = some d → d.state = .spent
  | [], s, _, _ => ⟨.refl s, fun _ hi => absurd hi List.not_mem_nil⟩
  | i :: is, s, hn, h => by
    obtain ⟨hi, hn⟩ := List.nodup_cons.mp hn
    obtain ⟨he, c, hc, ho⟩ := h i List.mem_cons_self
    have hne : ∀ {j}, j ∈ is → j ≠ i := fun hj e => hi (e ▸ hj)
    obtain ⟨h1, h2⟩ := foldl_endNow_course (s := s.endNow cause i) hn fun j hj => by
      obtain ⟨hej, cj, hcj, hoj⟩ := h j (List.mem_cons_of_mem _ hj)
      exact ⟨hej, cj, (claim_of_slot (endNow_slot_of_ne s cause (hne hj))).trans hcj, hoj⟩
    refine ⟨(endNow_fares hc ho he).trans h1, fun j hj d hd => ?_⟩
    rcases List.mem_cons.mp hj with rfl | hj
    · rw [List.foldl_cons, foldl_endNow_claim_of_not_mem cause hi] at hd
      exact endNow_claim_spent hc hd
    · exact h2 j hj d hd

/-- A head alone begins to wind down (R30). -/
theorem wind_fares {s : State} {h : SlotIx} {c : Claim} (hc : s.claim h = some c) (hr : c.resource.kind = .drive)
    (ho : c.state.ongoing = true) (he : ends h cause) :
    State.Fares fin ends s ((s.beginEnd h cause).updClaim h fun c => { c with state := .retiring }) := by
  have hslot : s.slots[h] = ⟨s.slots[h].gen, some c⟩ := by
    rw [← hc]
    rfl
  have hnew : ((s.beginEnd h cause).updClaim h fun c => { c with state := .retiring }).slots[h] =
      ⟨s.slots[h].gen, some { c with state := .retiring, endCause := some cause, deadline := none }⟩ := by
    rw [updClaim_slot_mapClaim, if_pos rfl, State.beginEnd, updClaim_slot_mapClaim, if_pos rfl, hslot]
    rfl
  refine fares_of_slot (i := h) ?_ (fun j hj => ?_) rfl (fun _ _ _ hn => hn) fun d hd hst => ?_
  · rw [hnew, hslot]
    exact .winds he hr ho ⟨rfl, rfl, rfl, rfl, rfl, rfl, rfl, rfl⟩ rfl rfl rfl
  · rw [State.updClaim_slot, if_neg hj, State.beginEnd, State.updClaim_slot, if_neg hj]
  · rw [claim_of_slot hnew] at hd
    cases hd
    cases hst

/-! ### Ends in a channel's list (R16, R30, R31) -/

section Drive

variable {s : State} (hr : s.Ranked) {d : Drive} {ending : List SlotIx} (hends : ∀ i ∈ ending, ends i cause)
  {h : SlotIx} {t : List SlotIx} (hl : s.driveList d = h :: t)
include hr hends hl

/-- The ending entries behind the head have ended, and the rest of the list stands. -/
theorem endedBehind_course : State.Fares fin ends s (s.endedBehind cause ending t) ∧
    (∀ i ∈ t, i ∈ ending → ∀ c, (s.endedBehind cause ending t).claim i = some c → c.state.listed = false) := by
  obtain ⟨hht, hnt⟩ := hr.table.tail_nodup hl
  obtain ⟨h1, h2⟩ := foldl_endNow_course (fin := fin) (ends := ends) (cause := cause) (s := s)
    (hnt.filter fun i => decide (i ∈ ending)) fun i hi => by
      obtain ⟨hit, hie⟩ := List.mem_filter.mp hi
      obtain ⟨-, c, hc, -, hst⟩ := hr.rest hl hit
      exact ⟨hends i (of_decide_eq_true hie), c, hc, by rw [hst]; rfl⟩
  refine ⟨h1, fun i hit hie c hc => ?_⟩
  rw [h2 i (List.mem_filter.mpr ⟨hit, decide_eq_true hie⟩) c hc]
  rfl

/-- What has become of the list once ending entries have left it: `l` is put in place after `u`. -/
theorem endedBehind_leftBy {u : State} {l : List SlotIx} (hu : State.Fares fin ends s u)
    (hlists : u.driveLists = s.driveLists) (hsub : l.Sublist (s.driveList d))
    (hrest : ∀ j ∈ t, j ∉ ending → j ∈ l) (hslots : ∀ j, j ≠ h → u.slots[j] = (s.endedBehind cause ending t).slots[j])
    (hhead : h ∉ l → ∀ c, u.claim h = some c → c.state.listed = false) (hlive : h ∈ l → ∃ c, u.claim h = some c)
    (hstay : ∀ j ∈ l, j ≠ h → j ∉ ending) :
    s.LeftBy u d l := by
  obtain ⟨hht, hnt⟩ := hr.table.tail_nodup hl
  obtain ⟨-, hended⟩ := endedBehind_course (fin := fin) hr hends hl
  refine ⟨hu.descends, hlists, fun j hj => ?_, hsub, fun j hj => ?_, fun j hj hjl c hc => ?_⟩
  · obtain ⟨hjh, hjt⟩ := List.ne_and_not_mem_of_not_mem_cons (hl ▸ hj)
    rw [hslots j hjh, endedBehind_slot (.inr hjt)]
  · by_cases hjh : j = h
    · exact hjh ▸ hlive (hjh ▸ hj)
    · obtain ⟨c, hc, -⟩ := hr.entry (hsub.subset hj)
      refine ⟨c, ?_⟩
      exact (claim_of_slot (hslots j hjh)).trans ((endedBehind_claim (.inl (hstay j hj hjh)) s).trans hc)
  · by_cases hjh : j = h
    · subst hjh
      exact hhead hjl c hc
    · have hjt : j ∈ t := (List.mem_cons.mp (hl ▸ hj)).resolve_left hjh
      have hje : j ∈ ending := by
        by_contra hne
        exact hjl (hrest j hjt hne)
      rw [claim_of_slot (hslots j hjh)] at hc
      exact hended j hjt hje c hc

end Drive

theorem mem_rest_iff {t ending : List SlotIx} {j : SlotIx} :
    j ∈ t.filter (fun i => decide (i ∉ ending)) ↔ j ∈ t ∧ j ∉ ending := by
  rw [List.mem_filter, decide_eq_true_eq]

theorem endInDrive_course {s : State} (hr : s.Ranked) (d : Drive) {ending : List SlotIx}
    (hends : ∀ i ∈ ending, ends i cause) :
    (s.endInDrive d cause ending).Line d ∧ State.Fares fin ends s (s.endInDrive d cause ending) ∧
      (((s.drives.get d).duty ≠ 0 → s.gateIsOpen d.parent = true) → s.HeadBy d (s.gateIsOpen d.parent) →
        (s.endInDrive d cause ending).HeadBy d (s.gateIsOpen d.parent)) := by
  have hcases := endInDrive_ends (hr.table.driveNodup d) cause ending
  generalize s.endInDrive d cause ending = v at hcases ⊢
  cases hcases with
  | none => exact ⟨hr.line d, .refl s, fun _ hh => hh⟩
  | leaves h t hl he hret hrest =>
    obtain ⟨hht, hnt⟩ := hr.table.tail_nodup hl
    obtain ⟨c, hc, hres, hst⟩ := hr.entry (hl ▸ List.mem_cons_self : h ∈ s.driveList d)
    obtain ⟨hb, -⟩ := endedBehind_course (fin := fin) (cause := cause) hr hends hl
    have hch : (s.endedBehind cause ending t).claim h = some c := (endedBehind_claim (.inr hht) s).trans hc
    have hu := hb.trans (endNow_fares hch (ongoing_of_listed hst (hret c hc)) (hends h he))
    have hslots : ∀ j : SlotIx, j ≠ h →
        ((s.endedBehind cause ending t).endNow cause h).slots[j] = (s.endedBehind cause ending t).slots[j] := fun j hj =>
      endNow_slot_of_ne _ cause hj
    have hhrest : h ∉ t.filter (fun i => decide (i ∉ ending)) := fun hm => hht (List.mem_of_mem_filter hm)
    have hrestclaim : ∀ j ∈ t.filter (fun i => decide (i ∉ ending)), ∃ c,
        ((s.endedBehind cause ending t).endNow cause h).claim j = some c ∧ c.resource = .drive d ∧ c.state = .standby :=
      fun j hj => by
        obtain ⟨hjt, hje⟩ := mem_rest_iff.mp hj
        obtain ⟨hne, c, hc, hres, hst⟩ := hr.rest hl hjt
        exact ⟨c, (claim_of_slot (hslots j hne)).trans ((endedBehind_claim (.inl hje) s).trans hc), hres, hst⟩
    have hnever : ∀ x l c, t.filter (fun i => decide (i ∉ ending)) = x :: l →
        ((s.endedBehind cause ending t).endNow cause h).claim x = some c → c.state ≠ .retiring := fun x l c e hc hret => by
      obtain ⟨c', hc', -, hst⟩ := hrestclaim x (e ▸ List.mem_cons_self)
      rw [hc] at hc'
      cases hc'
      rw [hret] at hst
      cases hst
    have hlists : ((s.endedBehind cause ending t).endNow cause h).driveLists = s.driveLists :=
      (State.endNow_driveLists _ _ _).trans (endedBehind_driveLists ..)
    have hleft := endedBehind_leftBy hr hends hl hu hlists
      (by rw [hl]; exact List.filter_sublist.trans (List.sublist_cons_self h t)) (fun j hjt hje => mem_rest_iff.mpr ⟨hjt, hje⟩)
      hslots (fun _ c hc => by rw [endNow_claim_spent hch hc]; rfl) (fun hm => absurd hm hhrest)
      (fun j hj _ => (mem_rest_iff.mp hj).2)
    have hopen : ((s.endedBehind cause ending t).endNow cause h).gateIsOpen d.parent = s.gateIsOpen d.parent := by
      rw [State.gateIsOpen, State.endNow_gates, State.endedBehind, foldl_keeps State.gates _ fun u i => by simp]
      rfl
    refine ⟨hleft.line hr.table (hr.line d) (fun x l c e hc hret => absurd hret (hnever x l c e hc)) _,
      hu.trans (changeList_fares d _ (hnt.filter _) fun j hj => ?_), fun _ _ => ?_⟩
    · obtain ⟨c, hc, hres, hst⟩ := hrestclaim j hj
      exact ⟨c, hc, hres, .inl (by rw [hst]; rfl)⟩
    · rw [← hopen]
      exact changeList_headBy _ d _ (hnt.filter _) fun _ => hnever
  | winds h t hl he hret hnil hduty =>
    obtain ⟨hht, hnt⟩ := hr.table.tail_nodup hl
    obtain ⟨c, hc, hres, hst⟩ := hr.entry (hl ▸ List.mem_cons_self : h ∈ s.driveList d)
    obtain ⟨hb, -⟩ := endedBehind_course (fin := fin) (cause := cause) hr hends hl
    have hch : (s.endedBehind cause ending t).claim h = some c := (endedBehind_claim (.inr hht) s).trans hc
    have hu := hb.trans (wind_fares (fin := fin) hch (by rw [hres]; rfl) (ongoing_of_listed hst (hret c hc)) (hends h he))
    generalize hv : ((s.endedBehind cause ending t).beginEnd h cause).updClaim h
      (fun c => { c with state := .retiring }) = u at hu ⊢
    have huc : u.claim h = some { c with state := .retiring, endCause := some cause, deadline := none } := by
      rw [← hv, State.updClaim_claim, if_pos rfl, beginEnd_claim hch]
      rfl
    have hslots : ∀ j : SlotIx, j ≠ h → u.slots[j] = (s.endedBehind cause ending t).slots[j] := fun j hj => by
      rw [← hv, State.updClaim_slot, if_neg hj, State.beginEnd, State.updClaim_slot, if_neg hj]
    have hleft := endedBehind_leftBy (l := [h]) hr hends hl hu (by rw [← hv]; exact endedBehind_driveLists ..)
      (by rw [hl]; exact List.singleton_sublist.mpr List.mem_cons_self)
      (fun j hjt hje => absurd (mem_rest_iff.mpr ⟨hjt, hje⟩) (by rw [hnil]; exact List.not_mem_nil))
      hslots (fun hm => absurd (List.mem_singleton_self h) hm) (fun _ => ⟨_, huc⟩)
      (fun j hj hne => absurd (List.mem_singleton.mp hj) hne)
    have hopen : u.gateIsOpen d.parent = s.gateIsOpen d.parent := by
      rw [← hv, State.gateIsOpen, State.updClaim_gates, State.beginEnd_gates, State.endedBehind,
        foldl_keeps State.gates _ fun u i => by simp]
      rfl
    refine ⟨hleft.line hr.table (hr.line d) (fun x l c e _ _ => by cases e; rfl) _,
      hu.trans (changeList_fares d _ (List.nodup_singleton h) fun j hj => ?_), fun hstop _ => ?_⟩
    · rw [List.mem_singleton.mp hj]
      exact ⟨_, huc, hres, .inr ⟨rfl, rfl⟩⟩
    · rw [← hopen]
      refine changeList_headBy _ d _ (List.nodup_singleton h) fun hclosed => ?_
      rw [hopen, hstop hduty] at hclosed
      cases hclosed
  | stays h t hl hor =>
    obtain ⟨hht, hnt⟩ := hr.table.tail_nodup hl
    obtain ⟨c, hc, hres, hst⟩ := hr.entry (hl ▸ List.mem_cons_self : h ∈ s.driveList d)
    obtain ⟨hu, -⟩ := endedBehind_course (fin := fin) (cause := cause) hr hends hl
    have hch : (s.endedBehind cause ending t).claim h = some c := (endedBehind_claim (.inr hht) s).trans hc
    have hn : (h :: t.filter fun i => decide (i ∉ ending)).Nodup :=
      List.nodup_cons.mpr ⟨fun hm => hht (List.mem_of_mem_filter hm), hnt.filter _⟩
    have hleft := endedBehind_leftBy hr hends hl hu (endedBehind_driveLists ..)
      (l := h :: t.filter fun i => decide (i ∉ ending))
      (by rw [hl]; exact List.filter_sublist.cons_cons h)
      (fun j hjt hje => List.mem_cons_of_mem _ (mem_rest_iff.mpr ⟨hjt, hje⟩)) (fun _ _ => rfl)
      (fun hm => absurd List.mem_cons_self hm) (fun _ => ⟨c, hch⟩)
      (fun j hj hne => (mem_rest_iff.mp ((List.mem_cons.mp hj).resolve_left hne)).2)
    have hopen : (s.endedBehind cause ending t).gateIsOpen d.parent = s.gateIsOpen d.parent := by
      rw [State.gateIsOpen, State.endedBehind, foldl_keeps State.gates _ fun u i => by simp]
      rfl
    refine ⟨hleft.line hr.table (hr.line d) (fun x l c' e hc' hret => ?_) _,
      hu.trans (changeList_fares d _ hn fun j hj => ?_), fun _ hh => ?_⟩
    · cases e
      rw [hch] at hc'
      cases hc'
      have hnil := (hr.line d).alone h t c hl hc hret
      rw [hnil]
      rfl
    · rcases List.mem_cons.mp hj with rfl | hj
      · refine ⟨c, hch, hres, ?_⟩
        by_cases hret : c.state = .retiring
        · exact .inr ⟨hret, rfl⟩
        · exact .inl (ongoing_of_listed hst hret)
      · obtain ⟨hjt, hje⟩ := mem_rest_iff.mp hj
        obtain ⟨-, cj, hcj, hresj, hstj⟩ := hr.rest hl hjt
        exact ⟨cj, (endedBehind_claim (.inl hje) s).trans hcj, hresj, .inl (by rw [hstj]; rfl)⟩
    · rw [← hopen]
      refine changeList_headBy _ d _ hn fun hclosed x l c' e hc' hret => ?_
      cases e
      rw [hch] at hc'
      cases hc'
      have hsusp := (hh h t c hl hc).2 (hopen ▸ hclosed)
      rw [hret] at hsusp
      cases hsusp

/-! ### Ends in a gate's list (R15, R41) -/

theorem gateListEnded_course {s : State} (hr : s.Ranked) (g : Gate) {ending : List SlotIx}
    (hends : ∀ i ∈ ending, ends i cause) :
    (s.gateListEnded g cause ending).Ranked ∧ State.Fares fin ends s (s.gateListEnded g cause ending) ∧
      (s.Heads → (s.gateListEnded g cause ending).Heads) := by
  have htable := gateListEnded_tableInv hr.table g cause ending
  have hactive : ∀ {i}, i ∈ s.gateList g → ∃ c, s.claim i = some c ∧ c.resource = .gate g ∧ c.state = .active :=
    fun hi => hr.table.gateEntry g _ hi
  obtain ⟨hfares, hspent⟩ := foldl_endNow_course (fin := fin) (ends := ends) (cause := cause) (s := s)
    ((hr.table.gateNodup g).filter fun i => decide (i ∈ ending)) fun i hi => by
      obtain ⟨hil, hie⟩ := List.mem_filter.mp hi
      obtain ⟨c, hc, -, hst⟩ := hactive hil
      exact ⟨hends i (of_decide_eq_true hie), c, hc, by rw [hst]; rfl⟩
  have hf : State.Fares fin ends s (s.gateListEnded g cause ending) :=
    hfares.trans (fares_of_frame (s := ((s.gateList g).filter fun i => decide (i ∈ ending)).foldl
      (fun s i => s.endNow cause i) s) rfl rfl rfl)
  have hlists : (s.gateListEnded g cause ending).driveLists = s.driveLists := foldl_endNow_driveLists cause _ s
  have halike : ∀ d, s.AlikeOn (s.gateListEnded g cause ending) d := fun d => by
    refine ⟨State.driveList_congr hlists d, fun i c hc hres _ => ?_⟩
    have hi : i ∉ s.gateList g := fun hi => by
      obtain ⟨c', hc', hr', -⟩ := hactive hi
      obtain ⟨b, hb, hs⟩ := hf.descends i c hc
      rw [hc'] at hb
      cases hb
      rw [hs.resource, hr'] at hres
      cases hres
    rw [gateListEnded_claim (.inl hi)] at hc
    exact ⟨c, hc, hres, rfl, rfl⟩
  have hopen : ∀ k, (s.gateListEnded g cause ending).gateIsOpen k = s.gateIsOpen k := fun k => by
    refine congrArg (fun p : PerGate GateUnit => (p.get k).isOpen) ?_
    exact foldl_keeps State.gates (fun s i => s.endNow cause i) (fun u i => u.endNow_gates cause i) _ s
  refine ⟨⟨htable, fun d => (hr.line d).alike (halike d) htable, fun k => (hr.votes k).after htable hf ?_
    fun i hi hn c hc hst => ?_, fun i _ hc => stateFits_of_fate (hf.slots i) (hr.fits i) hc⟩, hf, fun hh d => ?_⟩
  · rw [gateListEnded_gateList]
    split
    · rename_i hk
      exact hk ▸ List.filter_sublist
    · exact List.Sublist.refl _
  · rw [gateListEnded_gateList] at hn
    split at hn
    · rename_i hk
      have hie : i ∈ ending := by
        by_contra hne
        exact hn (List.mem_filter.mpr ⟨hk ▸ hi, decide_eq_true hne⟩)
      have hsp := hspent i (List.mem_filter.mpr ⟨hk ▸ hi, decide_eq_true hie⟩) c hc
      rw [hst] at hsp
      cases hsp
    · exact hn hi
  · rw [hopen]
    exact (hh d).alike (halike d) htable

theorem endInGate_course {s : State} (hr : s.Ranked) (g : Gate) {ending : List SlotIx}
    (hends : ∀ i ∈ ending, ends i cause)
    (hfin : s.gateIsOpen g = true → (s.endInGate g cause ending).gateIsOpen g = false →
      ∀ (d : Drive) (c : Claim), d.parent = g → c.resource = .drive d → fin c) :
    (s.endInGate g cause ending).Ranked ∧ State.Fares fin ends s (s.endInGate g cause ending) ∧
      (s.Heads → (s.endInGate g cause ending).Heads) := by
  by_cases hany : ∃ i ∈ s.gateList g, i ∈ ending
  · obtain ⟨h1, h2, h3⟩ := gateListEnded_course (fin := fin) hr g hends
    have hopen : (s.gateListEnded g cause ending).gateIsOpen g = s.gateIsOpen g := by
      refine congrArg (fun p : PerGate GateUnit => (p.get g).isOpen) ?_
      exact foldl_keeps State.gates (fun s i => s.endNow cause i) (fun u i => u.endNow_gates cause i) _ s
    rw [endInGate_of_present hany] at hfin ⊢
    obtain ⟨k1, k2, k3⟩ := evalGate_course (fin := fin) (ends := ends) h1 g fun ho => hfin (hopen ▸ ho)
    exact ⟨k1, h2.trans k2, fun hh => k3 (h3 hh)⟩
  · rw [endInGate_of_absent fun i hi he => hany ⟨i, hi, he⟩]
    exact ⟨hr, .refl s, id⟩

/-! ### Ends outside the lists -/

/-- A claim in no list ends: the lists and the places stand. -/
theorem endApart_course {s : State} (hr : s.Ranked) {i : SlotIx} {c : Claim} (hc : s.claim i = some c)
    (ha : Claim.apart c) (ho : c.state.ongoing = true) (he : ends i cause) :
    (s.endNow cause i).Ranked ∧ State.Fares fin ends s (s.endNow cause i) ∧ (s.Heads → (s.endNow cause i).Heads) := by
  have htable := endNow_tableInv hr.table cause (hr.table.unlisted_of_apart hc ha)
  have hf : State.Fares fin ends s (s.endNow cause i) := endNow_fares hc ho he
  have halike : ∀ d, s.AlikeOn (s.endNow cause i) d := fun d => by
    refine ⟨State.driveList_congr (s.endNow_driveLists cause i) d, fun j x hx hres hl => ?_⟩
    by_cases hj : j = i
    · subst hj
      rw [endNow_claim_spent hc hx] at hl
      cases hl
    · rw [claim_of_slot (endNow_slot_of_ne s cause hj)] at hx
      exact ⟨x, hx, hres, rfl, rfl⟩
  refine ⟨hr.after htable hf (s.endNow_gateLists cause i) fun d => (hr.line d).alike (halike d) htable, hf, fun hh d => ?_⟩
  rw [State.gateIsOpen, s.endNow_gates cause i]
  exact (hh d).alike (halike d) htable

theorem endOutsideLists_course {s : State} (hr : s.Ranked) {i : SlotIx} (he : ends i cause) :
    (s.endOutsideLists cause i).Ranked ∧ State.Fares fin ends s (s.endOutsideLists cause i) ∧
      (s.Heads → (s.endOutsideLists cause i).Heads) := by
  rcases endOutsideLists_cases s cause i with heq | ⟨c, hc, ⟨d, hres, hs, heq⟩ | ⟨ch, hres, hs, heq⟩ | ⟨e, hres, hs, heq⟩⟩ <;>
    rw [heq]
  · exact ⟨hr, .refl s, id⟩
  · refine endApart_course hr hc (.inr (.inr ⟨?_, ?_⟩)) ?_ he <;> rw [hs]
    · rfl
    · exact ClaimState.noConfusion
    · rfl
  · obtain ⟨h1, h2, h3⟩ := endApart_course (fin := fin) hr hc (.inl (by rw [hres]; rfl)) (by rw [hs]; rfl) he
    refine ⟨h1.frame (by simp) (by simp) (by simp) (by simp) (by simp),
      h2.trans (fares_of_frame (by simp) (by simp) (by simp)), fun hh d => ?_⟩
    rw [State.gateIsOpen, State.dropDemand_gates]
    exact (h3 hh d).alike (alikeOn_of_frame (by simp) (by simp) d)
      (dropDemand_tableInv h1.table ch i)
  · exact endApart_course hr hc (.inr (.inl (by rw [hres]; rfl))) (by rw [hs]; rfl) he

/-! ### Ends at one event -/

theorem endInDrive_ranked {s : State} (hr : s.Ranked) (d : Drive) {ending : List SlotIx}
    (hends : ∀ i ∈ ending, ends i cause) : (s.endInDrive d cause ending).Ranked ∧
      State.Fares fin ends s (s.endInDrive d cause ending) ∧
        (StopInv s → s.Heads → (s.endInDrive d cause ending).Heads) := by
  obtain ⟨hline, hfares, hheads⟩ := endInDrive_course (fin := fin) hr d hends
  have htable := endInDrive_tableInv hr.table d cause ending
  have hothers := fun e (he : e ≠ d) => endInDrive_driveList_of_ne s cause ending he
  have hout := fun j (hj : j ∉ s.driveList d) => endInDrive_slot (hr.table.driveNodup d) hj cause ending
  refine ⟨hr.afterDrive htable hfares (s.endInDrive_gateLists d cause ending) hothers hout hline, hfares,
    fun hstop hh e => ?_⟩
  rw [State.gateIsOpen, s.endInDrive_gates d cause ending]
  by_cases he : e = d
  · subst he
    refine hheads (fun hduty => ?_) (hh e)
    have hok := hstop.2 e
    by_contra hclosed
    have hhalted := hok.1.mpr (Bool.eq_false_iff.mpr hclosed)
    exact hduty (hok.2.2 (by rw [hhalted]; exact Phase.noConfusion) (by rw [hhalted]; exact Phase.noConfusion))
  · exact (hh e).alike (alikeOn_of_drive hr.table hfares.descends he (hothers e he) hout) htable

theorem endInGate_gateIsOpen_of_ne (s : State) {g k : Gate} (hk : k ≠ g) (ending : List SlotIx) :
    (s.endInGate g cause ending).gateIsOpen k = s.gateIsOpen k := by
  by_cases hany : ∃ i ∈ s.gateList g, i ∈ ending
  · rw [endInGate_of_present hany, State.gateIsOpen, State.evalGate_other _ g k hk]
    refine congrArg (fun p : PerGate GateUnit => (p.get k).isOpen) ?_
    exact foldl_keeps State.gates (fun s i => s.endNow cause i) (fun u i => u.endNow_gates cause i) _ s
  · rw [endInGate_of_absent fun i hi he => hany ⟨i, hi, he⟩]

/-- Work on lists in order, with the rules of the gates and channels: the places stay those of R26. -/
structure State.Runs (fin : Claim → Prop) (ends : SlotIx → EndCause → Prop) (s t : State) : Prop where
  ranked : t.Ranked
  fares : State.Fares fin ends s t
  heads : StopInv s → s.Heads → t.Heads
  stop : StopInv s → StopInv t

theorem State.Runs.trans {s t u : State} (h : State.Runs fin ends s t) (k : State.Runs fin ends t u) :
    State.Runs fin ends s u :=
  ⟨k.ranked, h.fares.trans k.fares, fun hs hh => k.heads (h.stop hs) (h.heads hs hh), fun hs => k.stop (h.stop hs)⟩

theorem State.Runs.refl {s : State} (hr : s.Ranked) : State.Runs fin ends s s := ⟨hr, .refl s, fun _ hh => hh, id⟩

theorem endInDrive_runs {s : State} (hr : s.Ranked) (d : Drive) {ending : List SlotIx}
    (hends : ∀ i ∈ ending, ends i cause) : State.Runs fin ends s (s.endInDrive d cause ending) := by
  obtain ⟨h1, h2, h3⟩ := endInDrive_ranked (fin := fin) hr d hends
  exact ⟨h1, h2, h3, (s.endInDrive_subsides d cause ending).stop⟩

theorem foldl_endInDrive_runs {ending : List SlotIx} (hends : ∀ i ∈ ending, ends i cause) (ds : List Drive) {s : State}
    (hr : s.Ranked) : State.Runs fin ends s (ds.foldl (fun s d => s.endInDrive d cause ending) s) :=
  List.foldlRecOn (motive := fun u => State.Runs fin ends s u) ds _ (.refl hr) fun u hu d _ =>
    hu.trans (endInDrive_runs hu.ranked d hends)

theorem endInGate_runs {s : State} (hr : s.Ranked) (g : Gate) {ending : List SlotIx}
    (hends : ∀ i ∈ ending, ends i cause)
    (hfin : s.gateIsOpen g = true → (s.endInGate g cause ending).gateIsOpen g = false →
      ∀ (d : Drive) (c : Claim), d.parent = g → c.resource = .drive d → fin c) :
    State.Runs fin ends s (s.endInGate g cause ending) := by
  obtain ⟨h1, h2, h3⟩ := endInGate_course hr g hends hfin
  exact ⟨h1, h2, fun _ => h3, (s.endInGate_subsides g cause ending).stop⟩

/-- A gate closes over a channel. -/
def State.ClosesOver (s t : State) (c : Claim) : Prop :=
  ∃ d : Drive, c.resource = .drive d ∧ s.gateIsOpen d.parent = true ∧ t.gateIsOpen d.parent = false

theorem foldl_endInDrive_gateIsOpen (ds : List Drive) (ending : List SlotIx) (s : State) (g : Gate) :
    (ds.foldl (fun s d => s.endInDrive d cause ending) s).gateIsOpen g = s.gateIsOpen g :=
  congrArg (fun p : PerGate GateUnit => (p.get g).isOpen)
    (foldl_keeps State.gates (fun s d => s.endInDrive d cause ending) (fun u d => u.endInDrive_gates d cause ending) ds s)

/-- The ends in the lists (R15, R16, R30, R31): RETIRING claims finish under gates that close. -/
theorem endInLists_runs {s : State} (hr : s.Ranked) {ending : List SlotIx} (hends : ∀ i ∈ ending, ends i cause)
    (hfin : ∀ c, s.ClosesOver (s.endInLists cause ending) c → fin c) :
    State.Runs fin ends s (s.endInLists cause ending) := by
  unfold State.endInLists at hfin ⊢
  have h1 := foldl_endInDrive_runs (fin := fin) hends ([Drive.dl, .dr, .db].filter fun d => !s.gateFirst ending d) hr
  have hopen1 := foldl_endInDrive_gateIsOpen (cause := cause) ([Drive.dl, .dr, .db].filter fun d => !s.gateFirst ending d)
    ending s
  have hopen4 := foldl_endInDrive_gateIsOpen (cause := cause) ([Drive.dl, .dr, .db].filter fun d => s.gateFirst ending d)
    ending
  generalize ([Drive.dl, .dr, .db].filter fun d => !s.gateFirst ending d).foldl (fun s d => s.endInDrive d cause ending) s =
    u at h1 hopen1 hfin ⊢
  rw [List.foldl_cons, List.foldl_cons, List.foldl_nil] at hfin ⊢
  have hgb : ((u.endInGate .gt cause ending).endInGate .gb cause ending).gateIsOpen .gt =
      (u.endInGate .gt cause ending).gateIsOpen .gt := endInGate_gateIsOpen_of_ne _ (by decide) ending
  have hgt : (u.endInGate .gt cause ending).gateIsOpen .gb = s.gateIsOpen .gb :=
    (endInGate_gateIsOpen_of_ne u (by decide) ending).trans (hopen1 .gb)
  have h2 : State.Runs fin ends u (u.endInGate .gt cause ending) :=
    endInGate_runs h1.ranked .gt hends fun ho hc d c hd hres => hfin c ⟨d, hres, by rw [hd, ← hopen1, ho], by
      rw [hd, hopen4, hgb, hc]⟩
  have h3 : State.Runs fin ends (u.endInGate .gt cause ending) _ :=
    endInGate_runs h2.ranked .gb hends fun ho hc d c hd hres => hfin c ⟨d, hres, by rw [hd, ← hgt, ho], by
      rw [hd, hopen4, hc]⟩
  exact h1.trans (h2.trans (h3.trans (foldl_endInDrive_runs hends _ h3.ranked)))

theorem endOutsideLists_runs {s : State} (hr : s.Ranked) {i : SlotIx} (he : ends i cause) :
    State.Runs fin ends s (s.endOutsideLists cause i) := by
  obtain ⟨h1, h2, h3⟩ := endOutsideLists_course (fin := fin) hr he
  exact ⟨h1, h2, fun _ => h3, (Subsides.of_frame (by simp) (by simp)).stop⟩

theorem foldl_endOutsideLists_runs {is : List SlotIx} (hends : ∀ i ∈ is, ends i cause) {s : State} (hr : s.Ranked) :
    State.Runs fin ends s (is.foldl (fun s i => s.endOutsideLists cause i) s) :=
  List.foldlRecOn (motive := fun u => State.Runs fin ends s u) is _ (.refl hr) fun u hu i hi =>
    hu.trans (endOutsideLists_runs hu.ranked (hends i hi))

theorem endClaims_gateIsOpen (s : State) (ending : List SlotIx) (g : Gate) :
    (s.endClaims cause ending).gateIsOpen g = (s.endInLists cause ending).gateIsOpen g := by
  rw [endClaims_eq]
  exact congrArg (fun p : PerGate GateUnit => (p.get g).isOpen)
    (foldl_keeps State.gates (fun s i => s.endOutsideLists cause i) (fun u i => by simp) ending _)

/-- Several claims end at one event (R15, R16, R30, R31, R41). -/
theorem endClaims_runs {s : State} (hr : s.Ranked) {ending : List SlotIx} (hends : ∀ i ∈ ending, ends i cause)
    (hfin : ∀ c, s.ClosesOver (s.endClaims cause ending) c → fin c) :
    State.Runs fin ends s (s.endClaims cause ending) := by
  have hlists : State.Runs fin ends s (s.endInLists cause ending) := endInLists_runs hr hends fun c hc => hfin c <| by
    obtain ⟨d, hres, ho, hclosed⟩ := hc
    exact ⟨d, hres, ho, (endClaims_gateIsOpen s ending d.parent).trans hclosed⟩
  rw [endClaims_eq]
  exact hlists.trans (foldl_endOutsideLists_runs hends hlists.ranked)

end Ends


end Sys2Proof.Machine
end

section
/-! SUPPORT. A claim joins a channel's list in order (R25, R27), or a gate's list. -/

namespace Sys2Proof.Machine

/-! ### The place of an entry (R25) -/

theorem insertByClass_pairwise {s : State} {l : List SlotIx} (h : l.Pairwise fun x y => s.classOf y ≤ s.classOf x)
    (i : SlotIx) : (s.insertByClass i l).Pairwise fun x y => s.classOf y ≤ s.classOf x := by
  rw [insertByClass_eq h i]
  refine List.pairwise_append.mpr ⟨h.filter _, List.pairwise_cons.mpr ⟨fun y hy => ?_, h.filter _⟩, fun x hx y hy => ?_⟩
  · exact (of_decide_eq_true (List.mem_filter.mp hy).2).le
  · have hle : s.classOf i ≤ s.classOf x := of_decide_eq_true (List.mem_filter.mp hx).2
    rcases List.mem_cons.mp hy with rfl | hy
    · exact hle
    · exact (of_decide_eq_true (List.mem_filter.mp hy).2).le.trans hle

/-! ### Joining a channel's list (R27) -/

/-- A claim that is to join its channel's list, all else in order. -/
structure State.Awaits (s : State) (d : Drive) (i : SlotIx) (ci : Claim) : Prop where
  table : TableInv s
  others : ∀ e, e ≠ d → s.Line e
  votes : ∀ g, s.VoteLine g
  fits : ∀ j c, s.claim j = some c → c.stateFits
  order : (s.driveList d).Pairwise fun i j => s.classOf j ≤ s.classOf i
  full : ∀ j c, j ≠ i → s.claim j = some c → c.resource = .drive d → c.state.listed = true → j ∈ s.driveList d
  behind : ∀ h t, s.driveList d = h :: t → ∀ j ∈ t, ∀ c, s.claim j = some c → c.state = .standby
  alone : ∀ h t c, s.driveList d = h :: t → s.claim h = some c → c.state = .retiring → t = []
  outside : i ∉ s.driveList d
  claim : s.claim i = some ci
  resource : ci.resource = .drive d
  fresh : ci.state = .standby ∨ ci.state = .complete

section Join

variable {fin : Claim → Prop} {ends : SlotIx → EndCause → Prop} {s : State} {d : Drive} {i : SlotIx} {ci : Claim}
  (hj : s.Awaits d i ci)
include hj

/-- The entries that a join puts in place after its work on the old head. -/
theorem join_of_work {u : State} {l0 : List SlotIx} (hu : State.Fares fin ends s u) (hgates : u.gates = s.gates)
    (hl0 : l0.Sublist (s.driveList d)) (hslots : ∀ j, j ∈ l0 ∨ j ∉ s.driveList d → u.slots[j] = s.slots[j])
    (hgone : ∀ j ∈ s.driveList d, j ∉ l0 → ∀ c, u.claim j = some c → c.state.listed = false)
    (hlive : ∀ j ∈ l0, ∀ c, s.claim j = some c → c.state ≠ .retiring) (old : Option SlotIx) :
    (u.changeList d old (s.insertByClass i l0)).Line d ∧
      State.Fares fin ends s (u.changeList d old (s.insertByClass i l0)) ∧
      (u.changeList d old (s.insertByClass i l0)).HeadBy d (s.gateIsOpen d.parent) := by
  have hi : i ∉ l0 := fun h => hj.outside (hl0.subset h)
  have hn : (s.insertByClass i l0).Nodup := insertByClass_nodup ((hj.table.driveNodup d).sublist hl0) hi
  have hui : u.claim i = some ci := (claim_of_slot (hslots i (.inr hj.outside))).trans hj.claim
  have hiret : ci.state.ongoing = true ∧ ci.state ≠ .retiring := by
    rcases hj.fresh with h | h <;> rw [h] <;> exact ⟨rfl, ClaimState.noConfusion⟩
  have hentry : ∀ j ∈ s.insertByClass i l0, ∃ c, u.claim j = some c ∧ c.resource = .drive d ∧ c.state.ongoing = true ∧
      c.state ≠ .retiring := fun j hjl => by
    rcases (mem_insertByClass s i j l0).mp hjl with rfl | hjl
    · exact ⟨ci, hui, hj.resource, hiret⟩
    · obtain ⟨c, hc, hres, hst⟩ := hj.table.driveEntry d j (hl0.subset hjl)
      have hret := hlive j hjl c hc
      exact ⟨c, (claim_of_slot (hslots j (.inl hjl))).trans hc, hres, ongoing_of_listed hst hret, hret⟩
  have hnever : ∀ x t c, s.insertByClass i l0 = x :: t → u.claim x = some c → c.state ≠ .retiring := fun x t c e hc => by
    obtain ⟨c', hc', -, -, hret⟩ := hentry x (e ▸ List.mem_cons_self)
    rw [hc] at hc'
    cases hc'
    exact hret
  have hclass : ∀ j ∈ s.insertByClass i l0, u.classOf j = s.classOf j := fun j hjl => by
    obtain ⟨c, hc, -⟩ := hentry j hjl
    exact hu.descends.classOf hc
  have hopen : u.gateIsOpen d.parent = s.gateIsOpen d.parent := by rw [State.gateIsOpen, hgates]; rfl
  refine ⟨changeList_line u d old hn (pairwise_classOf_congr hclass (insertByClass_pairwise (hj.order.sublist hl0) i))
    (fun j c hc hres hst => ?_) fun x t c e hc hret => absurd hret (hnever x t c e hc),
    hu.trans (changeList_fares d old hn fun j hjl => ?_), ?_⟩
  · rw [mem_insertByClass]
    by_contra hno
    obtain ⟨hji, hjl⟩ := not_or.mp hno
    by_cases hjd : j ∈ s.driveList d
    · rw [hgone j hjd hjl c hc] at hst
      cases hst
    · rw [claim_of_slot (hslots j (.inr hjd))] at hc
      exact hjd (hj.full j c hji hc hres hst)
  · obtain ⟨c, hc, hres, ho, -⟩ := hentry j hjl
    exact ⟨c, hc, hres, .inl ho⟩
  · rw [← hopen]
    exact changeList_headBy u d old hn fun _ => hnever

theorem join_line (hfin : ∀ c : Claim, c.resource = .drive d → fin c) : (s.join d i).Line d ∧
    State.Fares fin ends s (s.join d i) ∧ (s.join d i).HeadBy d (s.gateIsOpen d.parent) := by
  cases hl : s.driveList d with
  | nil =>
    have hw := join_of_work (u := s) (l0 := []) (fin := fin) (ends := ends) hj (.refl s) rfl (List.nil_sublist _)
      (fun _ _ => rfl) (fun j hjd => by rw [hl] at hjd; cases hjd) (fun j h => nomatch h) none
    rwa [join_of_empty hl]
  | cons h t =>
    obtain ⟨hht, hnt⟩ := hj.table.tail_nodup hl
    obtain ⟨c, hc, hres, hst⟩ := hj.table.driveEntry d h (hl ▸ List.mem_cons_self)
    have hsub : t.Sublist (s.driveList d) := hl ▸ List.sublist_cons_self h t
    have hstand : ∀ j ∈ t, ∀ c, s.claim j = some c → c.state ≠ .retiring := fun j hjt c hc => by
      rw [hj.behind h t hl j hjt c hc]
      exact ClaimState.noConfusion
    have hother : ∀ {u : State}, (∀ j : SlotIx, j ≠ h → u.slots[j] = s.slots[j]) →
        ∀ j : SlotIx, j ∈ t ∨ j ∉ s.driveList d → u.slots[j] = s.slots[j] := fun hu j hor => hu j fun e => by
      rcases hor with hjt | hjd
      · exact hht (e ▸ hjt)
      · exact hjd (e ▸ hl ▸ List.mem_cons_self)
    have hhead : ∀ {j}, j ∈ s.driveList d → j ∉ t → j = h := fun hjd hjt =>
      (List.mem_cons.mp (hl ▸ hjd)).resolve_right hjt
    by_cases hret : c.state = .retiring
    · rw [join_of_retiring hl hc hret i]
      refine join_of_work hj (finish_fares hc hret (hfin c hres)) (s.finish_gates h) hsub
        (hother fun j hne => by rw [finish_slot, if_neg hne]) (fun j hjd hjt x hx => ?_) hstand _
      rw [hhead hjd hjt, State.claim_def, finish_slot_of_claim hc] at hx
      split at hx
      · cases hx
      · cases hx
        rfl
    · cases hb : c.burstFinished with
      | true =>
        rw [join_of_finished hl hc hret hb i]
        refine join_of_work hj (completeClaim_fares hc (by rw [hres]; rfl) (ongoing_of_listed hst hret))
          (s.completeClaim_gates h) hsub (hother fun j hne => completeClaim_slot_of_ne s hne)
          (fun j hjd hjt x hx => ?_) hstand _
        rw [hhead hjd hjt, completeClaim_claim hc] at hx
        cases hx
        rfl
      | false =>
        rw [join_of_standing hl hc hret hb i, ← hl]
        refine join_of_work hj (.refl s) rfl (List.Sublist.refl _) (fun _ _ => rfl) (fun j hjd hjl => absurd hjd hjl)
          (fun j hjd x hx => ?_) _
        rcases List.mem_cons.mp (hl ▸ hjd) with rfl | hjt
        · rw [hc] at hx
          cases hx
          exact hret
        · exact hstand j hjt x hx

omit hj in
theorem join_driveList_of_ne (s : State) (d : Drive) (i : SlotIx) {e : Drive} (he : e ≠ d) :
    (s.join d i).driveList e = s.driveList e := by
  unfold State.join
  repeat' split
  all_goals rw [changeList_driveList, if_neg he]
  · exact State.driveList_congr (s.finish_driveLists _) e
  · exact State.driveList_congr (s.completeClaim_driveLists _) e

theorem join_course (hfin : ∀ c : Claim, c.resource = .drive d → fin c) : (s.join d i).Ranked ∧
    State.Fares fin ends s (s.join d i) ∧
    ((∀ e, e ≠ d → s.HeadBy e (s.gateIsOpen e.parent)) → (s.join d i).Heads) := by
  obtain ⟨hline, hfares, hhead⟩ := join_line (fin := fin) (ends := ends) hj hfin
  have htable : TableInv (s.join d i) := join_tableInv hj.table hj.claim hj.resource
    (by rcases hj.fresh with h | h <;> rw [h] <;> exact ClaimState.noConfusion) hj.outside
  have halike : ∀ e, e ≠ d → s.AlikeOn (s.join d i) e := fun e he => by
    refine ⟨join_driveList_of_ne s d i he, fun j c hc hres _ => ?_⟩
    obtain ⟨b, hb, hs⟩ := hfares.descends j c hc
    rw [hs.resource] at hres
    have hji : j ≠ i := fun e' => by
      rw [e', hj.claim] at hb
      cases hb
      rw [hj.resource] at hres
      exact he (Resource.drive.inj hres).symm
    have hjd : j ∉ s.driveList d := fun hm => by
      obtain ⟨b', hb', hbr, -⟩ := hj.table.driveEntry d j hm
      rw [hb] at hb'
      cases hb'
      rw [hbr] at hres
      exact he (Resource.drive.inj hres).symm
    have hsame := (claim_of_slot (join_slot_of_not_mem (hj.table.driveNodup d) hj.outside hjd hji)).symm.trans hc
    have hbc : b = c := Option.some.inj (hb.symm.trans hsame)
    exact ⟨b, hb, hres, by rw [hbc], by rw [hbc]⟩
  refine ⟨⟨htable, fun e => ?_, fun g => (hj.votes g).after htable hfares ?_ fun x hx hn => ?_, fun x _ hx =>
    stateFits_of_fate (hfares.slots x) (hj.fits x) hx⟩, hfares, fun hh e => ?_⟩
  · by_cases he : e = d
    · exact he ▸ hline
    · exact (hj.others e he).alike (halike e he) htable
  · rw [State.gateList_congr (s.join_gateLists d i)]
  · exact absurd (State.gateList_congr (s.join_gateLists d i) g ▸ hx) hn
  · rw [State.gateIsOpen, s.join_gates]
    by_cases he : e = d
    · exact he ▸ hhead
    · exact (hh e he).alike (halike e he) htable

end Join

/-! ### A claim in a FREE slot (R5) -/

section Put

variable {s : State} (hr : s.Ranked) {i : SlotIx} (hi : s.claim i = none) (c : Claim)
include hr hi

/-- A claim in a FREE slot is that claim, or stood before it. -/
theorem putClaim_free_cases {j : SlotIx} {x : Claim} (hx : (s.putClaim i c).claim j = some x) :
    j = i ∧ x = c ∨ j ≠ i ∧ s.claim j = some x := by
  rw [State.putClaim_claim] at hx
  split at hx
  · rename_i h
    cases hx
    exact .inl ⟨h, rfl⟩
  · rename_i h
    exact .inr ⟨h, hx⟩

theorem putClaim_alikeOn {d : Drive} (hd : c.resource ≠ .drive d) : s.AlikeOn (s.putClaim i c) d :=
  ⟨rfl, fun j x hx hres _ => by
    rcases putClaim_free_cases hr hi c hx with ⟨-, rfl⟩ | ⟨-, hx⟩
    · exact absurd hres hd
    · exact ⟨x, hx, hres, rfl, rfl⟩⟩

theorem putClaim_order {l : List SlotIx} (hl : i ∉ l) (h : l.Pairwise fun i j => s.classOf j ≤ s.classOf i) :
    l.Pairwise fun x y => (s.putClaim i c).classOf y ≤ (s.putClaim i c).classOf x :=
  pairwise_classOf_congr (fun j hj => by
    unfold State.classOf
    rw [State.putClaim_claim, if_neg fun e : j = i => hl (e ▸ hj)] <;> rfl) h

theorem putClaim_voteLine {g : Gate} (hg : c.resource ≠ .gate g) : (s.putClaim i c).VoteLine g := by
  refine ⟨putClaim_order hr hi c (free_not_mem_gateList hr.table hi g) (hr.votes g).order, fun j x hx hres hst => ?_⟩
  rcases putClaim_free_cases hr hi c hx with ⟨-, rfl⟩ | ⟨-, hx⟩
  · exact absurd hres hg
  · exact (hr.votes g).full j x hx hres hst

theorem putClaim_fits (hc : c.stateFits) {j : SlotIx} {x : Claim} (hx : (s.putClaim i c).claim j = some x) :
    x.stateFits := by
  rcases putClaim_free_cases hr hi c hx with ⟨-, rfl⟩ | ⟨-, hx⟩
  · exact hc
  · exact hr.fits j x hx

theorem putClaim_awaits {d : Drive} (hres : c.resource = .drive d) (hst : c.state = .standby) :
    (s.putClaim i c).Awaits d i c := by
  have hout := free_not_mem_driveList hr.table hi d
  have htable := putClaim_tableInv hr.table hi c
  have hfits : c.stateFits := by
    have hkind : c.resource.kind = .drive := by rw [hres]; rfl
    unfold Claim.stateFits
    rw [if_pos hkind, hst]
    exact ClaimState.noConfusion

  have hclaim : (s.putClaim i c).claim i = some c := by rw [State.putClaim_claim, if_pos rfl]
  have hother : ∀ {j x}, j ∈ s.driveList d → (s.putClaim i c).claim j = some x → s.claim j = some x := fun hj hx =>
    ((putClaim_free_cases hr hi c hx).resolve_left fun h => hout (h.1 ▸ hj)).2
  refine ⟨htable, fun e he => ?_, fun g => ?_, fun j x hx => putClaim_fits hr hi c hfits hx,
    putClaim_order hr hi c hout (hr.line d).order, fun j x hj hx hxr hxs => ?_, fun h t hl j hj x hx => ?_,
    fun h t x hl hx hret => ?_, hout, hclaim, hres, .inl hst⟩
  · refine (hr.line e).alike (putClaim_alikeOn hr hi c fun h => ?_) htable
    rw [hres] at h
    exact he (Resource.drive.inj h).symm
  · refine putClaim_voteLine hr hi c fun h => ?_
    rw [hres] at h
    cases h
  · exact (hr.line d).full j x ((putClaim_free_cases hr hi c hx).resolve_left fun h => hj h.1).2 hxr hxs
  · exact (hr.line d).behind h t hl j hj x (hother (hl ▸ List.mem_cons_of_mem _ hj : j ∈ s.driveList d) hx)
  · exact (hr.line d).alone h t x hl (hother (hl ▸ List.mem_cons_self : h ∈ s.driveList d) hx) hret

/-- A claim that is no drive claim, in no list yet: the channels are left alone. -/
theorem putClaim_lines (hc : c.resource.kind ≠ .drive) (d : Drive) : s.AlikeOn (s.putClaim i c) d :=
  putClaim_alikeOn hr hi c fun h => hc (by rw [h]; rfl)

end Put

end Sys2Proof.Machine
end

section
/-! PROOFS. The order and the places of the lists, and the deadlines and end causes, over every change and event. -/

namespace Sys2Proof.Machine

/-! ### Deadlines and end causes (R1, R13, R20) -/

theorem lifeOk_of_fate {barred : Link → Bool} {fin : Claim → Prop} {ends : EndCause → Prop} {x y : Slot}
    (h : Slot.Fate barred fin ends x y) (hx : ∀ c, x.claim = some c → c.lifeOk)
    (hunp : ∀ cause c, ends cause → x.claim = some c → c.pinned = false) {d : Claim} (hd : y.claim = some d) :
    d.lifeOk := by
  have hended : ∀ {c : Claim}, c.pinned = false → c.Same d → d.state.ongoing = false → d.endCause.isSome = true →
      d.deadline = none → d.lifeOk := fun hp hs ho hcause hline => by
    unfold Claim.lifeOk
    rw [ho, hline, hcause, hs.pinned, hp]
    simp
  cases h with
  | rests => exact hx d hd
  | @shifts _ c d' hr hc hd' ha hs hcause hline =>
    cases hd
    obtain ⟨h1, h2, h3⟩ := hx c rfl
    unfold Claim.lifeOk
    rw [hline, hcause, hs.hold, hs.pinned, hd']
    rw [hc] at h1 h2 h3
    exact ⟨h1, h2, h3⟩
  | @finishes _ c hc hf hb =>
    cases hd
    obtain ⟨h1, h2, h3⟩ := hx c rfl
    rw [hc] at h1 h2 h3
    have hp : c.pinned = false := by
      by_contra hp
      exact Bool.noConfusion (h3 (Bool.eq_true_of_not_eq_false hp))
    exact hended (c := c) hp ⟨rfl, rfl, rfl, rfl, rfl, rfl, rfl, rfl⟩ rfl (h2.mpr rfl) rfl
  | winds he hr hc hs hst hcause hline =>
    cases hd
    exact hended (hunp _ _ he rfl) hs (by rw [hst]; rfl) (by rw [hcause]; rfl) hline
  | ends he hc hs hst hcause hline hb =>
    cases hd
    exact hended (hunp _ _ he rfl) hs (by rw [hst]; rfl) (by rw [hcause]; rfl) hline
  | freed | discarded => cases hd

theorem lifeInv_of_fares {fin : Claim → Prop} {ends : SlotIx → EndCause → Prop} {s t : State}
    (h : State.Fares fin ends s t) (hunp : ∀ i cause, ends i cause → ∀ c, s.claim i = some c → c.pinned = false)
    (hs : LifeInv s) : LifeInv t := fun i _ hc =>
  lifeOk_of_fate (h.slots i) (hs i) (fun cause c he hc => hunp i cause he c hc) hc

theorem lifeOk_record (c : Claim) : c.record.lifeOk ↔ c.lifeOk := Iff.rfl

theorem lifeInv_of_records {s t : State} (h : s.SameRecords t) (hs : LifeInv s) : LifeInv t := fun i d hd => by
  obtain ⟨c, hc, hrec⟩ := h.symm.claim hd
  rw [← lifeOk_record, ← hrec, lifeOk_record]
  exact hs i c hc

theorem samePlaces_of_records {s t : State} (h : s.SameRecords t) : s.SamePlaces t := fun i d hd => by
  obtain ⟨c, hc, hrec⟩ := h.symm.claim hd
  exact ⟨c, hc, (congrArg Claim.resource hrec : c.record.resource = d.record.resource),
    (congrArg Claim.cls hrec : c.record.cls = d.record.cls), (congrArg Claim.state hrec : c.record.state = d.record.state)⟩

/-- A claim changed in one slot. -/
theorem lifeInv_updClaim {s : State} (hs : LifeInv s) {i : SlotIx} {f : Claim → Claim}
    (hf : ∀ c, s.claim i = some c → c.lifeOk → (f c).lifeOk) : LifeInv (s.updClaim i f) := fun j d hd => by
  rw [State.updClaim_claim] at hd
  split at hd
  · obtain ⟨c, hc, rfl⟩ := Option.map_eq_some_iff.mp hd
    exact hf c hc (hs i c hc)
  · exact hs j d hd

/-! ### What every change and event keeps -/

/-- The lists stay in order with their places, and the deadlines and end causes as R13 and R1 give them. -/
structure State.Moved (s t : State) : Prop where
  ranked : t.Ranked
  heads : StopInv s → s.Heads → t.Heads
  stop : StopInv s → StopInv t
  life : LifeInv s → LifeInv t

section Moved

variable {s t u : State}

theorem State.Moved.trans (h : s.Moved t) (k : t.Moved u) : s.Moved u :=
  ⟨k.ranked, fun hs hh => k.heads (h.stop hs) (h.heads hs hh), fun hs => k.stop (h.stop hs), fun hl => k.life (h.life hl)⟩

theorem State.Moved.refl (hr : s.Ranked) : s.Moved s := ⟨hr, fun _ hh => hh, id, id⟩

theorem State.Runs.moved {fin : Claim → Prop} {ends : SlotIx → EndCause → Prop} (h : State.Runs fin ends s t)
    (hunp : LifeInv s → ∀ i cause, ends i cause → ∀ c, s.claim i = some c → c.pinned = false) : s.Moved t :=
  ⟨h.ranked, h.heads, h.stop, fun hl => lifeInv_of_fares h.fares (hunp hl) hl⟩

/-- A change that leaves the lists, the places and the gates. -/
theorem moved_of_places (hr : s.Ranked) (hp : s.SamePlaces t) (ht : TableInv t) (hd : t.driveLists = s.driveLists)
    (hg : t.gateLists = s.gateLists) (hopen : ∀ g, t.gateIsOpen g = s.gateIsOpen g) (hstop : StopInv s → StopInv t)
    (hlife : LifeInv s → LifeInv t) : s.Moved t :=
  ⟨hr.places hp ht hd hg, fun _ hh d => by
    rw [hopen]
    exact (hh d).alike (hp.alikeOn hd d) ht, hstop, hlife⟩

/-- A change of runtimes. -/
theorem moved_of_records (hr : s.Ranked) (h : s.SameRecords t) (ht : TableInv t) (hd : t.driveLists = s.driveLists)
    (hg : t.gateLists = s.gateLists) (hopen : ∀ g, t.gateIsOpen g = s.gateIsOpen g) (hstop : StopInv s → StopInv t) :
    s.Moved t := moved_of_places hr (samePlaces_of_records h) ht hd hg hopen hstop (lifeInv_of_records h)

theorem evalGate_runs {fin : Claim → Prop} {ends : SlotIx → EndCause → Prop} (hr : s.Ranked) (g : Gate)
    (hfin : ∀ c, fin c) : State.Runs fin ends s (s.evalGate g) := by
  obtain ⟨h1, h2, h3⟩ := evalGate_course (fin := fin) (ends := ends) hr g fun _ _ _ c _ _ => hfin c
  exact ⟨h1, h2, fun _ => h3, (s.evalGate_subsides g).stop⟩

/-- A gate's evaluation after a change of its unit that leaves it OPEN or CLOSED. -/
theorem setGate_evalGate_moved (hr : s.Ranked) (g : Gate) (x : GateUnit) (hx : x.isOpen = s.gateIsOpen g)
    (hstop : StopInv s → StopInv ((s.setGate g x).evalGate g)) : s.Moved ((s.setGate g x).evalGate g) := by
  have hset : (s.setGate g x).Ranked := hr.frame rfl rfl rfl rfl rfl
  obtain ⟨h1, h2, h3⟩ := evalGate_course (fin := fun _ => True) (ends := fun _ _ => False) hset g
    fun _ _ _ _ _ _ => trivial
  have hopen : ∀ k, (s.setGate g x).gateIsOpen k = s.gateIsOpen k := fun k => by
    by_cases hk : k = g
    · rw [hk, State.gateIsOpen, State.setGate, PerGate.get_set_self, hx]
    · simp [State.gateIsOpen, State.setGate, PerGate.get_set, hk]
  refine ⟨h1, fun _ hh => h3 fun d => ?_, hstop, fun hl => ?_⟩
  · rw [hopen]
    exact (hh d).alike (alikeOn_of_frame rfl rfl d) hset.table
  · exact lifeInv_of_fares h2 (fun _ _ he => he.elim) (s := s.setGate g x) hl

theorem takeHold_moved (hr : s.Ranked) (g : Gate) (x : TripHold) : s.Moved (s.takeHold g x) :=
  setGate_evalGate_moved hr g _ rfl (s.takeHold_subsides g x).stop

theorem removeHold_moved (hr : s.Ranked) (g : Gate) (src : Source) : s.Moved (s.removeHold g src) :=
  setGate_evalGate_moved hr g _ rfl (s.removeHold_subsides g src).stop

theorem endClaims_moved (hr : s.Ranked) (cause : EndCause) {ending : List SlotIx}
    (hunp : LifeInv s → ∀ i ∈ ending, ∀ c, s.claim i = some c → c.pinned = false) : s.Moved (s.endClaims cause ending) :=
  (endClaims_runs (fin := fun _ => True) (ends := fun i _ => i ∈ ending) hr (fun _ hi => hi) fun _ _ => trivial).moved
    fun hl i _ hi => hunp hl i hi

/-! ### Events -/

theorem runs_gateIsOpen (hr : s.Ranked) (ht : TableInv t) (hslots : t.slots = s.slots)
    (hd : t.driveLists = s.driveLists) (hg : t.gateLists = s.gateLists)
    (hopen : ∀ g, t.gateIsOpen g = s.gateIsOpen g) (hstop : StopInv s → StopInv t) : s.Moved t :=
  moved_of_records hr (.of_slots hslots) ht hd hg hopen hstop

theorem passClocks_moved (hr : s.Ranked) (n : Nat) : s.Moved (s.passClocks n) :=
  runs_gateIsOpen hr (passClocks_tableInv hr.table n) rfl rfl rfl
    (fun g => by rw [State.gateIsOpen, s.passClocks_gates, GateUnit.run_isOpen]; rfl) (s.passClocks_subsides n).stop

theorem nextTick_moved (hr : s.Ranked) (waits : Bool) : s.Moved (s.nextTick waits) :=
  runs_gateIsOpen hr (nextTick_tableInv hr.table waits) rfl rfl rfl
    (fun g => by rw [State.gateIsOpen, s.nextTick_gates, GateUnit.run_isOpen]; rfl) (s.nextTick_subsides waits).stop

theorem takeCount_moved (hr : s.Ranked) : s.Moved s.takeCount := by
  unfold State.takeCount
  split
  · exact runs_gateIsOpen hr (tableInv_congr (s := s) rfl rfl rfl rfl rfl hr.table) rfl rfl rfl (fun _ => rfl) id
  · exact nextTick_moved hr false

theorem expire_moved (hr : s.Ranked) (i : SlotIx) : s.Moved (s.expire i) := by
  unfold State.expire
  split
  · exact .refl hr
  · rename_i line hline
    have hunp : LifeInv s → ∀ j ∈ [i], ∀ c, s.claim j = some c → c.pinned = false := fun hl j hj c hc => by
      rw [List.mem_singleton.mp hj] at hc
      rw [hc] at hline
      have hok := hl i c hc
      exact (hok.1.mp (by rw [show c.deadline = some line from hline]; rfl)).2.1
    split
    · exact endClaims_moved hr _ hunp
    · split
      · exact (nextTick_moved hr true).trans (endClaims_moved (nextTick_moved hr true).ranked _ hunp)
      · exact .refl hr

theorem takeTrip_moved (hr : s.Ranked) (g : Gate) : s.Moved (s.takeTrip g) := by
  have htable := takeTrip_tableInv hr.table g
  revert htable
  unfold State.takeTrip
  split
  · exact fun _ => .refl hr
  · rename_i x xs _
    intro htable
    have htrips : s.Moved { s with trips := s.trips.set g xs } :=
      runs_gateIsOpen hr (tableInv_congr (s := s) rfl rfl rfl rfl rfl hr.table) rfl rfl rfl (fun _ => rfl) id
    have hhold := htrips.trans (takeHold_moved htrips.ranked g (s.holdOf x))
    exact hhold.trans (runs_gateIsOpen hhold.ranked htable (by simp) (by simp) (by simp)
      (fun k => congrArg (fun p : PerGate GateUnit => (p.get k).isOpen) (by simp))
      (Subsides.of_frame (by simp) (by simp)).stop)

theorem complete_gates (s : State) (f : Conversion) (v : Nat) : (s.complete f v).gates = s.gates := by
  rw [complete_eq, State.decideIfFree_gates]
  exact foldl_keeps State.gates (fun s i => s.deliver f.channel v i) (fun s i => s.deliver_gates _ _ i) f.due s

theorem timed_moved (hr : s.Ranked) (h : Timed s t) : s.Moved t := by
  have htable := timed_tableInv hr.table h
  cases h with
  | advance =>
    have htake := takeCount_moved hr
    refine htake.trans (moved_of_records htake.ranked ?_ htable (by simp [State.advance]) (by simp [State.advance])
      (fun g => congrArg (fun p : PerGate GateUnit => (p.get g).isOpen) (by simp [State.advance]))
      (Subsides.of_frame (by simp [State.advance]) (by simp [State.advance])).stop)
    exact (scheduleAdvance_runtimesOnly _).records.trans (edgeAdvance_runtimesOnly _).records
  | expire i => exact expire_moved hr i
  | periodEnd g ho n =>
    have hpass := passClocks_moved hr n
    obtain ⟨h1, h2, h3⟩ := gatePeriodEnd_course (fin := fun _ => True) (ends := fun _ _ => False) hpass.ranked g
      fun _ => trivial
    refine hpass.trans ⟨h1, fun _ => h3, fun hs => State.gatePeriodEnd_stop hs ?_, fun hl => ?_⟩
    · rw [State.gateIsOpen, s.passClocks_gates, GateUnit.run_isOpen]
      exact ho
    · exact lifeInv_of_fares h2 (fun _ _ he => he.elim) hl
  | complete f hf v n =>
    have hpass := passClocks_moved hr n
    have hrec := ((deliver_senseWork f.channel v.toNat).foldl_runtimesOnly f.due (s.passClocks n)).records
    refine hpass.trans (moved_of_records hpass.ranked ?_ htable (by simp) (by simp)
      (fun g => congrArg (fun p : PerGate GateUnit => (p.get g).isOpen) (complete_gates _ f _))
      (State.complete_subsides _ f _).stop)
    rw [complete_eq]
    generalize f.due.foldl (fun s i => s.deliver f.channel v.toNat i) (s.passClocks n) = w at hrec
    have hfree : w.SameRecords { w with arbiter := { (s.passClocks n).arbiter with inFlight := none } } := .of_slots rfl
    exact hrec.trans (hfree.trans (.of_slots (State.decideIfFree_slots _)))
  | pinChange e v n =>
    exact moved_of_records hr (pinChange_records s e v n) htable (by simp) (by simp)
      (fun g => (pinChange_reads s e v n g).isOpen) (s.pinChange_subsides e v n).stop
  | accept e p hp n =>
    have hpass := passClocks_moved hr n
    exact hpass.trans (moved_of_records hpass.ranked (acceptEdge_records _ e p.stamp) htable (by simp) (by simp)
      (fun g => congrArg (fun p : PerGate GateUnit => (p.get g).isOpen) (by simp))
      (Subsides.of_frame (by simp) (by simp)).stop)
  | trip g => exact takeTrip_moved hr g
  | clocks => exact passClocks_moved hr 1

/-! ### Requests -/

/-- A claim changed in one slot, with its class and its state. -/
theorem updClaim_samePlaces (s : State) (i : SlotIx) {f : Claim → Claim}
    (hf : ∀ c, (f c).resource = c.resource ∧ (f c).cls = c.cls ∧ (f c).state = c.state) :
    s.SamePlaces (s.updClaim i f) := fun j d hd => by
  rw [State.updClaim_claim] at hd
  split at hd
  · rename_i h
    obtain ⟨c, hc, rfl⟩ := Option.map_eq_some_iff.mp hd
    obtain ⟨h1, h2, h3⟩ := hf c
    exact ⟨c, h ▸ hc, h1.symm, h2.symm, h3.symm⟩
  · exact ⟨d, hd, rfl, rfl, rfl⟩

theorem updClaim_moved (hr : s.Ranked) (i : SlotIx) {f : Claim → Claim}
    (hf : ∀ c, (f c).resource = c.resource ∧ (f c).cls = c.cls ∧ (f c).state = c.state)
    (ht : TableInv (s.updClaim i f)) (hlife : ∀ c, s.claim i = some c → c.lifeOk → (f c).lifeOk) :
    s.Moved (s.updClaim i f) :=
  moved_of_places hr (updClaim_samePlaces s i hf) ht rfl rfl (fun _ => rfl) (Subsides.of_frame rfl rfl).stop
    fun hl => lifeInv_updClaim hl hlife

/-- A deadline set for a hold at the present count (R5, R13). -/
theorem deadlineFor_isSome (s : State) (hold : Nat) : (s.deadlineFor hold).isSome = true ↔ hold ≠ 0 := by
  unfold State.deadlineFor
  split
  · rename_i h
    simp [h]
  · rename_i h
    simp [h]

/-- A claim that has not ended, its deadline set anew by its hold, unpinned (R12, R13). -/
theorem lifeOk_of_fresh {c d : Claim} (hc : c.lifeOk) (ho : c.state.ongoing = true) (hst : d.state = c.state)
    (hp : c.pinned = false) (hdp : d.pinned = c.pinned) (hcause : d.endCause = c.endCause) {s : State}
    (hline : d.deadline = s.deadlineFor d.hold) : d.lifeOk := by
  obtain ⟨-, h2, -⟩ := hc
  rw [ho] at h2
  unfold Claim.lifeOk
  rw [hst, ho, hdp, hp, hcause, hline, deadlineFor_isSome]
  exact ⟨⟨fun h => ⟨h, rfl, rfl⟩, fun h => h.1⟩, h2, fun _ => rfl⟩

theorem ongoing_of_ne {st : ClaimState} (h : st ≠ .retiring ∧ st ≠ .spent) : st.ongoing = true := by
  obtain ⟨h1, h2⟩ := h
  cases st
  case retiring => exact absurd rfl h1
  case spent => exact absurd rfl h2
  all_goals rfl

theorem renewClaim_moved (hr : s.Ranked) {i : SlotIx} {c : Claim} (hc : s.claim i = some c) (hu : c.pinned = false)
    (ho : c.state.ongoing = true) : s.Moved (s.renewClaim i) :=
  updClaim_moved hr i (fun _ => ⟨rfl, rfl, rfl⟩) (State.TableOk.upd_same hr.table i _ fun _ => ⟨rfl, rfl, rfl⟩)
    fun x hx hok => by
      rw [hc] at hx
      cases hx
      exact lifeOk_of_fresh hok ho rfl hu rfl rfl rfl

theorem renewedAll_moved (hr : s.Ranked) (l : Link) : s.Moved ((s.renewable l).foldl State.renewClaim s) := by
  refine (List.foldlRecOn (motive := fun u => s.Moved u ∧ ∀ j c, u.claim j = some c →
    ∃ b, s.claim j = some b ∧ b.pinned = c.pinned ∧ b.state = c.state) (s.renewable l) State.renewClaim
    ⟨.refl hr, fun j c hc => ⟨c, hc, rfl, rfl⟩⟩ fun u hu i hi => ?_).1
  obtain ⟨hmoved, hback⟩ := hu
  have hsame : ∀ c, u.claim i = some c → c.pinned = false ∧ c.state.ongoing = true := fun c hc => by
    obtain ⟨b, hb, hp, hst⟩ := hback i c hc
    obtain ⟨b', hb', hprop⟩ := (State.mem_slotsWhere _ _ _).mp hi
    rw [hb] at hb'
    cases hb'
    simp only [Bool.and_eq_true, Bool.not_eq_true', decide_eq_true_eq] at hprop
    exact ⟨hp ▸ hprop.1.1.2, hst ▸ hprop.2⟩
  refine ⟨hmoved.trans ?_, fun j c hc => ?_⟩
  · cases hc : u.claim i with
    | none =>
      refine updClaim_moved hmoved.ranked i (fun _ => ⟨rfl, rfl, rfl⟩)
        (State.TableOk.upd_same hmoved.ranked.table i _ fun _ => ⟨rfl, rfl, rfl⟩) fun x hx => ?_
      rw [hc] at hx
      cases hx
    | some c => exact renewClaim_moved hmoved.ranked hc (hsame c hc).1 (hsame c hc).2
  · unfold State.renewClaim at hc
    rw [State.updClaim_claim] at hc
    split at hc
    · rename_i hji
      obtain ⟨b, hb, rfl⟩ := Option.map_eq_some_iff.mp hc
      exact hji ▸ hback i b hb
    · exact hback j c hc

/-- Slots freed, and the claims that stay as they were. -/
theorem moved_of_freed (hr : s.Ranked) (ht : TableInv t) (hclaim : ∀ i c, t.claim i = some c → s.claim i = some c)
    (hd : t.driveLists = s.driveLists) (hg : t.gateLists = s.gateLists) (hgates : t.gates = s.gates)
    (hdrives : t.drives = s.drives) : s.Moved t :=
  moved_of_places hr (fun i c hc => ⟨c, hclaim i c hc, rfl, rfl, rfl⟩) ht hd hg
    (fun g => by rw [State.gateIsOpen, hgates]; rfl) (Subsides.of_frame hgates hdrives).stop
    fun hl i c hc => hl i c (hclaim i c hc)

theorem barLink_moved (hr : s.Ranked) (l : Link) : s.Moved (s.barLink l) :=
  moved_of_freed hr (barLink_tableInv hr.table l) (fun i c hc => by
    rw [barLink_claim] at hc
    split at hc
    · cases hc
    · exact hc) (s.barLink_driveLists l) (s.barLink_gateLists l) (s.barLink_gates l) (s.barLink_drives l)

theorem tookNotices_moved (hr : s.Ranked) (l : Link) :
    s.Moved (((s.notices.get l).take 6).foldl State.takeEntry
      { s with notices := s.notices.set l ((s.notices.get l).drop 6) }) :=
  moved_of_freed hr (tookNotices_tableInv hr.table l) (fun i c hc => by
    rw [takeNotices_claim (hr.table.sorted l)] at hc
    split at hc
    · cases hc
    · exact hc) (foldl_keeps State.driveLists State.takeEntry (fun u e => u.takeEntry_driveLists e) _ _)
    (foldl_keeps State.gateLists State.takeEntry (fun u e => u.takeEntry_gateLists e) _ _)
    (foldl_keeps State.gates State.takeEntry (fun u e => u.takeEntry_gates e) _ _)
    (foldl_keeps State.drives State.takeEntry (fun u e => u.takeEntry_drives e) _ _)

theorem handOverPinned_moved (hr : s.Ranked) {i : SlotIx} {c : Claim} (hc : s.claim i = some c)
    (hb : s.barred c.owner = true) : s.Moved (s.handOverPinned i) := by
  have hplaces := updClaim_samePlaces s i (f := fun c => { c with
    owner := s.setup.authority
    tag := if (s.tagSlot s.setup.authority c.tag).isSome then 0#16 else c.tag }) fun _ => ⟨rfl, rfl, rfl⟩
  refine moved_of_places hr hplaces (handOverPinned_tableInv hr.table hc hb) rfl rfl (fun _ => rfl)
    (Subsides.of_frame rfl rfl).stop fun hl => ?_
  exact lifeInv_updClaim hl fun _ _ hok => hok

theorem evictLink_moved (hr : s.Ranked) (l : Link) : s.Moved (s.evictLink l) := by
  have hbar := barLink_moved hr l
  have hend : (s.barLink l).Moved (s.evicting l) := endClaims_moved hbar.ranked _ fun _ i hi c hc => by
    obtain ⟨b, hb, hprop⟩ := (State.mem_slotsWhere _ _ _).mp hi
    rw [barLink_claim] at hc
    split at hc
    · cases hc
    · rw [hb] at hc
      cases hc
      simp only [Bool.and_eq_true, Bool.not_eq_true'] at hprop
      exact hprop.1.2
  have hover := foldl_handOverPinned_keeps (P := fun u => (s.evicting l).Moved u) (l := l)
    (fun u i c hu hc ho _ hb => hu.trans (handOverPinned_moved hu.ranked hc (ho ▸ hb))) _ (pinnedOf_nodup (s.evicting l) l)
    (fun i hi => mem_pinnedOf hi) (evicting_barred s l) (.refl hend.ranked)
  rw [evictLink_eq]
  generalize List.foldl _ _ _ = u at hover ⊢
  refine hbar.trans (hend.trans (hover.trans ?_))
  exact runs_gateIsOpen hover.ranked (tableInv_congr (s := u) rfl rfl rfl rfl rfl hover.ranked.table) rfl rfl rfl
    (fun g => (passHolds_reads u l g).isOpen) (State.passHolds_subsides u l).stop

theorem pinned_moved (hr : s.Ranked) {i : SlotIx} {c : Claim} (hc : s.claim i = some c) (ho : c.state.ongoing = true) :
    s.Moved (s.updClaim i Claim.pin) :=
  updClaim_moved hr i (fun _ => ⟨rfl, rfl, rfl⟩) (State.TableOk.upd_same hr.table i _ fun _ => ⟨rfl, rfl, rfl⟩)
    fun x hx hok => by
      rw [hc] at hx
      cases hx
      obtain ⟨-, h2, -⟩ := hok
      unfold Claim.lifeOk Claim.pin
      exact ⟨⟨fun h => Bool.noConfusion h, fun h => Bool.noConfusion h.2.1⟩, h2, fun _ => ho⟩

/-! ### OPEN and AMEND -/

theorem newClaim_lifeOk (s : State) (l : Link) (r : Resource) (tag : BitVec 16) (f : ClaimFields) :
    (s.newClaim l r tag f).lifeOk := by
  have ho : (s.newClaim l r tag f).state.ongoing = true := by cases r <;> rfl
  refine ⟨?_, ?_, fun h => Bool.noConfusion h⟩
  · rw [ho]
    exact (deadlineFor_isSome s f.hold).trans ⟨fun h => ⟨h, rfl, rfl⟩, fun h => h.1⟩
  · rw [ho]
    exact ⟨fun h => Bool.noConfusion h, fun h => Bool.noConfusion h⟩

theorem putClaim_lifeInv (hl : LifeInv s) {i : SlotIx} {c : Claim} (hc : c.lifeOk) : LifeInv (s.putClaim i c) :=
  fun j x hx => by
    rw [State.putClaim_claim] at hx
    split at hx
    · cases hx
      exact hc
    · exact hl j x hx

/-- A new claim on a drive channel joins its list. -/
theorem openedDrive_moved (hr : s.Ranked) {i : SlotIx} (hi : s.claim i = none) {d : Drive} {c : Claim}
    (hres : c.resource = .drive d) (hst : c.state = .standby) (hok : c.lifeOk) :
    s.Moved ((s.putClaim i c).join d i) := by
  have hwait := putClaim_awaits hr hi c hres hst
  obtain ⟨h1, h2, h3⟩ := join_course (fin := fun _ => True) (ends := fun _ _ => False) hwait fun _ _ => trivial
  refine ⟨h1, fun _ hh => h3 fun e he => ?_, (Subsides.of_frame (by simp) (by simp)).stop,
    fun hl => lifeInv_of_fares h2 (fun _ _ he => he.elim) (putClaim_lifeInv hl hok)⟩
  refine (hh e).alike (putClaim_alikeOn hr hi c fun h => ?_) hwait.table
  rw [hres] at h
  exact he (Resource.drive.inj h).symm

/-- A new claim on a gate takes its place in the gate's list, and the gate evaluates. -/
theorem openedGate_moved (hr : s.Ranked) {i : SlotIx} (hi : s.claim i = none) {g : Gate} {c : Claim}
    (hres : c.resource = .gate g) (hst : c.state = .active) (hok : c.lifeOk) :
    s.Moved (State.evalGate { s.putClaim i c with
      gateLists := s.gateLists.set g ((s.putClaim i c).insertByClass i (s.gateList g)) } g) := by
  have hput := putClaim_tableInv hr.table hi c
  have hci : (s.putClaim i c).claim i = some c := by rw [State.putClaim_claim, if_pos rfl]
  have hig := free_not_mem_gateList hr.table hi g
  have hkind : c.resource.kind ≠ .drive := by rw [hres]; exact Kind.noConfusion
  have hfits : c.stateFits := by
    unfold Claim.stateFits
    rw [if_neg hkind]
    exact .inl hst
  have htable := insertGate_tableInv hput hci hres hst hig
  have halike : ∀ d, s.AlikeOn { s.putClaim i c with
      gateLists := s.gateLists.set g ((s.putClaim i c).insertByClass i (s.gateList g)) } d := fun d => by
    refine (putClaim_lines hr hi c hkind d).trans (alikeOn_of_frame ?_ ?_ d) <;> rfl

  have horder := insertByClass_pairwise (putClaim_order hr hi c hig (hr.votes g).order) i
  have hranked : State.Ranked { s.putClaim i c with
      gateLists := s.gateLists.set g ((s.putClaim i c).insertByClass i (s.gateList g)) } := by
    refine ⟨htable, fun d => (hr.line d).alike (halike d) htable, fun k => ?_, fun j x hx =>
      putClaim_fits hr hi c hfits hx⟩
    have hlist : State.gateList { s.putClaim i c with
        gateLists := s.gateLists.set g ((s.putClaim i c).insertByClass i (s.gateList g)) } k =
        if k = g then (s.putClaim i c).insertByClass i (s.gateList g) else s.gateList k := PerGate.get_set ..
    by_cases hk : k = g
    · subst hk
      rw [if_pos rfl] at hlist
      refine ⟨?_, fun j x hx hxr hxs => ?_⟩
      · rw [hlist]
        exact horder
      rw [hlist, mem_insertByClass]
      rcases putClaim_free_cases hr hi c hx with ⟨hj, -⟩ | ⟨-, hx⟩
      · exact .inl hj
      · exact .inr ((hr.votes k).full j x hx hxr hxs)
    · rw [if_neg hk] at hlist
      have hother := putClaim_voteLine hr hi c (g := k) fun h => by
        rw [hres] at h
        exact hk (Resource.gate.inj h).symm
      exact ⟨hlist ▸ hother.order, fun j x hx hxr hxs => hlist ▸ hother.full j x hx hxr hxs⟩
  have hmoved : s.Moved { s.putClaim i c with
      gateLists := s.gateLists.set g ((s.putClaim i c).insertByClass i (s.gateList g)) } :=
    ⟨hranked, fun _ hh d => (hh d).alike (halike d) htable, (Subsides.of_frame rfl rfl).stop,
      fun hl => putClaim_lifeInv hl hok⟩
  exact hmoved.trans ((evalGate_runs (fin := fun _ => True) (ends := fun _ _ => False) hranked g fun _ => trivial).moved
    fun _ _ _ he => he.elim)

/-- A new claim on a sense resource stands in its slot alone. -/
theorem openedSense_moved (hr : s.Ranked) {i : SlotIx} (hi : s.claim i = none) {c : Claim}
    (hd : c.resource.kind ≠ .drive) (hg : c.resource.kind ≠ .gate) (hst : c.state = .active) (hok : c.lifeOk) :
    s.Moved (s.putClaim i c) := by
  have hput := putClaim_tableInv hr.table hi c
  have hfits : c.stateFits := by
    unfold Claim.stateFits
    rw [if_neg hd]
    exact .inl hst
  refine ⟨⟨hput, fun d => (hr.line d).alike (putClaim_lines hr hi c hd d) hput, fun g => putClaim_voteLine hr hi c
    fun h => hg (by rw [h]; rfl), fun j x hx => putClaim_fits hr hi c hfits hx⟩,
    fun _ hh d => (hh d).alike (putClaim_lines hr hi c hd d) hput, (Subsides.of_frame rfl rfl).stop,
    fun hl => putClaim_lifeInv hl hok⟩

theorem opened_moved (hr : s.Ranked) {i : SlotIx} (hi : s.claim i = none) (l : Link) (r : Resource) (tag : BitVec 16)
    (f : ClaimFields) : s.Moved ((s.putClaim i (s.newClaim l r tag f)).handOver r i) := by
  have hok := newClaim_lifeOk s l r tag f
  cases r with
  | drive d => exact openedDrive_moved hr hi rfl rfl hok
  | gate g => exact openedGate_moved hr hi rfl rfl hok
  | analog ch => exact openedSense_moved hr hi Kind.noConfusion Kind.noConfusion rfl hok
  | edge e => exact openedSense_moved hr hi Kind.noConfusion Kind.noConfusion rfl hok

theorem amendedPut_moved (hr : s.Ranked) {i : SlotIx} {c : Claim} (hc : s.claim i = some c) (hu : c.pinned = false)
    (ho : c.state.ongoing = true) (f : ClaimFields) : s.Moved (s.putClaim i (s.amendedClaim c f)) := by
  refine moved_of_places hr (fun j x hx => ?_) (putClaim_tableInv_of_same hr.table hc rfl rfl rfl) rfl rfl (fun _ => rfl)
    (Subsides.of_frame rfl rfl).stop fun hl => putClaim_lifeInv hl (lifeOk_of_fresh (hl i c hc) ho rfl hu rfl rfl rfl)
  rw [State.putClaim_claim] at hx
  split at hx
  · rename_i hji
    cases hx
    exact ⟨c, hji ▸ hc, rfl, rfl, rfl⟩
  · exact ⟨x, hx, rfl, rfl, rfl⟩

theorem amended_moved (hr : s.Ranked) {i : SlotIx} {c : Claim} (hc : s.claim i = some c) (hu : c.pinned = false)
    (ho : c.state.ongoing = true) (f : ClaimFields) :
    s.Moved ((s.putClaim i (s.amendedClaim c f)).handAmended c i) := by
  have hput := amendedPut_moved hr hc hu ho f
  have hci : (s.putClaim i (s.amendedClaim c f)).claim i = some (s.amendedClaim c f) := by
    rw [State.putClaim_claim, if_pos rfl]
  refine hput.trans ?_
  generalize s.putClaim i (s.amendedClaim c f) = u at hput hci
  have hranked := hput.ranked
  unfold State.handAmended
  split
  · rename_i d hres
    split
    · rename_i hst
      have hout := (hranked.table.unlisted_of_apart hci (.inr (.inr ⟨congrArg ClaimState.listed hst, fun e =>
        ClaimState.noConfusion (hst.symm.trans e)⟩))).1 d
      have hwait : u.Awaits d i (s.amendedClaim c f) :=
        ⟨hranked.table, fun e _ => hranked.line e, hranked.votes, hranked.fits, (hranked.line d).order,
          fun j x _ => (hranked.line d).full j x, (hranked.line d).behind, (hranked.line d).alone, hout, hci, hres,
          .inr hst⟩
      obtain ⟨h1, h2, h3⟩ := join_course (fin := fun _ => True) (ends := fun _ _ => False) hwait fun _ _ => trivial
      exact ⟨h1, fun _ hh => h3 fun e _ => hh e, (Subsides.of_frame (by simp) (by simp)).stop,
        fun hl => lifeInv_of_fares h2 (fun _ _ he => he.elim) hl⟩
    · exact .refl hranked
  · exact (evalGate_runs (fin := fun _ => True) (ends := fun _ _ => False) hranked _ fun _ => trivial).moved
      fun _ _ _ he => he.elim
  · exact .refl hranked
  · exact .refl hranked

theorem readByOwner_lifeOk {c : Claim} (hok : c.lifeOk) : (Claim.readByOwner c).lifeOk := by
  unfold Claim.readByOwner
  split <;> exact hok

theorem change_moved (hr : s.Ranked) (h : Change s t) : s.Moved t := by
  have htable := change_tableInv hr.table h
  have hquiet : ∀ {u : State}, TableInv u → u.slots = s.slots → u.driveLists = s.driveLists →
      u.gateLists = s.gateLists → u.gates = s.gates → u.drives = s.drives → s.Moved u := fun hu hs hd hg hgates hdrives =>
    runs_gateIsOpen hr hu hs hd hg (fun g => by rw [State.gateIsOpen, hgates]; rfl) (Subsides.of_frame hgates hdrives).stop
  cases h with
  | nothing => exact .refl hr
  | read i =>
    exact updClaim_moved hr i (fun c => ⟨(Claim.readByOwner_same c).resource, (Claim.readByOwner_same c).cls,
      readByOwner_state c⟩) htable fun c _ hok => readByOwner_lifeOk hok
  | tookNotices l => exact tookNotices_moved hr l
  | opened l body r i f ho => exact opened_moved hr ho.room.1 l r _ f
  | amended body l i c f ho hf => exact amended_moved hr ho.claim ho.unpinned (ongoing_of_ne ho.ongoing) f
  | renewed i c hc hu ho => exact renewClaim_moved hr hc hu (ongoing_of_ne ho)
  | renewedAll l => exact renewedAll_moved hr l
  | retired l body i c ho =>
    refine endClaims_moved hr _ fun _ j hj x hx => ?_
    rw [List.mem_singleton.mp hj, ho.claim] at hx
    cases hx
    exact ho.unpinned
  | droppedAll l hrun =>
    have hend : s.Moved (s.endClaims .retire (s.endable l)) := endClaims_moved hr _ fun _ i hi c hc => by
      obtain ⟨b, hb, hprop⟩ := (State.mem_slotsWhere _ _ _).mp hi
      rw [hb] at hc
      cases hc
      simp only [Bool.and_eq_true, Bool.not_eq_true'] at hprop
      exact hprop.1.2
    exact hend.trans (runs_gateIsOpen hend.ranked htable rfl rfl rfl (fun _ => rfl) id)
  | cleared g src hrun => exact removeHold_moved hr g src
  | tested g src hrun => exact takeHold_moved hr g _
  | pinned i c hc ho => exact pinned_moved hr hc (ongoing_of_ne ho)
  | evicted l hl hrun => exact evictLink_moved hr l
  | admitted | reach | window | filter | polarity | locked => exact hquiet htable rfl rfl rfl rfl rfl

end Moved

/-! ### Steps -/

theorem step_listInv {s t : State} (hs : StopInv s ∧ s.Ranked ∧ s.Heads) (h : step s = .next t) :
    StopInv t ∧ t.Ranked ∧ t.Heads := by
  refine step_keeps_parts (P := fun u => StopInv u ∧ u.Ranked ∧ u.Heads) (fun s q n r p hs hp => ?_)
    (fun auth pins csLow => ?_) (fun u v hu hv => ?_) (fun u v hu hv => ?_) hs h
  · obtain ⟨hstop, hr, hh⟩ := hs
    have htable := tableInv_readsParts s q n r p hr.table hp
    exact ⟨hstop, State.Ranked.places (samePlaces_of_slots (s := s) rfl) hr htable rfl rfl, hh⟩
  · obtain ⟨stop, table, list, -⟩ := released_invariants auth pins csLow
    exact ⟨stop, ranked_of_inv table list, heads_of_inv list⟩
  · obtain ⟨hstop, hr, hh⟩ := hu
    have hm := change_moved hr hv
    exact ⟨hm.stop hstop, hm.ranked, hm.heads hstop hh⟩
  · obtain ⟨hstop, hr, hh⟩ := hu
    have hm := timed_moved hr hv
    exact ⟨hm.stop hstop, hm.ranked, hm.heads hstop hh⟩

theorem step_lifeInv {s t : State} (hs : s.Ranked ∧ LifeInv s) (h : step s = .next t) : t.Ranked ∧ LifeInv t := by
  refine step_keeps_parts (P := fun u => u.Ranked ∧ LifeInv u) (fun s q n r p hs hp => ?_)
    (fun auth pins csLow => ?_) (fun u v hu hv => ?_) (fun u v hu hv => ?_) hs h
  · obtain ⟨hr, hl⟩ := hs
    have htable := tableInv_readsParts s q n r p hr.table hp
    exact ⟨State.Ranked.places (samePlaces_of_slots (s := s) rfl) hr htable rfl rfl, hl⟩

  · obtain ⟨stop, table, list, quota, tag, config, marks, arbiter, clock, auth, gate, range, life, -⟩ :=
      released_invariants auth pins csLow
    exact ⟨ranked_of_inv table list, life⟩
  · exact ⟨(change_moved hu.1 hv).ranked, (change_moved hu.1 hv).life hu.2⟩
  · exact ⟨(timed_moved hu.1 hv).ranked, (timed_moved hu.1 hv).life hu.2⟩

/-- Settles O54. -/
theorem stepKeepsListOrderAndStates : Obligations.StepKeepsListOrderAndStates := fun _ _ hstop ht hl h => by
  obtain ⟨-, hr, hh⟩ := step_listInv ⟨hstop, ranked_of_inv ht hl, heads_of_inv hl⟩ h
  exact listInv_of_ranked hr hh

/-- Settles O56. -/
theorem stepKeepsDeadlines : Obligations.StepKeepsDeadlines := fun _ _ ht hl hlife h =>
  (step_lifeInv ⟨ranked_of_inv ht hl, hlife⟩ h).2


end Sys2Proof.Machine
end

section
/-! REFUTATION of O24. The invariants that the statement supposes leave room for a STANDBY claim whose burst is finished.
Where the entries ahead of it and the vote that holds the gate open end at one event, that claim is promoted with TAKEN
and then completes at the closing gate (R45): it has the notice, and is not the head. -/

namespace Sys2Proof.Machine

/-- A claim on DL whose burst of 3 is finished. -/
def Claim.burstDone (owner : Link) (st : ClaimState) : Claim :=
  ⟨owner, .drive .dl, 0#16, 1, st, 10, some 800#32, false, false, none, .drive ⟨512, .forward, 100, 3⟩ 0⟩

/-- A vote of Link B that holds GT open. -/
def Claim.openingVote : Claim :=
  ⟨.b, .gate .gt, 0#16, 3, .active, 0, none, false, false, none, .gate ⟨.votesOpen, 160, .coast⟩⟩

/-- GT is OPEN by the vote in slot 3 over DL, whose head and two STANDBY entries have all finished their bursts. -/
def State.burstsBehind : State :=
  { State.reset with
    slots := (((State.reset.slots.set 0 ⟨0, some (Claim.burstDone .b .inForce)⟩).set 1
      ⟨0, some (Claim.burstDone .b .standby)⟩).set 2 ⟨0, some (Claim.burstDone .c .standby)⟩).set 3
      ⟨0, some Claim.openingVote⟩
    driveLists := ⟨[0, 1, 2], [], []⟩
    gateLists := ⟨[3], []⟩
    gates := ⟨⟨true, 10, 0, some 160, none, .coast, []⟩, State.reset.gates.gb⟩
    drives := ⟨⟨.idle, 0, .coast, 0⟩, ⟨.idle, 0, .coast, 0⟩, State.reset.drives.db⟩ }

theorem burstsBehind_claims : ∀ i, ∀ c ∈ State.burstsBehind.claim i, (i, c) ∈ [((0 : SlotIx), Claim.burstDone .b .inForce),
    (1, Claim.burstDone .b .standby), (2, Claim.burstDone .c .standby), (3, Claim.openingVote)] := by
  decide +kernel

theorem burstsBehind_stopInv : StopInv State.burstsBehind := by
  refine ⟨fun g => ?_, fun d => ?_⟩
  · unfold GateUnit.ok
    cases g <;> decide +kernel
  · unfold DriveChannel.ok
    cases d <;> decide +kernel

theorem burstsBehind_tableInv : TableInv State.burstsBehind where
  driveEntry d := by
    show ∀ i ∈ State.burstsBehind.driveList d, ∃ c ∈ State.burstsBehind.claim i, c.resource = .drive d ∧ c.state.listed = true
    cases d <;> decide +kernel
  driveNodup d := by cases d <;> decide +kernel
  gateEntry g := by
    show ∀ i ∈ State.burstsBehind.gateList g, ∃ c ∈ State.burstsBehind.claim i, c.resource = .gate g ∧ c.state = .active
    cases g <;> decide +kernel
  gateNodup g := by cases g <;> decide +kernel
  final l e he := by cases l <;> cases he
  sorted l := by cases l <;> exact List.Pairwise.nil
  barredEmpty l _ := by cases l <;> rfl

theorem burstsBehind_line (d : Drive) : State.burstsBehind.Line d := by
  refine ⟨by cases d <;> decide +kernel, fun i c hc hr _ => ?_, fun h t hl j hj c hc => ?_, fun h t c _ hc hret => ?_⟩
  · have hmem := burstsBehind_claims i c hc
    simp only [List.mem_cons, Prod.mk.injEq, List.not_mem_nil, or_false] at hmem
    rcases hmem with ⟨rfl, rfl⟩ | ⟨rfl, rfl⟩ | ⟨rfl, rfl⟩ | ⟨rfl, rfl⟩ <;> cases hr
    all_goals decide
  · have htail : ∀ j ∈ (State.burstsBehind.driveList d).tail, ∀ c ∈ State.burstsBehind.claim j, c.state = .standby := by
      cases d <;> decide +kernel
    exact htail j (by rw [hl]; exact hj) c hc
  · have hnone : ∀ i, ∀ c ∈ State.burstsBehind.claim i, c.state ≠ .retiring := by decide +kernel
    exact absurd hret (hnone h c hc)

theorem burstsBehind_listInv : ListInv State.burstsBehind := by
  refine (listInv_iff _).mpr ⟨fun i c hc => ?_, burstsBehind_line, fun g => ⟨by cases g <;> decide +kernel, fun i c hc hr _ => ?_⟩,
    fun d h t c hl hc => ?_⟩
  · have hmem := burstsBehind_claims i c hc
    unfold Claim.stateFits
    simp only [List.mem_cons, Prod.mk.injEq, List.not_mem_nil, or_false] at hmem
    rcases hmem with ⟨-, rfl⟩ | ⟨-, rfl⟩ | ⟨-, rfl⟩ | ⟨-, rfl⟩ <;> decide
  · have hmem := burstsBehind_claims i c hc
    simp only [List.mem_cons, Prod.mk.injEq, List.not_mem_nil, or_false] at hmem
    rcases hmem with ⟨rfl, rfl⟩ | ⟨rfl, rfl⟩ | ⟨rfl, rfl⟩ | ⟨rfl, rfl⟩ <;> cases hr
    decide
  · cases d with
    | dl =>
      cases hl
      cases hc
      exact ⟨fun _ => .inl rfl, fun ho => Bool.noConfusion ho⟩
    | dr | db => cases hl

/-- The head, the entry behind it and the vote end: the last entry is posted TAKEN, and is not the head. -/
theorem burstsBehind_ends : let t := State.burstsBehind.endClaims .retire [0, 1, 3]
    t.head .dl ≠ some 2 ∧ (∃ e ∈ t.notices.get .c, e.slot = 2 ∧ e.has .taken = true) ∧
      State.burstsBehind.notices.get .c = [] := by
  decide +kernel

/-- Refutes O24: `State.burstsBehind` meets StopInv, TableInv and ListInv, and the ends of slots 0, 1 and 3 post TAKEN to
slot 2, which then leaves its list at the closing gate. -/
theorem not_dropAllEndsOwnClaims : ¬ Obligations.DropAllEndsOwnClaims := by
  rintro ⟨hends, -, -⟩
  obtain ⟨hhead, ⟨e, he, hslot, htaken⟩, hnone⟩ := burstsBehind_ends
  have hongoing : ∀ i ∈ [(0 : SlotIx), 1, 3], ∃ c ∈ State.burstsBehind.claim i, c.state.ongoing = true := by decide +kernel
  obtain ⟨-, -, hlists⟩ := hends .retire [0, 1, 3] State.burstsBehind burstsBehind_stopInv burstsBehind_tableInv
    burstsBehind_listInv hongoing
  obtain ⟨-, -, -, hkept⟩ := hlists .dl
  obtain ⟨e', he', -⟩ := hkept 2 (by decide) (.inl hhead) .c e he hslot htaken
  rw [hnone] at he'
  cases he'

end Sys2Proof.Machine
end

section
/-! SUPPORT. Every claim that an event ends does end: by the works on the lists and outside them it comes to be SPENT, FREE
or RETIRING (R15, R16, R30, R31). -/

namespace Sys2Proof.Machine

/-- No work on a list is due to the claim of a slot any more: it is RETIRING, or in no list. -/
def State.SettledAt (s : State) (j : SlotIx) : Prop := ∀ c, s.claim j = some c → c.state = .retiring ∨ Claim.apart c

/-- The claim of a slot has ended. -/
def State.EndedAt (s : State) (j : SlotIx) : Prop := ∀ c, s.claim j = some c → c.state.ongoing = false

section Ended

variable {fin : Claim → Prop} {ends : SlotIx → EndCause → Prop} {cause : EndCause} {ending : List SlotIx} {s t : State}

theorem Slot.Fate.of_retiring {barred : Link → Bool} {fin : Claim → Prop} {ends : EndCause → Prop} {x y : Slot}
    (h : Slot.Fate barred fin ends x y) {c d : Claim} (hc : x.claim = some c) (hr : c.state = .retiring)
    (hd : y.claim = some d) : d = c ∨ d.state = .spent := by
  cases h with
  | rests =>
    rw [hc] at hd
    exact .inl (Option.some.inj hd).symm
  | finishes =>
    cases hd
    exact .inr rfl
  | freed | discarded => cases hd
  | shifts _ ho | winds _ _ ho | ends _ ho =>
    cases hc
    exact (not_ongoing_of_retiring hr ho).elim

/-- A claim that has ended stays ended. -/
theorem State.EndedAt.fares (hf : State.Fares fin ends s t) {j : SlotIx} (h : s.EndedAt j) : t.EndedAt j := fun c hc => by
  rw [Bool.eq_false_iff]
  intro ho
  obtain ⟨b, hb, hbo, -⟩ := (hf.slots j).ongoing hc ho
  rw [h b hb] at hbo
  cases hbo

/-- Works that leave the slots of the claims in no list keep a slot settled. -/
theorem State.SettledAt.fares (hf : State.Fares fin ends s t) {j : SlotIx}
    (hapart : ∀ c, s.claim j = some c → Claim.apart c → t.slots[j] = s.slots[j]) (h : s.SettledAt j) : t.SettledAt j :=
  fun d hd => by
    obtain ⟨c, hc, -⟩ := hf.descends j d hd
    rcases h c hc with hret | ha
    · rcases (hf.slots j).of_retiring hc hret hd with rfl | hs
      · exact .inl hret
      · refine .inr (.inr (.inr ⟨?_, ?_⟩)) <;> rw [hs]
        · rfl
        · exact ClaimState.noConfusion
    · rw [claim_of_slot (hapart c hc ha)] at hd
      exact h d hd

/-! ### The list of a channel (R30) -/

/-- After the ends in its list, a channel's entries are those that do not end, and a head that winds down. -/
theorem endInDrive_winds (hr : s.Ranked) (d : Drive) {j : SlotIx} (hj : j ∈ ending)
    (hjl : j ∈ (s.endInDrive d cause ending).driveList d) {c : Claim}
    (hc : (s.endInDrive d cause ending).claim j = some c) : c.state = .retiring := by
  have hcases := endInDrive_ends (hr.table.driveNodup d) cause ending
  generalize s.endInDrive d cause ending = v at hcases hjl hc
  have hhead : ∀ {u : State} {h : SlotIx} {l : List SlotIx} {b : Claim}, u.claim h = some b → b.state = .retiring →
      ∀ {c}, (u.changeList d (some h) (h :: l)).claim h = some c → (h :: l).Nodup → c.state = .retiring :=
    fun hb hret c hc hn => by
      rw [changeList_claim_head _ d _ hn, hb] at hc
      cases hc
      unfold Claim.asHead
      rw [if_pos hret]
      exact hret
  cases hcases with
  | none h => exact absurd hj (h j hjl)
  | leaves h t hl =>
    rw [changeList_driveList, if_pos rfl] at hjl
    exact absurd hj (mem_rest_iff.mp hjl).2
  | winds h t hl =>
    rw [changeList_driveList, if_pos rfl] at hjl
    rw [List.mem_singleton.mp hjl] at hc
    obtain ⟨hht, -⟩ := hr.table.tail_nodup hl
    obtain ⟨b, hb, -⟩ := hr.entry (hl ▸ List.mem_cons_self : h ∈ s.driveList d)
    refine hhead (b := { b with state := .retiring, endCause := some cause, deadline := none }) ?_ rfl hc
      (List.nodup_singleton h)
    rw [State.updClaim_claim, if_pos rfl, beginEnd_claim ((endedBehind_claim (.inr hht) s).trans hb)]
    rfl
  | stays h t hl hor =>
    rw [changeList_driveList, if_pos rfl] at hjl
    obtain ⟨hht, hnt⟩ := hr.table.tail_nodup hl
    have hjh : j = h := (List.mem_cons.mp hjl).resolve_right fun hm => (mem_rest_iff.mp hm).2 hj
    obtain ⟨b, hb, hret⟩ := hor.resolve_left fun hn => hn (hjh ▸ hj)
    rw [hjh] at hc
    exact hhead ((endedBehind_claim (.inr hht) s).trans hb) hret hc
      (List.nodup_cons.mpr ⟨fun hm => hht (mem_rest_iff.mp hm).1, hnt.filter _⟩)

theorem endInDrive_settles (hr : s.Ranked) (hends : ∀ i ∈ ending, ends i cause) {j : SlotIx} (hj : j ∈ ending) {c : Claim}
    {d : Drive} (hc : (s.endInDrive d cause ending).claim j = some c) (hres : c.resource = .drive d) :
    c.state = .retiring ∨ Claim.apart c := by
  have ht := (endInDrive_runs (fin := fun _ => True) hr d hends).ranked
  cases hst : c.state.listed with
  | true => exact .inl (endInDrive_winds hr d hj ((ht.line d).full j c hc hres hst) hc)
  | false =>
    have hfit := ht.fits j c hc
    unfold Claim.stateFits at hfit
    rw [if_pos (by rw [hres]; rfl)] at hfit
    exact .inr (.inr (.inr ⟨hst, hfit⟩))

/-! ### The list of a gate (R15) -/

theorem endInGate_gateList (s : State) (g k : Gate) (cause : EndCause) (ending : List SlotIx) :
    (s.endInGate g cause ending).gateList k =
      if k = g then (s.gateList g).filter fun i => decide (i ∉ ending) else s.gateList k := by
  by_cases hany : ∃ i ∈ s.gateList g, i ∈ ending
  · rw [endInGate_of_present hany]
    refine (State.gateList_congr (State.evalGate_gateLists _ g) k).trans ?_
    exact gateListEnded_gateList s g k cause ending
  · rw [endInGate_of_absent fun i hi he => hany ⟨i, hi, he⟩]
    split
    · rename_i hk
      rw [hk]
      have hout : ∀ i ∈ s.gateList g, i ∉ ending := fun i hi he => hany ⟨i, hi, he⟩
      exact (List.filter_eq_self.mpr fun i hi => decide_eq_true (hout i hi)).symm
    · rfl

theorem apart_of_gate {c : Claim} {g : Gate} (hres : c.resource = .gate g) (hfit : c.stateFits) (ha : c.state ≠ .active) :
    Claim.apart c := by
  unfold Claim.stateFits at hfit
  rw [hres, if_neg Kind.noConfusion] at hfit
  refine .inr (.inr ⟨?_, ha⟩)
  rw [hfit.resolve_left ha]
  rfl

theorem endInGate_settles (hr : s.Ranked) (hends : ∀ i ∈ ending, ends i cause) {j : SlotIx} (hj : j ∈ ending) {c : Claim}
    {g : Gate} (hc : (s.endInGate g cause ending).claim j = some c) (hres : c.resource = .gate g) : Claim.apart c := by
  have ht := (endInGate_runs (fin := fun _ => True) hr g hends fun _ _ _ _ _ _ => trivial).ranked
  refine apart_of_gate hres (ht.fits j c hc) fun ha => ?_
  have hmem := (ht.votes g).full j c hc hres ha
  rw [endInGate_gateList, if_pos rfl] at hmem
  exact (mem_rest_iff.mp hmem).2 hj

/-! ### All the lists, and the claims outside them -/

/-- A stretch of the ends in the lists: lists in order after it, each claim in its course, and the claims in no list left. -/
structure State.Ends (ends : SlotIx → EndCause → Prop) (s t : State) : Prop where
  ranked : t.Ranked
  fares : State.Fares (fun _ => True) ends s t
  apart : ∀ j c, s.claim j = some c → Claim.apart c → t.slots[j] = s.slots[j]

theorem State.Ends.trans {u : State} (h : State.Ends ends s t) (k : State.Ends ends t u) : State.Ends ends s u :=
  ⟨k.ranked, h.fares.trans k.fares, fun j c hc ha =>
    (k.apart j c ((claim_of_slot (h.apart j c hc ha)).trans hc) ha).trans (h.apart j c hc ha)⟩

theorem State.Ends.settled {j : SlotIx} (h : State.Ends ends s t) (hs : s.SettledAt j) : t.SettledAt j :=
  hs.fares h.fares (h.apart j)

variable (hends : ∀ i ∈ ending, ends i cause)
include hends

theorem endInDrive_stretch (hr : s.Ranked) (d : Drive) : State.Ends ends s (s.endInDrive d cause ending) := by
  have hrun := endInDrive_runs (fin := fun _ => True) hr d hends
  exact ⟨hrun.ranked, hrun.fares, fun j c hc ha =>
    endInDrive_slot (hr.table.driveNodup d) ((hr.table.unlisted_of_apart hc ha).1 d) cause ending⟩

theorem endInGate_stretch (hr : s.Ranked) (g : Gate) : State.Ends ends s (s.endInGate g cause ending) := by
  have hrun := endInGate_runs (fin := fun _ => True) hr g hends fun _ _ _ _ _ _ => trivial
  exact ⟨hrun.ranked, hrun.fares, fun j c hc ha =>
    endInGate_slot hr.table.driveNodup (hr.table.unlisted_of_apart hc ha) g cause ending⟩

omit hends in
/-- Works that each are a stretch, done for each of several places: the entries of every place done are settled. -/
theorem foldl_stretch {α : Type} {work : State → α → State} {res : α → Resource}
    (hwork : ∀ u a, u.Ranked → State.Ends ends u (work u a))
    (hsettles : ∀ u a, u.Ranked → ∀ j ∈ ending, ∀ c, (work u a).claim j = some c → c.resource = res a →
      c.state = .retiring ∨ Claim.apart c) :
    ∀ (as : List α) {s : State}, s.Ranked → State.Ends ends s (as.foldl work s) ∧
      ∀ j ∈ ending, ∀ c, (as.foldl work s).claim j = some c → (∃ a ∈ as, c.resource = res a) →
        c.state = .retiring ∨ Claim.apart c
  | [], s, hr => ⟨⟨hr, .refl s, fun _ _ _ _ => rfl⟩, fun _ _ _ _ h => by obtain ⟨_, ha, -⟩ := h; cases ha⟩
  | a :: as, s, hr => by
    have hfirst := hwork s a hr
    obtain ⟨hrest, hdone⟩ := foldl_stretch hwork hsettles as hfirst.ranked
    refine ⟨hfirst.trans hrest, fun j hj c hc h => ?_⟩
    obtain ⟨b, hb, hres⟩ := h
    rcases List.mem_cons.mp hb with rfl | hb
    · obtain ⟨c', hc', hsame⟩ := hrest.fares.descends j c hc
      have hset : (work s b).SettledAt j := fun x hx => by
        rw [hc'] at hx
        cases hx
        exact hsettles s b hr j hj c' hc' (hsame.resource.symm.trans hres)
      exact hrest.settled hset c hc
    · exact hdone j hj c hc ⟨b, hb, hres⟩

/-- After the works on the lists every ending claim is RETIRING or in no list. -/
theorem endInLists_settles (hr : s.Ranked) : State.Ends ends s (s.endInLists cause ending) ∧
    ∀ j ∈ ending, (s.endInLists cause ending).SettledAt j := by
  have hdrives := fun (ds : List Drive) {u : State} (hu : u.Ranked) => foldl_stretch (ends := ends)
    (ending := ending) (work := fun s d => State.endInDrive s d cause ending) (res := Resource.drive)
    (fun u d hu => endInDrive_stretch hends hu d) (fun u d hu j hj c hc => endInDrive_settles hu hends hj hc) ds hu
  have hgates := fun {u : State} (hu : u.Ranked) => foldl_stretch (ends := ends)
    (ending := ending) (work := fun s g => State.endInGate s g cause ending) (res := Resource.gate)
    (fun u g hu => endInGate_stretch hends hu g)
    (fun u g hu j hj c hc hres => .inr (endInGate_settles hu hends hj hc hres)) [.gt, .gb] hu
  unfold State.endInLists
  obtain ⟨h1, k1⟩ := hdrives ([Drive.dl, .dr, .db].filter fun d => !s.gateFirst ending d) hr
  obtain ⟨h2, k2⟩ := hgates h1.ranked
  obtain ⟨h3, k3⟩ := hdrives ([Drive.dl, .dr, .db].filter fun d => s.gateFirst ending d) h2.ranked
  refine ⟨h1.trans (h2.trans h3), fun j hj c hc => ?_⟩
  obtain ⟨c2, hc2, hs2⟩ := h3.fares.descends j c hc
  obtain ⟨c1, hc1, hs1⟩ := h2.fares.descends j c2 hc2
  cases hres : c.resource with
  | drive d =>
    cases hfirst : s.gateFirst ending d with
    | true => exact k3 j hj c hc ⟨d, List.mem_filter.mpr ⟨by cases d <;> simp, hfirst⟩, hres⟩
    | false =>
      refine (h2.trans h3).settled (fun x hx => ?_) c hc
      rw [hc1] at hx
      cases hx
      refine k1 j hj c1 hc1 ⟨d, List.mem_filter.mpr ⟨by cases d <;> simp, by rw [hfirst]; rfl⟩, ?_⟩
      rw [← hs1.resource, ← hs2.resource, hres]
  | gate g =>
    refine h3.settled (fun x hx => ?_) c hc
    rw [hc2] at hx
    cases hx
    refine k2 j hj c2 hc2 ⟨g, by cases g <;> simp, ?_⟩
    rw [← hs2.resource, hres]
  | analog ch =>
    refine .inr (.inl ?_)
    rw [hres]
    rfl
  | edge e =>
    refine .inr (.inr (.inl ?_))
    rw [hres]
    rfl

omit hends in
theorem complete_of_apart {c : Claim} {d : Drive} (hres : c.resource = .drive d) (ha : Claim.apart c)
    (ho : c.state.ongoing = true) : c.state = .complete := by
  rcases ha with hk | hk | ⟨hl, hna⟩
  · rw [hres] at hk
    cases hk
  · rw [hres] at hk
    cases hk
  · cases hst : c.state
    case complete => rfl
    case active => exact absurd hst hna
    case spent => exact (not_ongoing_of_spent hst ho).elim
    all_goals
      rw [hst] at hl
      cases hl

omit hends in
/-- The last work on an ending claim ends it, if nothing has before. -/

theorem endOutsideLists_ends (hr : s.Ranked) {j : SlotIx} (hs : s.SettledAt j) : (s.endOutsideLists cause j).EndedAt j := by
  by_cases hended : s.EndedAt j
  · have hrun := endOutsideLists_runs (fin := fun _ => True) (ends := fun _ _ => True) (cause := cause) (i := j) hr trivial
    exact hended.fares hrun.fares
  obtain ⟨c, hc, ho⟩ : ∃ c, s.claim j = some c ∧ c.state.ongoing = true := by
    by_contra hno
    exact hended fun c hc => Bool.eq_false_iff.mpr fun ho => hno ⟨c, hc, ho⟩
  have hnow : ∀ {u : State}, u.slots = (s.endNow cause j).slots → u.EndedAt j := fun hu d hd => by
    rw [State.claim_congr hu] at hd
    rw [endNow_claim_spent hc hd]
    rfl
  have hapart := (hs c hc).resolve_left fun hret => not_ongoing_of_retiring hret ho
  have hfit := hr.fits j c hc
  have hactive : c.resource.kind ≠ .drive → c.state = .active := fun hk => by
    unfold Claim.stateFits at hfit
    rw [if_neg hk] at hfit
    exact hfit.resolve_right fun hsp => not_ongoing_of_spent hsp ho
  cases hres : c.resource with
  | drive d =>
    have hcomplete : c.state = .complete := complete_of_apart hres hapart ho
    rw [endOutsideLists_of_complete hc hres hcomplete]
    exact hnow rfl
  | gate g =>
    have hst := hactive (by rw [hres]; exact Kind.noConfusion)
    rcases hapart with hk | hk | ⟨-, hna⟩
    · rw [hres] at hk
      cases hk
    · rw [hres] at hk
      cases hk
    · exact absurd hst hna
  | analog ch =>
    rw [endOutsideLists_of_analog hc hres (hactive (by rw [hres]; exact Kind.noConfusion))]
    exact hnow (by simp)
  | edge e =>
    rw [endOutsideLists_of_edge hc hres (hactive (by rw [hres]; exact Kind.noConfusion))]
    exact hnow rfl

omit hends in
theorem endOutsideLists_slot_of_ne (s : State) (cause : EndCause) {i j : SlotIx} (hj : j ≠ i) :
    (s.endOutsideLists cause i).slots[j] = s.slots[j] := by
  rcases endOutsideLists_cases s cause i with heq | ⟨c, -, ⟨e, -, -, heq⟩ | ⟨ch, -, -, heq⟩ | ⟨e, -, -, heq⟩⟩ <;> rw [heq]
  · exact endNow_slot_of_ne s cause hj
  · rw [State.dropDemand_slots]
    exact endNow_slot_of_ne s cause hj
  · exact endNow_slot_of_ne s cause hj

omit hends in
theorem State.EndedAt.settled {j : SlotIx} (h : s.EndedAt j) : s.SettledAt j := fun c hc => by
  have hended := h c hc
  cases hst : c.state
  case retiring => exact .inl rfl
  case spent =>
    refine .inr (.inr (.inr ⟨?_, ?_⟩)) <;> rw [hst]
    · rfl
    · exact ClaimState.noConfusion
  all_goals
    rw [hst] at hended
    cases hended

omit hends in
theorem foldl_endOutsideLists_ends : ∀ (is : List SlotIx) {s : State}, s.Ranked → (∀ j ∈ is, s.SettledAt j) →
    ∀ j ∈ is, (is.foldl (fun s i => s.endOutsideLists cause i) s).EndedAt j
  | [], _, _, _, _, hj => absurd hj List.not_mem_nil
  | i :: is, s, hr, hs, j, hj => by
    have hended := endOutsideLists_ends (cause := cause) hr (hs i List.mem_cons_self)
    have hrun := endOutsideLists_runs (fin := fun _ => True) (ends := fun _ _ => True) (cause := cause) (i := i) hr trivial
    have hrest := foldl_endOutsideLists_runs (fin := fun _ => True) (ends := fun _ _ => True) (cause := cause) (is := is)
      (fun _ _ => trivial) hrun.ranked
    rcases List.mem_cons.mp hj with rfl | hj
    · exact hended.fares hrest.fares
    · refine foldl_endOutsideLists_ends is hrun.ranked (fun k hk => ?_) j hj
      by_cases hki : k = i
      · exact hki ▸ hended.settled
      · intro c hc
        rw [claim_of_slot (endOutsideLists_slot_of_ne s cause hki)] at hc
        exact hs k (List.mem_cons_of_mem i hk) c hc

/-- Several claims end at one event: every one of them has ended after it. -/
theorem endClaims_ends (hr : s.Ranked) {j : SlotIx} (hj : j ∈ ending) : (s.endClaims cause ending).EndedAt j := by
  obtain ⟨hlists, hsettled⟩ := endInLists_settles hends hr
  rw [endClaims_eq]
  exact foldl_endOutsideLists_ends ending hlists.ranked hsettled j hj

end Ended

end Sys2Proof.Machine
end

section
/-! SUPPORT. What an eviction makes of each claim before the hand-over (R173 steps 1 to 4): the SPENT slots of the link FREE,
its live, unpinned claims ended, and every other claim standing. -/

namespace Sys2Proof.Machine

/-! ### The course of a slot, read off -/

section Fate

variable {barred : Link → Bool} {fin : Claim → Prop} {ends : EndCause → Prop} {x y : Slot} {c d : Claim}

/-- A claim that came to be SPENT under a barred link was so before (R3). -/
theorem Slot.Fate.ne_spent_of_barred (h : Slot.Fate barred fin ends x y) (hc : x.claim = some c) (hst : c.state ≠ .spent)
    (hb : barred c.owner = true) (hd : y.claim = some d) : d.state ≠ .spent := by
  cases h with
  | rests =>
    rw [hc] at hd
    cases hd
    exact hst
  | shifts _ _ ho =>
    cases hd
    exact fun e => not_ongoing_of_spent e ho
  | finishes _ _ hn =>
    cases hc
    rw [hb] at hn
    cases hn
  | winds _ _ _ _ hw =>
    cases hd
    rw [hw]
    exact ClaimState.noConfusion
  | ends _ _ _ _ _ _ hn =>
    cases hc
    rw [hb] at hn
    cases hn
  | freed | discarded => cases hd

/-- A claim that does not end and whose owner is not barred is in its slot after. -/
theorem Slot.Fate.keeps (h : Slot.Fate barred fin ends x y) (hc : x.claim = some c) (hb : barred c.owner = false) :
    ∃ d, y.claim = some d ∧ c.Same d := by
  cases h with
  | rests => exact ⟨c, hc, Claim.Same.refl c⟩
  | shifts _ _ _ _ hs | winds _ _ _ hs | ends _ _ hs =>
    cases hc
    exact ⟨_, rfl, hs⟩
  | finishes =>
    cases hc
    exact ⟨_, rfl, ⟨rfl, rfl, rfl, rfl, rfl, rfl, rfl, rfl⟩⟩
  | freed _ _ hn | discarded _ _ hn =>
    cases hc
    rw [hb] at hn
    cases hn

/-- What an ending claim of a barred link comes to: FREE with its generation advanced, or RETIRING (R3, R30). -/
theorem Slot.Fate.ended_of_barred (h : Slot.Fate barred fin ends x y) (hc : x.claim = some c)
    (ho : c.state.ongoing = true) (hb : barred c.owner = true) (hended : ∀ d, y.claim = some d → d.state.ongoing = false) :
    y = ⟨x.gen + 1, none⟩ ∨ ∃ cause d, ends cause ∧ y.claim = some d ∧ c.Same d ∧ d.state = .retiring ∧
      d.endCause = some cause ∧ d.deadline = none := by
  cases h with
  | rests =>
    have hno := hended c hc
    rw [ho] at hno
    cases hno
  | shifts _ _ hd =>
    have hno := hended _ rfl
    rw [hd] at hno
    cases hno
  | finishes hret | freed hret =>
    cases hc
    exact (not_ongoing_of_retiring hret ho).elim
  | winds he _ _ hs hd hcause hline =>
    cases hc
    exact .inr ⟨_, _, he, rfl, hs, hd, hcause, hline⟩
  | ends _ _ _ _ _ _ hn =>
    cases hc
    rw [hb] at hn
    cases hn
  | discarded => exact .inl rfl

end Fate

/-- A claim that the works on the lists do not end stands. -/
theorem standsIn_of_fares {s u t : State} {ends : SlotIx → EndCause → Prop} {i : SlotIx} {c : Claim}
    (h : State.Fares (s.ClosesOver t) ends u t) (hc : u.claim i = some c) (hends : ∀ cause, ¬ends i cause) :
    s.StandsIn t i c := by
  have hfate := h.slots i
  have hbarred := h.barred
  rw [← hbarred] at hfate
  have hcx : u.slots[i].claim = some c := hc
  have hti
 : t.claim i = t.slots[i].claim := rfl
  generalize u.slots[i] = x at hfate hcx
  generalize hy : t.slots[i] = y at hfate hti
  clear hc hy
  cases hfate with
  | rests => exact ⟨fun ho => ⟨c, hti.trans hcx, Claim.Same.refl c, ho, rfl, rfl⟩, fun _ => hti.trans hcx,
      fun _ => .inl (hti.trans hcx)⟩
  | shifts _ hco hd _ hs hcause hline =>
    cases hcx
    exact ⟨fun _ => ⟨_, hti, hs, hd, hcause, hline⟩, fun hsp => (not_ongoing_of_spent hsp hco).elim,
      fun hret => (not_ongoing_of_retiring hret hco).elim⟩
  | finishes hret hf hb =>
    cases hcx
    refine ⟨fun ho => (not_ongoing_of_retiring hret ho).elim, fun hsp => ?_, fun _ => .inr ⟨hf, ?_⟩⟩
    · rw [hret] at hsp
      cases hsp
    · rw [if_neg (by rw [hb]; exact Bool.noConfusion)]
      exact hti
  | freed hret hf hb =>
    cases hcx
    refine ⟨fun ho => (not_ongoing_of_retiring hret ho).elim, fun hsp => ?_, fun _ => .inr ⟨hf, ?_⟩⟩
    · rw [hret] at hsp
      cases hsp
    · rw [if_pos hb]
      exact hti
  | winds he | ends he | discarded he => exact absurd he (hends _)

/-- What stands in a state stands in one with the same claim in the slot, the same barred marks and the same gates. -/
theorem State.StandsIn.congr {s t u : State} {i : SlotIx} {c : Claim} (h : s.StandsIn t i c)
    (hi : u.claim i = t.claim i) (hb : u.barred = t.barred) (hg : ∀ g, u.gateIsOpen g = t.gateIsOpen g) :
    s.StandsIn u i c := by
  refine ⟨fun ho => ?_, fun hsp => hi.trans (h.spent hsp), fun hret => ?_⟩
  · rw [hi]
    exact h.ongoing ho
  · rw [hi, hb]
    simp only [hg]
    exact h.retiring hret

/-! ### The link barred -/

theorem foldl_freeSlot_slot (j : SlotIx) : ∀ (is : List SlotIx) (s : State), is.Nodup →
    (is.foldl State.freeSlot s).slots[j] = if j ∈ is then ⟨s.slots[j].gen + 1, none⟩ else s.slots[j]
  | [], s, _ => by simp
  | i :: is, s, hn => by
    obtain ⟨hi, hn⟩ := List.nodup_cons.mp hn
    rw [List.foldl_cons, foldl_freeSlot_slot j is _ hn]
    by_cases hji : j = i
    · subst hji
      rw [if_neg hi, if_pos List.mem_cons_self, State.freeSlot_slot, if_pos rfl]
    · rw [State.freeSlot_slot, if_neg hji]
      simp [hji]

/-- The SPENT slots of the link go FREE with their generation advanced, and no other slot changes (R173 step 3, R3). -/
theorem barLink_slot (s : State) (l : Link) (j : SlotIx) : (s.barLink l).slots[j] =
    if ∃ c, s.claim j = some c ∧ c.owner = l ∧ c.state = .spent then ⟨s.slots[j].gen + 1, none⟩ else s.slots[j] := by
  unfold State.barLink
  refine (foldl_freeSlot_slot j _ _ (slotsWhere_nodup s _)).trans (ite_congr (propext ?_) (fun _ => rfl) fun _ => rfl)
  rw [State.mem_slotsWhere]
  simp only [Bool.and_eq_true, decide_eq_true_eq]

/-! ### The link's claims ended -/

section Evicting

variable {s : State} {l : Link}

theorem mem_endable {i : SlotIx} : i ∈ s.endable l ↔
    ∃ c, s.claim i = some c ∧ c.owner = l ∧ c.pinned = false ∧ c.state.ongoing = true := by
  rw [State.endable, State.mem_slotsWhere]
  simp only [Bool.and_eq_true, Bool.not_eq_true', decide_eq_true_eq, and_assoc]

theorem evicting_barred_of_ne {m : Link} (hm : m ≠ l) : (s.evicting l).barred m = s.barred m := by
  have hports : (s.evicting l).ports = (s.barLink l).ports := State.endClaims_ports _ _ _
  rw [barred_eq, hports, ← barred_eq, barLink_barred]
  simp [hm]

theorem evicting_runs (hr : s.Ranked) : State.Runs (s.ClosesOver (s.evicting l))
    (fun i cause => i ∈ s.endable l ∧ cause = .retire) (s.barLink l) (s.evicting l) := by
  refine endClaims_runs (barLink_moved hr l).ranked (fun i hi => ⟨hi, rfl⟩) fun c hc => ?_
  obtain ⟨d, hres, ho, hclosed⟩ := hc
  rw [State.gateIsOpen, State.barLink_gates] at ho
  exact ⟨d, hres, ho, hclosed⟩

theorem evicting_ends (hr : s.Ranked) {i : SlotIx} (hi : i ∈ s.endable l) : (s.evicting l).EndedAt i :=
  endClaims_ends (ends := fun _ _ => True) (fun _ _ => trivial) (barLink_moved hr l).ranked hi

/-- A claim that the bar leaves in its slot. -/
theorem barLink_slot_of_stays {i : SlotIx} {c : Claim} (hc : s.claim i = some c) (h : c.owner ≠ l ∨ c.state ≠ .spent) :
    (s.barLink l).slots[i] = s.slots[i] := by
  rw [barLink_slot, if_neg]
  rintro ⟨d, hd, ho, hst⟩
  rw [hc] at hd
  cases hd
  exact h.elim (fun h => h ho) fun h => h hst

/-- A slot that the bar frees stays FREE. -/
theorem evicting_slot_of_spent (hr : s.Ranked) {i : SlotIx} {c : Claim} (hc : s.claim i = some c) (ho : c.owner = l)
    (hst : c.state = .spent) : (s.evicting l).slots[i] = ⟨s.slots[i].gen + 1, none⟩ := by
  have hbar : (s.barLink l).slots[i] = ⟨s.slots[i].gen + 1, none⟩ := by
    rw [barLink_slot, if_pos ⟨c, hc, ho, hst⟩]
  have hfree := ((evicting_runs (l := l) hr).fares.slots i).of_free (by rw [hbar])
  exact hfree.trans hbar

/-- A claim that the eviction does not end stands. -/
theorem evicting_standsIn (hr : s.Ranked) {i : SlotIx} {c : Claim} (hc : s.claim i = some c)
    (h : c.owner ≠ l ∨ c.state ≠ .spent) (hi : i ∉ s.endable l) : s.StandsIn (s.evicting l) i c :=
  standsIn_of_fares (evicting_runs hr).fares ((claim_of_slot (barLink_slot_of_stays hc h)).trans hc) fun _ he => hi he.1

theorem evicting_ended (hr : s.Ranked) {i : SlotIx} {c : Claim} (hc : s.claim i = some c) (ho : c.owner = l)
    (hp : c.pinned = false) (hst : c.state.ongoing = true) :
    (s.evicting l).slots[i] = ⟨s.slots[i].gen + 1, none⟩ ∨
      ∃ d, (s.evicting l).claim i = some d ∧ c.Same d ∧ d.state = .retiring ∧ d.endCause = some .retire ∧
        d.deadline = none := by
  have hslot := barLink_slot_of_stays (l := l) hc (.inr fun e => not_ongoing_of_spent e hst)
  have hfate := (evicting_runs (l := l) hr).fares.slots i
  rw [hslot] at hfate
  have hb : (s.barLink l).barred c.owner = true := by
    rw [barLink_barred, ho]
    simp
  have hended := evicting_ends hr (mem_endable.mpr ⟨c, hc, ho, hp, hst⟩)
  refine (hfate.ended_of_barred hc hst hb hended).imp_right fun ⟨cause, d, he, hd, hs, hret, hcause, hline⟩ => ?_
  exact ⟨d, hd, hs, hret, he.2 ▸ hcause, hline⟩

/-- The claims of another link that is not barred are in their slots after. -/
theorem evicting_keeps (hr : s.Ranked) {i : SlotIx} {c : Claim} (hc : s.claim i = some c) (ho : c.owner ≠ l)
    (hb : s.barred c.owner = false) : ∃ d, (s.evicting l).claim i = some d ∧ c.Same d := by
  have hfate := (evicting_runs (l := l) hr).fares.slots i
  rw [barLink_slot_of_stays hc (.inl ho)] at hfate
  refine hfate.keeps hc ?_
  rw [barLink_barred, hb]
  simpa using ho

theorem evicting_descends (s : State) (l : Link) : s.Descends (s.evicting l) :=
  (s.barLink_descends l).trans (State.endClaims_descends _ _ _)

/-- What the link has left but for its pinned claims is RETIRING. -/
theorem evicting_retiring (hr : s.Ranked) {i : SlotIx} {d : Claim} (hd : (s.evicting l).claim i = some d)
    (ho : d.owner = l) (hp : d.pinned = false) : d.state = .retiring := by
  obtain ⟨c, hc, hs⟩ := evicting_descends s l i d hd
  have hco : c.owner = l := hs.owner.symm.trans ho
  have hcp : c.pinned = false := hs.pinned.symm.trans hp
  have hst : c.state ≠ .spent := fun hst => by
    rw [claim_of_slot (evicting_slot_of_spent hr hc hco hst)] at hd
    cases hd
  have hfate := (evicting_runs (l := l) hr).fares.slots i
  rw [barLink_slot_of_stays hc (.inr hst)] at hfate
  have hb : (s.barLink l).barred c.owner = true := by
    rw [barLink_barred, hco]
    simp
  have hne := hfate.ne_spent_of_barred hc hst hb hd
  have hended : d.state.ongoing = false := by
    cases hco' : c.state.ongoing with
    | true => exact evicting_ends hr (mem_endable.mpr ⟨c, hc, hco, hcp, hco'⟩) d hd
    | false =>
      rw [Bool.eq_false_iff]
      intro hdo
      obtain ⟨b, hb, hbo, -⟩ := hfate.ongoing hd hdo
      have hbc : b = c := Option.some.inj (hb.symm.trans hc)
      rw [hbc, hco'] at hbo
      cases hbo
  cases hds : d.state
  case retiring => rfl
  case spent => exact absurd hds hne
  all_goals
    rw [hds] at hended
    cases hended

end Evicting

end Sys2Proof.Machine
end

section
/-! PROOFS. EVICT and ADMIT (R173, R175): the hand-over of the pinned claims and of the holds, and what the whole eviction
makes of each claim. -/

namespace Sys2Proof.Machine

/-! ### The hand-over of the pinned claims (R173 step 5, R7) -/

/-- A claim has passed to the authority link, with its tag if that was free there, and HANDOVER is pending for it. -/
def State.HandedTo (s t : State) (auth : Link) (i : SlotIx) (c : Claim) : Prop :=
  ∃ tag, t.claim i = some { c with owner := auth, tag := tag } ∧ (s.tagFree auth c.tag → tag = c.tag) ∧
    (¬s.tagFree auth c.tag → tag = 0#16) ∧ t.noticed auth .handover i

section HandOver

variable {s : State} {i j : SlotIx} {c d : Claim}

theorem handOverPinned_slot_of_ne (hj : j ≠ i) : (s.handOverPinned i).slots[j] = s.slots[j] := by
  unfold State.handOverPinned
  rw [State.post_slots, State.updClaim_slot, if_neg hj]

theorem handOverPinned_noticed {l : Link} {k : NoticeKind} (h : s.noticed l k j) :
    (s.handOverPinned i).noticed l k j :=
  noticed_post (s := s.updClaim i _) h .handover i

theorem handOverPinned_hands (hc : s.claim i = some c) (hst : c.state ≠ .spent)
    (hb : s.barred s.setup.authority = false) : s.HandedTo (s.handOverPinned i) s.setup.authority i c := by
  refine ⟨if (s.tagSlot s.setup.authority c.tag).isSome then 0#16 else c.tag, ?_, fun hf => if_neg fun h => ?_, fun hf => ?_, ?_⟩
  · rw [handOverPinned_claim, if_pos rfl, hc]
    rfl
  · exact (tagSlot_isSome_iff s _ _).mp h hf
  · exact if_pos ((tagSlot_isSome_iff s _ _).mpr hf)
  · have hnew : (s.updClaim i fun c => { c with
        owner := s.setup.authority
        tag := if (s.tagSlot s.setup.authority c.tag).isSome then 0#16 else c.tag }).claim i = some { c with
          owner := s.setup.authority
          tag := if (s.tagSlot s.setup.authority c.tag).isSome then 0#16 else c.tag } := by
      rw [State.updClaim_claim, if_pos rfl, hc]
      rfl
    exact post_noticed hnew hst hb NoticeKind.noConfusion

/-- The hand-over of one claim leaves the tags of its link's other claims as free at the authority link as they were: no
two claims of a link share a tag (R7). -/
theorem handOverPinned_tagFree (ht : TagInv s) (hc : s.claim i = some c) (hd : s.claim j = some d) (hij : j ≠ i)
    (hcd : c.owner = d.owner) (ho : c.owner ≠ s.setup.authority) :
    (s.handOverPinned i).tagFree s.setup.authority d.tag ↔ s.tagFree s.setup.authority d.tag := by
  refine or_congr_right' fun hzero => ⟨fun h k x hx hxo => ?_, fun h k x hx hxo => ?_⟩
  · refine h k x ?_ hxo
    rw [handOverPinned_claim, if_neg]
    · exact hx
    · rintro rfl
      rw [hc] at hx
      cases hx
      exact ho hxo
  · rw [handOverPinned_claim] at hx
    split at hx
    · rw [hc] at hx
      cases hx
      dsimp only
      split
      · exact fun e => hzero e.symm
      · exact fun e => hij (ht i j c d hc hd hcd e (fun hz => hzero (e.symm.trans hz))).symm
    · exact h k x hx hxo

theorem foldl_handOverPinned_slot_of_not_mem : ∀ (is : List SlotIx) {s : State}, j ∉ is →
    (is.foldl State.handOverPinned s).slots[j] = s.slots[j]
  | [], _, _ => rfl
  | i :: is, s, hj => by
    obtain ⟨hji, hj⟩ := List.ne_and_not_mem_of_not_mem_cons hj
    rw [List.foldl_cons, foldl_handOverPinned_slot_of_not_mem is hj, handOverPinned_slot_of_ne hji]

theorem foldl_handOverPinned_hands {m : Link} : ∀ (is : List SlotIx) {s : State}, is.Nodup → TagInv s →
    (∀ i ∈ is, ∃ c, s.claim i = some c ∧ c.owner = m ∧ c.state ≠ .spent) → m ≠ s.setup.authority →
      s.barred s.setup.authority = false → ∀ i ∈ is, ∀ c, s.claim i = some c →
        s.HandedTo (is.foldl State.handOverPinned s) s.setup.authority i c
  | [], _, _, _, _, _, _, _, hi => absurd hi List.not_mem_nil
  | i :: is, s, hn, ht, hmem, hm, hb, k, hk => by
    intro d hd
    obtain ⟨hi, hn⟩ := List.nodup_cons.mp hn
    obtain ⟨c, hc, ho, hst⟩ := hmem i List.mem_cons_self
    have hother : ∀ {j}, j ∈ is → j ≠ i := fun hj e => hi (e ▸ hj)
    have hrest := foldl_handOverPinned_hands is (s := s.handOverPinned i) hn (handOverPinned_tagInv ht i) (fun j hj => by
      obtain ⟨x, hx, hxo, hxs⟩ := hmem j (List.mem_cons_of_mem _ hj)
      exact ⟨x, (claim_of_slot (handOverPinned_slot_of_ne (hother hj))).trans hx, hxo, hxs⟩) hm hb
    rcases List.mem_cons.mp hk with rfl | hk
    · rw [hc] at hd
      cases hd
      obtain ⟨tag, hnew, hfree, hnot, hnoticed⟩ := handOverPinned_hands hc hst hb
      refine ⟨tag, (claim_of_slot (foldl_handOverPinned_slot_of_not_mem is hi)).trans hnew, hfree, hnot, ?_⟩
      exact List.foldlRecOn (motive := fun u : State => u.noticed s.setup.authority .handover k) is _ hnoticed fun u hu j _ =>
        handOverPinned_noticed hu
    · have hdo : d.owner = m := by
        obtain ⟨x, hx, hxo, -⟩ := hmem k (List.mem_cons_of_mem _ hk)
        rw [hd] at hx
        cases hx
        exact hxo
      obtain ⟨tag, hnew, hfree, hnot, hnoticed⟩ := hrest k hk d
        ((claim_of_slot (handOverPinned_slot_of_ne (hother hk))).trans hd)
      have hiff := handOverPinned_tagFree ht hc hd (hother hk) (ho.trans hdo.symm) (ho ▸ hm)
      exact ⟨tag, hnew, fun h => hfree (hiff.mpr h), fun h => hnot fun h' => h (hiff.mp h'), hnoticed⟩

end HandOver

/-! ### The whole eviction (R173) -/

section Evict

variable {s : State} {l : Link}

/-- The state of an eviction after the pinned claims have passed. -/
def State.handedOver (s : State) (l : Link) : State :=
  ((s.evicting l).pinnedOf l).foldl State.handOverPinned (s.evicting l)

theorem handedOver_setup (s : State) (l : Link) : (s.handedOver l).setup = s.setup := by
  have hfold : (s.handedOver l).setup = (s.evicting l).setup :=
    foldl_keeps State.setup State.handOverPinned (fun _ _ => rfl) _ _
  rw [hfold, State.evicting, State.endClaims_setup, State.barLink_setup]

theorem evictLink_slot_of_not_mem {j : SlotIx} (hj : j ∉ (s.evicting l).pinnedOf l) :
    (s.evictLink l).slots[j] = (s.evicting l).slots[j] :=
  foldl_handOverPinned_slot_of_not_mem _ hj

theorem evictLink_barred (s : State) (l : Link) : (s.evictLink l).barred = (s.evicting l).barred := by
  have hfold : (s.evictLink l).ports = (s.evicting l).ports :=
    foldl_keeps State.ports State.handOverPinned (fun _ _ => rfl) _ _
  exact funext fun m => by rw [barred_eq, barred_eq, hfold]

theorem handedOver_gates (s : State) (l : Link) : (s.handedOver l).gates = (s.evicting l).gates :=
  foldl_keeps State.gates State.handOverPinned (fun _ _ => rfl) _ _

theorem evictLink_gateIsOpen (s : State) (l : Link) (g : Gate) :
    (s.evictLink l).gateIsOpen g = (s.evicting l).gateIsOpen g := by
  have hpass : (s.evictLink l).gateIsOpen g = (s.handedOver l).gateIsOpen g := (passHolds_reads (s.handedOver l) l g).isOpen
  rw [hpass, State.gateIsOpen, handedOver_gates]
  rfl

theorem endInGate_holds (s : State) (g k : Gate) (cause : EndCause) (ending : List SlotIx) :
    ((s.endInGate g cause ending).gates.get k).holds = (s.gates.get k).holds := by
  by_cases hany : ∃ i ∈ s.gateList g, i ∈ ending
  · have hended : (s.gateListEnded g cause ending).gates = s.gates :=
      foldl_keeps State.gates (fun s i => s.endNow cause i) (fun u i => u.endNow_gates cause i) _ s
    rw [endInGate_of_present hany, ← hended]
    by_cases hk : k = g
    · rw [hk, State.evalGate_holds]
    · rw [State.evalGate_other _ g k hk]
  · rw [endInGate_of_absent fun i hi he => hany ⟨i, hi, he⟩]

/-- The ends of claims leave the gates' holds. -/
theorem endClaims_holds (s : State) (cause : EndCause) (ending : List SlotIx) (g : Gate) :
    ((s.endClaims cause ending).gates.get g).holds = (s.gates.get g).holds := by
  have hlists : ((s.endInLists cause ending).gates.get g).holds = (s.gates.get g).holds :=
    endInLists_keeps (P := fun u => (u.gates.get g).holds = (s.gates.get g).holds)
      (fun u d hu => by rw [State.endInDrive_gates]; exact hu)
      (fun u k hu => (endInGate_holds u k g cause ending).trans hu) rfl
  rw [endClaims_eq, foldl_keeps State.gates _ fun u i => u.endOutsideLists_gates cause i]
  exact hlists

theorem passHolds_holds (s : State) (l : Link) (g : Gate) : ((s.passHolds l).gates.get g).holds =
    (s.gates.get g).holds.map (TripHold.pass l s.setup.authority) := by
  cases g <;> rfl

theorem evictLink_holds (s : State) (l : Link) (g : Gate) : ((s.evictLink l).gates.get g).holds =
    (s.gates.get g).holds.map (TripHold.pass l s.setup.authority) := by
  have hpass : ((s.evictLink l).gates.get g).holds =
      ((s.handedOver l).gates.get g).holds.map (TripHold.pass l (s.handedOver l).setup.authority) :=
    passHolds_holds (s.handedOver l) l g
  rw [hpass, handedOver_setup, handedOver_gates, State.evicting, endClaims_holds, State.barLink_gates]

variable (hr : s.Ranked) (hl : l ≠ s.setup.authority)
include hr hl

omit hr hl in
/-- Only a slot whose claim was a pinned one of the link is handed over. -/
theorem not_mem_pinnedOf_evicting {i : SlotIx} {c : Claim} (hc : s.claim i = some c) (h : c.owner ≠ l ∨ c.pinned = false) :
    i ∉ (s.evicting l).pinnedOf l := fun hi => by
  obtain ⟨x, hx, hxo, hxp⟩ := mem_pinnedOf hi
  obtain ⟨b, hb, hs⟩ := evicting_descends s l i x hx
  rw [hc] at hb
  cases hb
  rcases h with h | h
  · exact h (hs.owner.symm.trans hxo)
  · rw [← hs.pinned, hxp] at h
    cases h

omit hl in
/-- A claim that the eviction neither ends nor hands over stands. -/
theorem evictLink_standsIn {i : SlotIx} {c : Claim} (hc : s.claim i = some c) (h : c.owner ≠ l ∨ c.state ≠ .spent)
    (hi : i ∉ s.endable l) (hp : c.owner ≠ l ∨ c.pinned = false) : s.StandsIn (s.evictLink l) i c :=
  (evicting_standsIn hr hc h hi).congr (claim_of_slot (evictLink_slot_of_not_mem (not_mem_pinnedOf_evicting hc hp)))
    (evictLink_barred s l) (evictLink_gateIsOpen s l)

omit hl in
theorem evictLink_slot_of_spent {i : SlotIx} {c : Claim} (hc : s.claim i = some c) (ho : c.owner = l)
    (hst : c.state = .spent) : (s.evictLink l).slots[i] = ⟨s.slots[i].gen + 1, none⟩ := by
  have hfree := evicting_slot_of_spent hr hc ho hst
  refine (evictLink_slot_of_not_mem fun hi => ?_).trans hfree
  obtain ⟨x, hx, -⟩ := mem_pinnedOf hi
  rw [claim_of_slot hfree] at hx
  cases hx

omit hl in
theorem evictLink_ended {i : SlotIx} {c : Claim} (hc : s.claim i = some c) (ho : c.owner = l) (hp : c.pinned = false)
    (hst : c.state.ongoing = true) : (s.evictLink l).slots[i] = ⟨s.slots[i].gen + 1, none⟩ ∨
      ∃ d, (s.evictLink l).claim i = some d ∧ c.Same d ∧ d.state = .retiring ∧ d.endCause = some .retire ∧
        d.deadline = none := by
  have hslot := evictLink_slot_of_not_mem (not_mem_pinnedOf_evicting hc (.inr hp) : i ∉ (s.evicting l).pinnedOf l)
  rw [hslot, claim_of_slot hslot]
  exact evicting_ended hr hc ho hp hst

variable (ht : TagInv s) (hb : s.barred s.setup.authority = false) (hlife : LifeInv s)
include ht hb hlife

omit hl ht hb in
/-- A pinned claim
 of the link comes to the hand-over as it was. -/
theorem evicting_pinned {i : SlotIx} {c : Claim} (hc : s.claim i = some c) (ho : c.owner = l) (hp : c.pinned = true) :
    i ∈ (s.evicting l).pinnedOf l ∧ ∃ d, (s.evicting l).claim i = some d ∧ c.Same d ∧ d.state.ongoing = true ∧
      d.endCause = c.endCause ∧ d.deadline = c.deadline := by
  have hst : c.state.ongoing = true := (hlife i c hc).2.2 hp
  have hnot : i ∉ s.endable l := fun hi => by
    obtain ⟨x, hx, -, hxp, -⟩ := mem_endable.mp hi
    rw [hc] at hx
    cases hx
    rw [hp] at hxp
    cases hxp
  obtain ⟨d, hd, hs, hrest⟩ := (evicting_standsIn hr hc (.inr fun e => not_ongoing_of_spent e hst) hnot).ongoing hst
  refine ⟨(State.mem_slotsWhere _ _ i).mpr ⟨d, hd, ?_⟩, d, hd, hs, hrest⟩
  rw [hs.owner, hs.pinned, ho, hp]
  simp

omit ht hlife hr in
theorem evicting_authority : (s.evicting l).setup.authority = s.setup.authority ∧
    (s.evicting l).barred (s.evicting l).setup.authority = false := by
  have hauth : (s.evicting l).setup.authority = s.setup.authority := by
    rw [State.evicting, State.endClaims_setup, State.barLink_setup]
  refine ⟨hauth, ?_⟩
  rw [hauth, evicting_barred_of_ne hl.symm, hb]

omit ht hlife in
/-- The authority link's tags are those that it had. -/
theorem evicting_tagFree (tag : BitVec 16) :
    (s.evicting l).tagFree s.setup.authority tag ↔ s.tagFree s.setup.authority tag := by
  refine or_congr_right ⟨fun h i c hc ho => ?_, fun h i d hd ho => ?_⟩
  · obtain ⟨d, hd, hs⟩ := evicting_keeps hr hc (fun e => hl (e.symm.trans ho)) (ho ▸ hb)
    exact hs.tag ▸ h i d hd (hs.owner.trans ho)
  · obtain ⟨c, hc, hs⟩ := evicting_descends s l i d hd
    rw [hs.tag]
    exact h i c hc (hs.owner.symm.trans ho)

/-- Every pinned claim of the link passes to the authority link (R173 step 5). -/
theorem evictLink_hands {i : SlotIx} {c : Claim} (hc : s.claim i = some c) (ho : c.owner = l) (hp : c.pinned = true) :
    ∃ d, (s.evictLink l).claim i = some d ∧ d.owner = s.setup.authority ∧ d.resource = c.resource ∧ d.cls = c.cls ∧
      d.hold = c.hold ∧ d.pinned = true ∧ d.wantsSample = c.wantsSample ∧ d.payload.body = c.payload.body ∧
      d.endCause = c.endCause ∧ d.deadline = c.deadline ∧ d.state.ongoing = true ∧
      (s.tagFree s.setup.authority c.tag → d.tag = c.tag) ∧ (¬s.tagFree s.setup.authority c.tag → d.tag = 0#16) ∧
      (s.evictLink l).noticed s.setup.authority .handover i := by
  obtain ⟨hi, d, hd, hs, hst, hcause, hline⟩ := evicting_pinned hr hlife hc ho hp
  obtain ⟨hauth, hbarred⟩ := evicting_authority hl hb
  have hlive : ∀ j ∈ (s.evicting l).pinnedOf l, ∃ x, (s.evicting l).claim j = some x ∧ x.owner = l ∧ x.state ≠ .spent :=
    fun j hj => by
      obtain ⟨x, hx, hxo, hxp⟩ := mem_pinnedOf hj
      obtain ⟨b, hb, hsame⟩ := evicting_descends s l j x hx
      obtain ⟨-, y, hy, -, hyo, -⟩ := evicting_pinned hr hlife hb (hsame.owner.symm.trans hxo) (hsame.pinned.symm.trans hxp)
      rw [hx] at hy
      cases hy
      exact ⟨x, hx, hxo, fun e => not_ongoing_of_spent e hyo⟩
  obtain ⟨tag, hnew, hfree, hnot, hnoticed⟩ := foldl_handOverPinned_hands _ (pinnedOf_nodup (s.evicting l) l)
    (tagInv_of_keeps (evicting_descends s l).keeps ht) hlive (hauth.symm ▸ hl) hbarred i hi d hd
  rw [hauth, hs.tag, evicting_tagFree hr hl hb] at hfree hnot
  rw [hauth] at hnew hnoticed
  exact ⟨_, hnew, rfl, hs.resource, hs.cls, hs.hold, hs.pinned.trans hp, hs.wants, hs.body, hcause, hline, hst, hfree,
    hnot, hnoticed⟩

/-- What the link still owns is RETIRING. -/
theorem evictLink_left {i : SlotIx} {d : Claim} (hd : (s.evictLink l).claim i = some d) (ho : d.owner = l) :
    d.state = .retiring ∧ d.pinned = false := by
  by_cases hi : i ∈ (s.evicting l).pinnedOf l
  · obtain ⟨x, hx, hxo, hxp⟩ := mem_pinnedOf hi
    obtain ⟨b, hb', hs⟩ := evicting_descends s l i x hx
    obtain ⟨y, hy, hyo, -⟩ := evictLink_hands hr hl ht hb hlife hb' (hs.owner.symm.trans hxo) (hs.pinned.symm.trans hxp)
    rw [hd] at hy
    cases hy
    exact absurd (ho.symm.trans hyo) hl
  · rw [claim_of_slot (evictLink_slot_of_not_mem hi)] at hd
    have hp : d.pinned = false := by
      rw [Bool.eq_false_iff]
      intro hp
      exact hi ((State.mem_slotsWhere _ _ i).mpr ⟨d, hd, by simp [ho, hp]⟩)
    exact ⟨evicting_retiring hr hd ho hp, hp⟩

end Evict

/-! ### The requests -/

theorem linkBody_linkByte (l : Link) : linkBody? [linkByte l] = some l := by cases l <;> rfl

/-- A body that names no link (R173, R175). -/
theorem linkBody_none {body : List Byte} (h : body.length ≠ 1 ∨ 2 < natAt body 0) : linkBody? body = none := by
  unfold linkBody?
  split
  · rfl
  · rename_i hlen
    have hbig := h.resolve_left hlen
    rw [Option.eq_none_iff_forall_ne_some]
    intro l hl
    rw [(linkOf_some _ _).mp hl] at hbig
    cases l <;> exact absurd hbig (by decide)

/-- A body that an eviction refuses: it names no link, or the authority link. -/
theorem evictRequest_of_badBody {s : State} {l : Link} {body : List Byte} (ho : l = s.setup.authority)
    (hp : s.setup.part = .run) (h : body.length ≠ 1 ∨ 2 < natAt body 0 ∨ byteAt body 0 = linkByte l) :
    s.evictRequest l body = s.refuse .badValue := by
  rw [State.evictRequest, State.byAuthority_of_authority ho, State.inRun_of_run hp]
  cases hbody : linkBody? body with
  | none => rfl
  | some t =>
    have hbyte : byteAt body 0 = linkByte l := by
      by_contra hne
      rw [linkBody_none (or_assoc.mpr h |>.resolve_right hne)] at hbody
      cases hbody
    have htl : t = l := by
      unfold linkBody? at hbody
      split at hbody
      · cases hbody
      · rw [natAt, hbyte, (linkOf_some _ l).mpr rfl] at hbody
        exact (Option.some.inj hbody).symm
    exact if_pos (htl.trans ho)

theorem evictRequest_of_link {s : State} {l m : Link} (ho : l = s.setup.authority) (hp : s.setup.part = .run)
    (hm : m ≠ l) : s.evictRequest l [linkByte m] =
      (s.evictLink m).ok (.evicted (s.endable m).length (s.pinnedOf m).length (s.holdsOf m)) := by
  rw [State.evictRequest, State.byAuthority_of_authority ho, State.inRun_of_run hp, linkBody_linkByte]
  exact if_neg fun e => hm (e.trans ho.symm)

theorem holdsOf_eq (s : State) (l : Link) : s.holdsOf l =
    (s.gates.get .gt).holds.countP (fun h => decide (h.owner = l)) +
      (s.gates.get .gb).holds.countP fun h => decide (h.owner = l) := by
  rw [State.holdsOf, ← List.countP_eq_length_filter, List.countP_append]
  rfl

theorem admitRequest_of_badBody {s : State} {l : Link} {body : List Byte} (ho : l = s.setup.authority)
    (hp : s.setup.part = .run) (h : body.length ≠ 1 ∨ 2 < natAt body 0) : s.admitRequest l body = s.refuse .badValue := by
  simp only [State.admitRequest, State.byAuthority_of_authority ho, State.inRun_of_run hp, linkBody_none h]

theorem admitRequest_of_link {s : State} {l : Link} (ho : l = s.setup.authority) (hp : s.setup.part = .run) (m : Link) :
    s.admitRequest l [linkByte m] = (s.setPort m { s.ports.get m with barred := false }).ok .empty := by
  simp only [State.admitRequest, State.byAuthority_of_authority ho, State.inRun_of_run hp, linkBody_linkByte]

/-- Settles O36: the steps of R173 one after another, read off for every slot. -/
theorem evictAndAdmit : Obligations.EvictAndAdmit := by
  refine ⟨fun l s h ho hp => ⟨fun body hb hbad => ?_, fun m hm htable hlist hlife htag hauth => ?_⟩,
    fun l s h ho hp => ⟨fun body hb hbad => ?_, fun m => ?_⟩⟩
  · rw [exec_evict h hb, evictRequest_of_badBody ho hp hbad, refuse_outcome]
  · have hr := ranked_of_inv htable hlist
    have hml : m ≠ s.setup.authority := ho ▸ hm
    obtain ⟨-, hnotBarred⟩ := hauth
    have hbarred : (s.evictLink m).barred m = true := by
      rw [evictLink_barred, evicting_barred]
    have hnone : (s.evictLink m).notices.get m = [] := (evictLink_moved hr m).ranked.table.barredEmpty m hbarred
    have hstands : ∀ i c, s.claim i = some c → c.owner = m → c.state = .retiring → s.StandsIn (s.evictLink m) i c :=
      fun i c hc _ hret => by
        have hunpinned : c.pinned = false := by
          rw [Bool.eq_false_iff]
          exact fun hpin => not_ongoing_of_retiring hret ((hlife i c hc).2.2 hpin)
        refine evictLink_standsIn hr hc (.inr fun e => ?_) (fun hi => ?_) (.inr hunpinned)
        · rw [hret] at e
          cases e
        · obtain ⟨x, hx, -, -, hxs⟩ := mem_endable.mp hi
          rw [hc] at hx
          cases hx
          exact not_ongoing_of_retiring hret hxs
    refine ⟨s.evictLink m, ?_, hbarred, hnone, by simp [State.alertLow, hnone],
      fun i c hc hco hst => evictLink_slot_of_spent hr hc hco hst, fun i c hc hend => ?_,
      fun i c hc hco => evictLink_left hr hml htag hnotBarred hlife hc hco, hstands,
      fun i c hc hco hpin => ?_, fun i c hc hco => ?_, fun g => ?_, by simp, by simp, by simp, by simp⟩
    · rw [exec_evict h (by simp), evictRequest_of_link ho hp hm, ok_outcome, holdsOf_eq, State.endable,
        State.slotsWhere_length, State.pinnedOf, State.slotsWhere_length]
    · simp only [Bool.and_eq_true, Bool.not_eq_true', decide_eq_true_eq] at hend
      obtain ⟨⟨hco, hpin⟩, hst⟩ := hend
      exact evictLink_ended hr hc hco hpin hst
    · rw [ho]
      exact evictLink_hands hr hml htag hnotBarred hlife hc hco hpin
    · refine evictLink_standsIn hr hc (.inl hco) (fun hi => ?_) (.inl hco)
      obtain ⟨x, hx, hxo, -⟩ := mem_endable.mp hi
      rw [hc] at hx
      cases hx
      exact hco hxo
    · rw [evictLink_holds, ho]
      rfl
  · rw [exec_admitLink h hb, admitRequest_of_badBody ho hp hbad, refuse_outcome]
  · rw [exec_admitLink h (by simp), admitRequest_of_link ho hp m, ok_outcome]

end Sys2Proof.Machine
end
